-- ==== Sys2Proof/Word.lean ====
section
/-! DEFINITION. The word types of the machine and their plainest arithmetic (R4, R33, R34). -/

namespace Sys2Proof

/-- A byte of memory. -/
abbrev Byte := BitVec 8
/-- A 32-bit register value: a uniform register, a mask, one lane of a vector register (R112). -/
abbrev Word := BitVec 32
/-- A 64-bit instruction word, literal, or pair (R33). -/
abbrev DWord := BitVec 64
/-- A 128-bit pointer, tile register or matrix word (R57, R198, R359). -/
abbrev QWord := BitVec 128
/-- One vector register: a 32-bit value in each of the 32 lanes (R112). -/
abbrev VReg := Vector Word 32
/-- The image of one 128-byte line, byte `k` in bits `[8k+7:8k]` (R26). -/
abbrev LineData := BitVec 1024

/-- Bits `[lo+n-1:lo]` of `x`, as an `n`-bit value (the field `[hi:lo]` of R4 with `n = hi - lo + 1`). -/
abbrev bits {w : Nat} (x : BitVec w) (lo n : Nat) : BitVec n := x.extractLsb' lo n

/-- Bit `n` of `x`. -/
abbrev bit {w : Nat} (x : BitVec w) (n : Nat) : Bool := x.getLsbD n

end Sys2Proof
end

