-- ==== Sys2Proof/Fields.lean ====
section
/-! DEFINITION. What the fields of instruction words and messages hold (R22, R23, R34-R50, R57-R60, R199), the names of
the instructions of the two streams, and a decoded word as a name with its fields. -/

namespace Sys2Proof

/-- The TYPE codes of R49. -/
inductive Ty where
  | f64 | f32 | f16 | bf16
  | i8 | i16 | i32 | i64
  | n8 | n16 | n32 | n64
  | b8 | b16 | b32 | b64 | b128
  | nf (k : BitVec 3)
deriving DecidableEq, Repr

/-- The rounding modes of R50. -/
inductive Rnd where
  | rne | rtz | rdn | rup | rto
deriving DecidableEq, Repr

/-- The CK field of R42 and R43: what SC holds. -/
inductive CK where
  | reg | uni | imm | lit
deriving DecidableEq, Repr

/-- The IK field of R44: what IDX holds. -/
inductive IK where
  | vec | uni | none
deriving DecidableEq, Repr

/-- The scopes of R22 and R199. -/
inductive Scope where
  | core | clus | die | pkg | pod
deriving DecidableEq, Repr

/-- The sharing classes of R23 and R199. -/
inductive Share where
  | priv | rsh | syn
deriving DecidableEq, Repr

/-- The address spaces of R199. -/
inductive Space where
  | glb | loc | pool | nbr
deriving DecidableEq, Repr

/-- The combining operations of the atomics (R252). -/
inductive AtOp where
  | add | min | max | and | or | xor | xch | cas
deriving DecidableEq, Repr

/-- The vote reductions of R45 and R344. -/
inductive VoteMode where
  | all | any | maj
deriving DecidableEq, Repr

/-- What a request to a home asks for (R222, R242): an untracked fill, a tracked shared copy, an owned copy. -/
inductive ReqKind where
  | untracked | shared | owned
deriving DecidableEq, Repr

/-- A coherence request or fill: its sequence number, its kind, and the PART of the line's page (R242-R244; log 83). -/
structure CohReq where
  seq : Nat
  kind : ReqKind
  part : BitVec 4
deriving DecidableEq, Repr

/-- The line that an invalidation or a recall concerns, and the sequence number that its home gave it (R244, R246). -/
structure ProbeMsg where
  line : Nat
  seq : Nat
deriving DecidableEq, Repr

/-- Where a write-back comes from, its line and its sequence number (R244, R245). -/
structure LineMsg where
  pkg : Nat
  clus : Nat
  line : Nat
  seq : Nat
deriving DecidableEq, Repr

/-- A message that left the package, by its place among them, and whether it has been acknowledged end to end (R374). -/
structure MsgFate where
  id : Nat
  acked : Bool
deriving DecidableEq, Repr

/-- What a packet of a remote copy asks for: bytes to be written, or so many to be read (R375). -/
structure PacketBody where
  count : Nat
  put : Bool
  bytes : List (BitVec 8)
deriving DecidableEq, Repr

/-- The source, the port and the time tag of a recorded input (R441). -/
structure RecordHead where
  src : Nat
  port : Nat
  tag : BitVec 64
deriving DecidableEq, Repr

/-- What a register write reaches: an offset of I/O space, or, of a store of the firmware, a physical address (R446, R452). -/
inductive RegDest where
  | reg (off : Nat)
  | firmware (pa : Nat)
deriving DecidableEq, Repr

/-- A clock step with the pacing of the issue slots (R451). -/
structure ClockStep where
  step : Nat
  pacing : BitVec 8
deriving DecidableEq, Repr

/-- The unit an uncorrectable or corrected error is charged to (R438). -/
inductive ErrUnit where
  | line (pa : Nat)
  | directory (line : Nat)
  | team (t : Nat)
  | path (line : Nat)
  | package
  | lane (port : Nat)
deriving DecidableEq, Repr

/-- A flit as the receiver's decoder hands it on (R377, R378); `hits` are the bytes, of 256, that the link has changed. -/
structure Flit where
  seq : BitVec 12
  ackseq : BitVec 12
  av : Bool
  nak : Bool
  kind : BitVec 4
  cred : BitVec 8
  cvc : BitVec 3
  vc : BitVec 3
  dpkg : BitVec 9
  spkg : BitVec 9
  plen : BitVec 8
  frag : BitVec 2
  rsv : BitVec 56
  payload : BitVec 1792
  crc : BitVec 32
  hits : List Nat
deriving DecidableEq, Repr

/-- A host-link command (R448). -/
structure HostCmd where
  op : BitVec 8
  flags : BitVec 8
  tag : BitVec 16
  len : BitVec 32
  addr : BitVec 64
  data : BitVec 384
deriving DecidableEq, Repr

/-- The fields of a VR or UR word beside CLASS, FMT and MINOR (R34, R42, R43); `lit` is the literal word, 0 without one. -/
structure VF where
  y : Bool
  t : Bool
  msk : BitVec 3
  dst : BitVec 7
  sa : BitVec 7
  sb : BitVec 7
  sc : BitVec 7
  ty : Ty
  rnd : Rnd
  k : Bool
  ak : Bool
  bk : Bool
  ck : CK
  x : Bool
  lit : BitVec 64
deriving DecidableEq, Repr

/-- The fields of an MA word (R44). -/
structure MAF where
  y : Bool
  msk : BitVec 3
  data : BitVec 7
  ptr : BitVec 7
  idx : BitVec 7
  off : BitVec 7
  ty : Ty
  rnd : Rnd
  ik : IK
  ol : Bool
  fn : BitVec 3
  lit : BitVec 64
deriving DecidableEq, Repr

/-- The fields of a class 5 word, an MA word with the layout of R223. -/
structure RTF where
  y : Bool
  pd : BitVec 7
  pa : BitVec 7
  idx : BitVec 7
  off : BitVec 7
  nscope : Scope
  ik : IK
  ol : Bool
  hs : Bool
  nclass : Share
  lit : BitVec 64
deriving DecidableEq, Repr

/-- The fields of a BR word (R45); `l` tells the literal form. -/
structure BRF where
  y : Bool
  msk : BitVec 3
  dst : BitVec 7
  pred : BitVec 7
  off : BitVec 14
  hint : Bool
  cpt : Bool
  pk : Bool
  sel : BitVec 2
  mode : BitVec 2
  fn : BitVec 7
  l : Bool
  lit : BitVec 64
deriving DecidableEq, Repr

/-- The fields of an SP word (R46). -/
structure SPF where
  y : Bool
  msk : BitVec 3
  dst : BitVec 7
  sa : BitVec 7
  sel : BitVec 14
  fn : BitVec 14
deriving DecidableEq, Repr

/-- The fields of an EN word (R47). -/
structure ENF where
  y : Bool
  msk : BitVec 3
  dst : BitVec 7
  sa : BitVec 7
  sb : BitVec 7
  sc : BitVec 7
  ty : Ty
  tsel : BitVec 3
  slot : BitVec 2
  fn : BitVec 4
deriving DecidableEq, Repr

/-- The fields of a BA word beside the barrier kind, which the constructor names (R48). -/
structure BAF where
  y : Bool
  msk : BitVec 3
  dst : BitVec 7
  sa : BitVec 7
  bnum : BitVec 4
  cnt : BitVec 7
  ck : CK
  fn : BitVec 10
  lit : BitVec 64
deriving DecidableEq, Repr

/-- The wait and arrive fields of every matrix-stream word (R57). -/
structure MXW where
  av : Bool
  ab : BitVec 4
  wv : Bool
  wb : BitVec 4
deriving DecidableEq, Repr

/-- The fields of an MX word (R58). -/
structure MXF where
  w : MXW
  xv : Bool
  xsel : BitVec 2
  sv : Bool
  sbsel : BitVec 2
  sbreg : BitVec 7
  sasel : BitVec 2
  sareg : BitVec 7
  bty : Ty
  aty : Ty
  breg : BitVec 7
  aoff : BitVec 16
  qa : BitVec 4
  z : Bool
  tcol : BitVec 2
  trow : BitVec 5
deriving DecidableEq, Repr

/-- The fields of an MD word (R59). -/
structure MDF where
  w : MXW
  fill : BitVec 32
  rnd : Rnd
  dty : Ty
  fv : Bool
  dmode : BitVec 3
  doff : BitVec 16
  qd : BitVec 4
  tcol : BitVec 2
  trow : BitVec 5
deriving DecidableEq, Repr

/-- The fields of an MC word (R60). -/
structure MCF where
  w : MXW
  imm : BitVec 32
  tgt : BitVec 16
  qc : BitVec 4
deriving DecidableEq, Repr

/-- The fields of an MQ word (R60). -/
structure MQF where
  w : MXW
  imm : BitVec 32
  ib : Bool
  qb : BitVec 4
  qa : BitVec 4
  qd : BitVec 4
deriving DecidableEq, Repr

/-- The fields of an MS word (R60). -/
structure MSF where
  w : MXW
deriving DecidableEq, Repr

/-- The names of the group-stream and matrix-stream instructions, without operands. -/
inductive Op where
  | addIntVr | addIntUr | subIntVr | subIntUr | mulIntVr | mulIntUr | mulhiVr | mulhiUr
  | madVr | madUr | divIntVr | divIntUr | remVr | remUr | minIntVr | minIntUr
  | maxIntVr | maxIntUr | absIntVr | absIntUr | negIntVr | negIntUr | andVr | andUr
  | orVr | orUr | xorVr | xorUr | notVr | notUr | shlVr | shlUr
  | shrVr | shrUr | rotVr | rotUr | popcVr | popcUr | clzVr | clzUr
  | brevVr | brevUr | bfeVr | bfeUr | bfiVr | bfiUr | cmpIntVr | cmpIntUr
  | selVr | selUr | movVr | movUr | leaVr | leaUr | extVr | extUr
  | dp4Vr | dp4Ur | mset | mget | mlog | xacq | xrel | donate
  | bra | brt | brf | bany | ball | call | loop | ldec
  | lexit | jmpr | callr | ret | join | exit | jmpv | mact
  | nop | yield | lcrd | lcwr | addFloat | subFloat | mulFloat | fma
  | fms | fnma | divFloat | sqrt | minFloat | maxFloat | absFloat | negFloat
  | cpys | cmpFloat | fcls | pres | cvt | rint | rcp | rsqrt
  | exp2 | log2 | sinpi | cospi | tanh | sigm | rsum | rmin
  | rmax | rcnt | shfl | shup | shdn | shxr | shrt | prm2
  | rfal | rfau | insl | bprm | zip2 | zip3 | zip4 | unz2
  | unz3 | unz4 | ld | st | ldu | stu | pld | pst
  | pchk | pref | pmake | padd | pmov | pget | pwiden | pnarrow
  | pwidens | pnarrows | aadd | amin | amax | aand | aor | axor
  | axch | acas | binitTeam | binitObject | barriveTeam | barriveObject | barrivePaddock | bwaitTeam
  | bwaitObject | bwaitPaddock | bsyncTeam | bsyncPaddock | bbytes | btest | bdropTeam | bdropObject
  | cpy | cpy2d | cfill | cgth | ncopy | cbatch | cwait | cstat
  | accld | accst | accrd | accwr | fset | fget | xset | xget
  | xid | xinv | xprm | scalc | scval | scmul | qnt | dqnt
  | ndot | namax | cbr | fjoin | fleave | fvote | fcnt | fpend
  | tset | tget | collAr | collRs | collAg | collBc | collRd | collBar
  | halo | putr | getr | clstat | launch | depdec | spawn | sflush
  | prioget | prioset | qyield | preq | grdget | tret | tretR | tretRp
  | scall | srd | swr | fwait | frsm | fkill | tdisp | fvots
  | tlbinv | xprobe | dirrd | monrd | stest | recctlStatus | recctlMarker | recctlStop
  | elog | tstop | tgo | mma | mms | mmat | mdrn | mdrz
  | mldc | mzero | mjmp | mbnz | mdjnz | mblt | mqset | mqadd
  | mqsub | mqmul | mqshl | mqand | mqld | msync | mend
deriving DecidableEq, Repr

/-- A decoded word: the instruction's name and the fields of its format. -/
inductive Code where
  | v (op : Op) (f : VF)
  | ma (op : Op) (f : MAF)
  | rt (op : Op) (f : RTF)
  | br (op : Op) (f : BRF)
  | sp (op : Op) (f : SPF)
  | en (op : Op) (f : ENF)
  | ba (op : Op) (f : BAF)
  | mx (op : Op) (f : MXF)
  | md (op : Op) (f : MDF)
  | mc (op : Op) (f : MCF)
  | mq (op : Op) (f : MQF)
  | ms (op : Op) (f : MSF)
deriving DecidableEq, Repr

end Sys2Proof
end

