-- ==== Sys2Proof/Config.lean ====
section
/-! DEFINITION. What the manual leaves open: free values, constants without a body, which no proof can see into
(assumption log 2, 4, 10, 11). -/

namespace Sys2Proof.Config

/-- The bits of a special function on an F32 input (R179): function number, input.  Free within R179's bounds (log 10). -/
opaque special : Nat → BitVec 32 → BitVec 32

/-- An undefined value (R6): the step counter at its making, and which of the values made there (log 4). -/
opaque undef : Nat → Nat → BitVec 64

/-- Which of the agents that could move next does: the step counter and how many there are (log 2). -/
opaque pick : Nat → Nat → Nat

/-- SHA-384 over a list of bytes (R453, R456), fixed by its own standard and not restated by the manual (log 11). -/
opaque sha384 : List (BitVec 8) → BitVec 384

/-- The device's ECDSA P-384 signature over a digest with its identity key (R453; log 11). -/
opaque sign : BitVec 384 → BitVec 768

/-- What a self-test, a sensor or a random source delivers where the manual gives no value (log 4). -/
opaque device : Nat → Nat → BitVec 64

/-- The bytes of a message on a Sward link, by its number; the manual lays out those of remote copies only (R375; log 48). -/
opaque wire : Nat → List (BitVec 8)

/-- A team image beyond VERSION for what it holds, and what a team image that has been changed says, if it is consistent: the hardware lays it
out (R405-R407; log 52). -/
opaque teamImage : List Nat → Nat
opaque teamOf : Nat → Option (List Nat)

/-- The six parity bytes of 122 bytes under RS(128,122), whose generator polynomial the manual does not give (R377; log 12). -/
opaque rsParity : List (BitVec 8) → List (BitVec 8)

/-- Whether a codeword with more than three byte errors decodes all the same, to another one (R377; log 12). -/
opaque rsMiss : List Nat → Bool

/-- The receive buffers of a port for each virtual channel, in flits (R379; log 48). -/
opaque rxBuffers : Nat → Nat

/-- FORM of the identification block: the module (R445). -/
opaque formModule : Bool

/-- The power limit that the hedge enforces, in W (R445). -/
def powerLimit : BitVec 16 := if formModule then 4200 else 3600

/-- The device identity public key, X then Y (R447). -/
opaque identityKey : BitVec 768

/-- The time that a step takes: ns, and cycles of the core clock (log 4). -/
opaque elapsed : Nat → Nat × Nat

/-- The CXL pool's granted size in bytes (R25): the pool, not the device, sets it (log 13). -/
opaque cxlGrant : Nat

/-- The directory set that holds the entry of a line, which the manual does not give (R240; log 75). -/
opaque dirSet : Nat → Nat

/-- The id of a unit, by its class and place (R440; log 17). -/
opaque unitId : Nat → Nat → BitVec 64

/-- Whether a line falls in a cache or directory set, by the set's place (R439; log 17). -/
opaque inSet : Nat → Nat → Bool

/-- The unit that a unit id names: its class (0 core quarter, 1 cache or directory set, 2 accumulator store, 3 memory row, 4 Sward lane)
and its core; none where there is no such unit.  The manual gives ids no layout (R440; log 17). -/
opaque unitOf : BitVec 64 → Option (Nat × Nat)

/-- The digest of the firmware's public key, as fused at manufacture (R453). -/
opaque fusedKey : BitVec 384

/-- Whether an ECDSA signature on brainpoolP384r1 verifies: the bytes of the public key, those of the signature, the digest (R453; log 11). -/
opaque verify : List (BitVec 8) → List (BitVec 8) → BitVec 384 → Bool

/-- The firmware image that the flash holds, by the SVN for which it was built (R454). -/
opaque flashImage : BitVec 8 → List (BitVec 8)

/-- The fused limits, as the attestation hashes them (R453). -/
opaque fusedLimits : List (BitVec 8)

/-- The serial number (R447). -/
opaque serial : BitVec 128

/-- The SVN counter as fused before the first boot (R453). -/
opaque fusedSvn : BitVec 8

/-- Whether the control node arms record mode at bring-up (R441). -/
opaque recordArmed : Bool

end Sys2Proof.Config
end

