-- ==== Sys2Proof/Machine/OpTable.lean ====
section
/-! DEFINITION. The opcode maps of the classes as tables: which forms exist, which types, rounding modes and
operands each takes, and the checks R56 makes of a group word in its steps 5 to 11 (R33-R56, and the class maps
R126, R140, R169, R188, R200, R223, R224, R250, R251, R267, R271, R272, R316, R339, R340, R361, R362, R394, R120, R422). -/

namespace Sys2Proof

/-! ## Types, rounding modes and narrow formats -/

/-- The type a TYPE code names; 17-23 are reserved (R49). -/
def tyOfCode (c : BitVec 5) : Option Ty :=
  match c.toNat with
  | 0 => some .f64 | 1 => some .f32 | 2 => some .f16 | 3 => some .bf16
  | 4 => some .i8 | 5 => some .i16 | 6 => some .i32 | 7 => some .i64
  | 8 => some .n8 | 9 => some .n16 | 10 => some .n32 | 11 => some .n64
  | 12 => some .b8 | 13 => some .b16 | 14 => some .b32 | 15 => some .b64
  | 16 => some .b128
  | n => if 24 ≤ n then some (.nf (BitVec.ofNat 3 (n - 24))) else none

/-- The TYPE code of a type (R49). -/
def Ty.code : Ty → BitVec 5
  | .f64 => 0 | .f32 => 1 | .f16 => 2 | .bf16 => 3
  | .i8 => 4 | .i16 => 5 | .i32 => 6 | .i64 => 7
  | .n8 => 8 | .n16 => 9 | .n32 => 10 | .n64 => 11
  | .b8 => 12 | .b16 => 13 | .b32 => 14 | .b64 => 15
  | .b128 => 16
  | .nf k => 3#2 ++ k

/-- The rounding mode an RND code names; 5-7 are reserved (R50). -/
def rndOfCode (c : BitVec 3) : Option Rnd :=
  match c.toNat with
  | 0 => some .rne | 1 => some .rtz | 2 => some .rdn | 3 => some .rup | 4 => some .rto
  | _ => none

/-- The RND code of a mode (R50). -/
def Rnd.code : Rnd → BitVec 3
  | .rne => 0 | .rtz => 1 | .rdn => 2 | .rup => 3 | .rto => 4

def Ty.isI : Ty → Bool
  | .i8 | .i16 | .i32 | .i64 => true
  | _ => false
def Ty.isN : Ty → Bool
  | .n8 | .n16 | .n32 | .n64 => true
  | _ => false
/-- B8-B64 and B128. -/
def Ty.isB : Ty → Bool
  | .b8 | .b16 | .b32 | .b64 | .b128 => true
  | _ => false
/-- F64, F32, F16 and BF16: "Fl" of R169. -/
def Ty.isFl : Ty → Bool
  | .f64 | .f32 | .f16 | .bf16 => true
  | _ => false
def Ty.isNar : Ty → Bool
  | .nf _ => true
  | _ => false
/-- A number type: every type but B8-B128 (R79). -/
def Ty.isNumber (t : Ty) : Bool := !t.isB
/-- "I, N, B" of R126: B is B8-B64. -/
def Ty.isInb (t : Ty) : Bool := t.isI || t.isN || (t.isB && t != .b128)
/-- Registers of a vector operand of the type (R49). -/
def Ty.regs : Ty → Nat
  | .f64 | .i64 | .n64 | .b64 => 2
  | .b128 => 4
  | _ => 1
/-- Element width in bits of the types of fixed width (R79); a narrow type answers its literal width, 8 (R458). -/
def Ty.litWidth : Ty → Nat
  | .f64 | .i64 | .n64 | .b64 | .b128 => 64
  | .f32 | .i32 | .n32 | .b32 => 32
  | .f16 | .bf16 | .i16 | .n16 | .b16 => 16
  | _ => 8

/-! The fields of a narrow format register (R88). -/
def nfS (f : Word) : Nat := (bits f 0 1).toNat
def nfE (f : Word) : Nat := (bits f 4 4).toNat
def nfM (f : Word) : Nat := (bits f 8 4).toNat
def nfFin (f : Word) : Bool := bit f 15
def nfBias (f : Word) : Int := (bits f 16 8).toInt
/-- The width W = S + E + M (R88). -/
def nfWidth (f : Word) : Nat := nfS f + nfE f + nfM f
/-- A valid narrow format register (R89); E and M above 8 are outside R88's ranges and make W exceed 8. -/
def nfValid (f : Word) : Bool :=
  bits f 24 8 == 0 && bits f 12 3 == 0 && bits f 1 3 == 0 &&
  (2 ≤ nfWidth f && nfWidth f ≤ 8) &&
  (nfE f != 0 || nfFin f) &&
  (nfFin f || (2 ≤ nfE f && 1 ≤ nfM f && (nfS f == 1 || 2 ≤ nfM f)))

/-- What the checks of R56 read of the issuing group: its level, the DIAG bit of its context, and f0-f7. -/
structure DecEnv where
  user : Bool
  diag : Bool
  fs : Vector Word 8
deriving DecidableEq, Repr

/-- fN of the environment. -/
def DecEnv.nf (e : DecEnv) (k : BitVec 3) : Word := e.fs[k.toNat]

/-- A type that is no invalid narrow format (R89). -/
def DecEnv.okTy (e : DecEnv) : Ty → Bool
  | .nf k => nfValid (e.nf k)
  | _ => true

/-- Elements of one lane (R80). -/
def elemsOf (nf : BitVec 3 → Word) : Ty → Nat
  | .f16 | .bf16 | .i16 | .n16 | .b16 => 2
  | .i8 | .n8 | .b8 => 4
  | .nf k => if nfWidth (nf k) ≤ 4 then 8 else 4
  | _ => 1

/-- Significand bits of a float type, the hidden bit included (R83). -/
def Ty.sigBits : Ty → Nat
  | .f64 => 53 | .f32 => 24 | .f16 => 11 | .bf16 => 8 | _ => 0

/-- Whether R178 accepts round to odd from source type `u` into `t`. -/
def rtoAccepted (nf : BitVec 3 → Word) (t u : Ty) : Bool :=
  u.isFl && (match t with
    | .nf k => nfE (nf k) ≥ 1 && nfM (nf k) + 1 < u.sigBits
    | t => t.isFl && t.sigBits < u.sigBits)

/-! ## Operands and the result of the checks -/

/-- What an operand field of a word names once the form's kind for it is known (R38, R39, R74). -/
inductive Opnd where
  /-- kind 0: nothing, or a number of a kind that the TRAP registers do not present (R317). -/
  | none
  /-- `n` vector registers from `r`; `al` the alignment; `cap` the highest legal first register. -/
  | vec (r n al cap : Nat)
  /-- `n` uniform registers from `r`. -/
  | uni (r n : Nat)
  | ptr (r : Nat)
  | msk (r : Nat)
  | lc (r : Nat)
  | imm
  | lit
  /-- a number with its own limit: a tile, fN, xN. -/
  | num (r cap : Nat)
deriving DecidableEq, Repr

/-- Step 8 of R56: the number lies outside its kind's range (R38). -/
def Opnd.outOfRange : Opnd → Bool
  | .vec r _ _ cap => r > cap
  | .uni r _ => r > 63
  | .ptr r => r > 15
  | .msk r => r > 7
  | .num r cap => r > cap
  | _ => false

/-- Step 9 of R56: a pair, quad or group that does not start where it must (R39). -/
def Opnd.misaligned : Opnd → Bool
  | .vec r _ al _ => r % al != 0
  | .uni r n => r % n != 0
  | _ => false

/-- The field as it is presented when the word's type is reserved or not accepted: a single register (R74). -/
def Opnd.single : Opnd → Opnd
  | .vec r _ _ _ => .vec r 1 1 127
  | .uni r _ => .uni r 1
  | o => o

/-- The operands of a word by field: the destination, A, B and C. -/
structure Opnds where
  d : Opnd
  a : Opnd
  b : Opnd
  c : Opnd
  /-- whether DST is read by the instruction and written by none. -/
  dRead : Bool := false
deriving DecidableEq, Repr

/-- The operands as they are presented under a type; without an accepted one, as single registers (R74). -/
def Opnds.under (o : Opnds) (t : Option Ty) : Opnds :=
  match t with
  | some _ => o
  | none => { o with d := o.d.single, a := o.a.single, b := o.b.single, c := o.c.single }

/-- Which of the steps 5 to 11 of R56 find a violation. -/
structure Checks where
  s5 : Bool := false
  s6 : Bool := false
  s7 : Bool := false
  s8 : Bool := false
  s9 : Bool := false
  s10 : Bool := false
  s11 : Bool := false
deriving DecidableEq, Repr

/-- The subcode of the first step that fails (R56). -/
def Checks.first (c : Checks) : Option Nat :=
  if c.s5 then some 0x04 else if c.s6 then some 0x05 else if c.s7 then some 0x06
  else if c.s8 then some 0x07 else if c.s9 then some 0x08 else if c.s10 then some 0x09
  else if c.s11 then some 0x0A else none

/-- Steps 8 and 9 over all four operand fields. -/
def Opnds.s8 (o : Opnds) : Bool := o.d.outOfRange || o.a.outOfRange || o.b.outOfRange || o.c.outOfRange
def Opnds.s9 (o : Opnds) : Bool := o.d.misaligned || o.a.misaligned || o.b.misaligned || o.c.misaligned

/-! ## The fields of a group word (R34, R42-R48) -/

def wY (w : DWord) : Bool := bit w 63
def wT (w : DWord) : Bool := bit w 62
def wMsk (w : DWord) : BitVec 3 := bits w 59 3
def wDst (w : DWord) : BitVec 7 := bits w 52 7
def wSa (w : DWord) : BitVec 7 := bits w 45 7
def wSb (w : DWord) : BitVec 7 := bits w 38 7
def wSc (w : DWord) : BitVec 7 := bits w 31 7
def wMinor (w : DWord) : BitVec 7 := bits w 24 7
def wType (w : DWord) : BitVec 5 := bits w 19 5
def wRnd (w : DWord) : BitVec 3 := bits w 16 3
def wK (w : DWord) : Bool := bit w 15
def wAk (w : DWord) : Bool := bit w 14
def wBk (w : DWord) : Bool := bit w 13
def wCk (w : DWord) : BitVec 2 := bits w 11 2
def wX (w : DWord) : Bool := bit w 10
def wClass (w : DWord) : BitVec 4 := bits w 6 4
def wFmt (w : DWord) : BitVec 3 := bits w 3 3
def wL (w : DWord) : Bool := bit w 2
def wIk (w : DWord) : BitVec 2 := bits w 14 2
def wOl (w : DWord) : Bool := bit w 13
def wOff14 (w : DWord) : BitVec 14 := bits w 31 14
def wHint (w : DWord) : Bool := bit w 23
def wCpt (w : DWord) : Bool := bit w 22
def wPk (w : DWord) : Bool := bit w 21
def wSelBr (w : DWord) : BitVec 2 := bits w 19 2
def wMode (w : DWord) : BitVec 2 := bits w 17 2
def wFnBr (w : DWord) : BitVec 7 := bits w 10 7
def wSel (w : DWord) : BitVec 14 := bits w 31 14
def wFnSp (w : DWord) : BitVec 14 := bits w 10 14
def wTsel (w : DWord) : BitVec 3 := bits w 16 3
def wSlot (w : DWord) : BitVec 2 := bits w 14 2
def wFnEn (w : DWord) : BitVec 4 := bits w 10 4
def wFnMa (w : DWord) : BitVec 3 := bits w 10 3
def wBnum (w : DWord) : BitVec 4 := bits w 41 4
def wBkind (w : DWord) : BitVec 2 := bits w 22 2
def wCkBa (w : DWord) : BitVec 2 := bits w 20 2
def wFnBa (w : DWord) : BitVec 10 := bits w 10 10

/-! ## Rows of the VR and UR formats -/

/-- Rounding modes a form accepts. -/
inductive RndK where
  | zero | four | upTo4 | cvt | qnt | aadd
deriving DecidableEq, Repr

/-- Whether a form accepts X = 1. -/
inductive XK where
  | no | yes | only16
deriving DecidableEq, Repr

/-- Kinds of DST, SA and SB. `v`, `v1` name registers of the format's own file (vector in VR, uniform in UR). -/
inductive FieldK where
  | unused
  | v | v1
  /-- `n` operand units from an aligned first register (R194, R195). -/
  | vG (n : Nat)
  /-- the four registers of XPRM (R316). -/
  | quad4
  /-- a vector, or a uniform register by AK or BK: type t, 32 bits, the second type. -/
  | src | src1 | srcU
  | uni | uni1 | pair | msk | ptr | nfr | xt
  /-- an unsigned immediate below the limit (R126, R169). -/
  | imm (lim : Nat)
  /-- a sub-element index below Elems of t or of the second type. -/
  | elemT | elemU
  /-- FCLS's set (R176). -/
  | fset
deriving DecidableEq, Repr

/-- Kinds of SC. -/
inductive ThirdK where
  | unused | src | src1
  /-- a uniform register, a short immediate or a literal of 32 bits. -/
  | uni1
  /-- a short immediate below the limit with CK = 10; `sub5` tells that another CK takes subcode 0x05, not 0x04. -/
  | imm (lim : Nat) (sub5 : Bool)
  /-- the second type code (R42). -/
  | ty
  | msk
  /-- QNT and DQNT's sel (R316). -/
  | sel
  /-- a 32-bit source read as F32 (NDOT). -/
  | srcF
deriving DecidableEq, Repr

/-- One row of a class map in the VR or UR format. -/
structure VRow where
  minor : Nat
  op : Op
  types : Ty → Bool
  d : FieldK
  a : FieldK
  b : FieldK
  c : ThirdK
  k : Bool := false
  x : XK := .no
  rnd : RndK := .zero
  msk0 : Bool := false
  /-- the second types accepted, for the forms that name one. -/
  utypes : Ty → Ty → Bool := fun _ _ => true
  /-- INSL requires AK = 1 (R188). -/
  ak1 : Bool := false
  /-- class 3: a group may not run past v127 (R195). -/
  grp : Bool := false
  /-- PMAKE does not check a narrow format code (R201). -/
  nfFree : Bool := false

def tyInb (t : Ty) : Bool := t.isInb
def tyIn (t : Ty) : Bool := t.isI || t.isN
def tyI (t : Ty) : Bool := t.isI
def tyB (t : Ty) : Bool := t.isB && t != .b128
def tyInbW (t : Ty) : Bool := t.isInb && t.litWidth ≥ 32
def tyBW (t : Ty) : Bool := t == .b32 || t == .b64
def tyAll (_ : Ty) : Bool := true
def tyNo128 (t : Ty) : Bool := t != .b128
def ty64 (t : Ty) : Bool := t == .i64 || t == .n64 || t == .b64
def tyB32 (t : Ty) : Bool := t == .b32
def tyFl (t : Ty) : Bool := t.isFl
def tyNum (t : Ty) : Bool := t.isNumber
def tySf (t : Ty) : Bool := t == .f32 || t == .f16 || t == .bf16
def tyRcnt (t : Ty) : Bool := t.isFl || (tyIn t && t.litWidth ≥ 16)
def tyZero (t : Ty) : Bool := t == .f64
def tyNarI (t : Ty) : Bool := t.isNar || t == .i8 || t == .n8

/-- A form `d, a, b` with a in SA and b in SC. -/
def VRow.bin (minor : Nat) (op : Op) (types : Ty → Bool) : VRow :=
  { minor, op, types, d := .v, a := .src, b := .unused, c := .src }
/-- A form `d, a` with a in SC. -/
def VRow.un (minor : Nat) (op : Op) (types : Ty → Bool) : VRow :=
  { minor, op, types, d := .v, a := .unused, b := .unused, c := .src }
/-- A form `d, a, b, c`. -/
def VRow.tri (minor : Nat) (op : Op) (types : Ty → Bool) : VRow :=
  { minor, op, types, d := .v, a := .src, b := .src, c := .src }
/-- A form `d, a` with a in SA, no selection bit. -/
def VRow.vecA (minor : Nat) (op : Op) (types : Ty → Bool) : VRow :=
  { minor, op, types, d := .v, a := .v, b := .unused, c := .unused }

/-- Class 0 in the VR format (R126). -/
def rowsIntVr : List VRow :=
  [ { VRow.bin 0x01 .addIntVr tyInb with k := true },
    { VRow.bin 0x02 .subIntVr tyInb with k := true },
    { VRow.bin 0x03 .mulIntVr tyInb with k := true },
    .bin 0x04 .mulhiVr tyInb,
    { VRow.tri 0x05 .madVr tyInb with k := true },
    .bin 0x06 .divIntVr tyIn,
    .bin 0x07 .remVr tyIn,
    { VRow.bin 0x08 .minIntVr tyIn with k := true },
    { VRow.bin 0x09 .maxIntVr tyIn with k := true },
    .un 0x0A .absIntVr tyI,
    .un 0x0B .negIntVr tyI,
    .bin 0x0C .andVr tyB,
    .bin 0x0D .orVr tyB,
    .bin 0x0E .xorVr tyB,
    .un 0x0F .notVr tyB,
    .bin 0x10 .shlVr tyInb,
    .bin 0x11 .shrVr tyInb,
    { VRow.bin 0x12 .rotVr tyB with x := .yes },
    .un 0x13 .popcVr tyB,
    .un 0x14 .clzVr tyB,
    .un 0x15 .brevVr tyB,
    .bin 0x16 .bfeVr tyInbW,
    .tri 0x17 .bfiVr tyBW,
    { VRow.bin 0x18 .cmpIntVr tyInbW with d := .msk, b := .imm 6 },
    { VRow.bin 0x19 .selVr tyAll with b := .msk },
    .un 0x1A .movVr tyAll,
    { VRow.bin 0x1B .leaVr ty64 with b := .src1, c := .imm 8 true },
    { VRow.bin 0x1C .extVr tyInb with a := .srcU, b := .elemU, c := .ty, utypes := fun _ u => u.isInb },
    { VRow.tri 0x20 .dp4Vr (fun t => t == .i32 || t == .n32) with k := true } ]

/-- Class 0 in the UR format (R126). -/
def rowsIntUr : List VRow :=
  [ { VRow.bin 0x01 .addIntUr tyInb with k := true },
    { VRow.bin 0x02 .subIntUr tyInb with k := true },
    { VRow.bin 0x03 .mulIntUr tyInb with k := true },
    .bin 0x04 .mulhiUr tyInb,
    { VRow.tri 0x05 .madUr tyInb with k := true },
    .bin 0x06 .divIntUr tyIn,
    .bin 0x07 .remUr tyIn,
    { VRow.bin 0x08 .minIntUr tyIn with k := true },
    { VRow.bin 0x09 .maxIntUr tyIn with k := true },
    .un 0x0A .absIntUr tyI,
    .un 0x0B .negIntUr tyI,
    .bin 0x0C .andUr tyB,
    .bin 0x0D .orUr tyB,
    .bin 0x0E .xorUr tyB,
    .un 0x0F .notUr tyB,
    .bin 0x10 .shlUr tyInb,
    .bin 0x11 .shrUr tyInb,
    { VRow.bin 0x12 .rotUr tyB with x := .yes },
    .un 0x13 .popcUr tyB,
    .un 0x14 .clzUr tyB,
    .un 0x15 .brevUr tyB,
    .bin 0x16 .bfeUr tyInbW,
    .tri 0x17 .bfiUr tyBW,
    { VRow.bin 0x18 .cmpIntUr tyInbW with d := .uni1, b := .imm 6 },
    { VRow.bin 0x19 .selUr tyAll with b := .uni1 },
    .un 0x1A .movUr tyAll,
    { VRow.bin 0x1B .leaUr ty64 with b := .src1, c := .imm 8 true },
    { VRow.bin 0x1C .extUr tyInb with a := .srcU, b := .elemU, c := .ty, utypes := fun _ u => u.isInb },
    { minor := 0x1D, op := .mset, types := tyB32, d := .msk, a := .uni1, b := .unused, c := .unused },
    { minor := 0x1E, op := .mget, types := tyB32, d := .uni1, a := .msk, b := .unused, c := .unused },
    { minor := 0x1F, op := .mlog, types := tyB32, d := .msk, a := .msk, b := .imm 4, c := .msk },
    { VRow.tri 0x20 .dp4Ur (fun t => t == .i32 || t == .n32) with k := true } ]

/-- Class 2 (R169). -/
def rowsFloat : List VRow :=
  [ { VRow.bin 0x01 .addFloat tyFl with k := true, rnd := .four },
    { VRow.bin 0x02 .subFloat tyFl with k := true, rnd := .four },
    { VRow.bin 0x03 .mulFloat tyFl with k := true, rnd := .four },
    { VRow.tri 0x04 .fma tyFl with k := true, rnd := .four },
    { VRow.tri 0x05 .fms tyFl with k := true, rnd := .four },
    { VRow.tri 0x06 .fnma tyFl with k := true, rnd := .four },
    { VRow.bin 0x07 .divFloat tyFl with rnd := .four },
    { VRow.un 0x08 .sqrt tyFl with rnd := .four },
    { VRow.bin 0x09 .minFloat tyFl with k := true },
    { VRow.bin 0x0A .maxFloat tyFl with k := true },
    .un 0x0B .absFloat tyFl,
    .un 0x0C .negFloat tyFl,
    .bin 0x0D .cpys tyFl,
    { VRow.bin 0x0E .cmpFloat tyFl with d := .msk, b := .imm 8, x := .only16 },
    { minor := 0x0F, op := .fcls, types := tyFl, d := .msk, a := .src, b := .fset, c := .unused, x := .only16 },
    { minor := 0x10, op := .pres, types := tyNum, d := .msk, a := .v, b := .elemT, c := .unused },
    { minor := 0x11, op := .cvt, types := tyNum, d := .v, a := .srcU, b := .elemU, c := .ty, rnd := .cvt,
      utypes := fun t u => u.isNumber && (t.isFl || t.isNar || u.isFl || u.isNar) },
    { VRow.un 0x12 .rint tyFl with rnd := .four },
    .un 0x13 .rcp tySf,
    .un 0x14 .rsqrt tySf,
    .un 0x15 .exp2 tySf,
    .un 0x16 .log2 tySf,
    .un 0x17 .sinpi tySf,
    .un 0x18 .cospi tySf,
    .un 0x19 .tanh tySf,
    .un 0x1A .sigm tySf,
    { VRow.vecA 0x1B .rsum tyFl with rnd := .four },
    .vecA 0x1C .rmin tyFl,
    .vecA 0x1D .rmax tyFl,
    { VRow.vecA 0x1E .rcnt tyRcnt with d := .v1 } ]

/-- Class 3 (R188, R195). -/
def rowsRearrange : List VRow :=
  [ { minor := 0x01, op := .shfl, types := tyAll, d := .v, a := .v, b := .msk, c := .src1, grp := true },
    { minor := 0x02, op := .shup, types := tyAll, d := .v, a := .v, b := .msk, c := .src1, grp := true },
    { minor := 0x03, op := .shdn, types := tyAll, d := .v, a := .v, b := .msk, c := .src1, grp := true },
    { minor := 0x04, op := .shxr, types := tyAll, d := .v, a := .v, b := .msk, c := .src1, grp := true },
    { minor := 0x05, op := .shrt, types := tyAll, d := .v, a := .v, b := .msk, c := .src1, grp := true },
    { minor := 0x06, op := .prm2, types := tyAll, d := .v, a := .src, b := .src, c := .src1, grp := true },
    { minor := 0x07, op := .rfal, types := tyNo128, d := .uni, a := .v, b := .unused, c := .unused, grp := true },
    { minor := 0x08, op := .rfau, types := tyNo128, d := .uni, a := .v, b := .unused, c := .unused, grp := true },
    { minor := 0x09, op := .insl, types := tyNo128, d := .v, a := .uni, b := .unused, c := .uni1, ak1 := true, grp := true },
    { minor := 0x0A, op := .bprm, types := tyB32, d := .v, a := .src1, b := .src1, c := .src1, grp := true },
    { minor := 0x0B, op := .zip2, types := tyNo128, d := .vG 2, a := .vG 2, b := .unused, c := .unused, grp := true },
    { minor := 0x0C, op := .zip3, types := tyNo128, d := .vG 3, a := .vG 3, b := .unused, c := .unused, grp := true },
    { minor := 0x0D, op := .zip4, types := tyNo128, d := .vG 4, a := .vG 4, b := .unused, c := .unused, grp := true },
    { minor := 0x0E, op := .unz2, types := tyNo128, d := .vG 2, a := .vG 2, b := .unused, c := .unused, grp := true },
    { minor := 0x0F, op := .unz3, types := tyNo128, d := .vG 3, a := .vG 3, b := .unused, c := .unused, grp := true },
    { minor := 0x10, op := .unz4, types := tyNo128, d := .vG 4, a := .vG 4, b := .unused, c := .unused, grp := true } ]

/-- The UR forms of class 4 (R200). -/
def rowsPointer : List VRow :=
  [ { minor := 0x09, op := .pmake, types := tyAll, d := .ptr, a := .pair, b := .pair, c := .src1, nfFree := true },
    { minor := 0x0A, op := .padd, types := fun t => t == .i32 || t == .i64, d := .ptr, a := .ptr, b := .unused, c := .src },
    { minor := 0x0B, op := .pmov, types := tyZero, d := .ptr, a := .ptr, b := .unused, c := .unused },
    { minor := 0x0C, op := .pget, types := tyZero, d := .uni1, a := .ptr, b := .unused, c := .imm 4 true } ]

/-- Class 8 (R316). -/
def rowsNarrow : List VRow :=
  [ { minor := 0x01, op := .fset, types := tyB32, d := .nfr, a := .unused, b := .unused, c := .uni1, msk0 := true },
    { minor := 0x02, op := .fget, types := tyB32, d := .uni1, a := .nfr, b := .unused, c := .unused, msk0 := true },
    { minor := 0x03, op := .xset, types := tyB32, d := .xt, a := .v1, b := .unused, c := .unused, msk0 := true },
    { minor := 0x04, op := .xget, types := tyB32, d := .v1, a := .xt, b := .unused, c := .unused },
    { minor := 0x05, op := .xid, types := tyB32, d := .xt, a := .unused, b := .unused, c := .unused, msk0 := true },
    { minor := 0x06, op := .xinv, types := tyB32, d := .xt, a := .xt, b := .unused, c := .unused, msk0 := true },
    { minor := 0x07, op := .xprm, types := tyB32, d := .v1, a := .quad4, b := .xt, c := .imm 4 false },
    { minor := 0x08, op := .scalc, types := tyNarI, d := .uni1, a := .v1, b := .unused, c := .unused },
    { minor := 0x09, op := .scval, types := fun t => t == .f32, d := .v1, a := .src1, b := .unused, c := .imm 4 false },
    { minor := 0x0A, op := .scmul, types := tyB32, d := .v1, a := .src1, b := .unused, c := .src1 },
    { minor := 0x0B, op := .qnt, types := tyNarI, d := .v1, a := .src1, b := .src1, c := .sel, rnd := .qnt },
    { minor := 0x0C, op := .dqnt, types := tyNarI, d := .v1, a := .src1, b := .src1, c := .sel, rnd := .four },
    { minor := 0x0D, op := .ndot, types := tyNarI, d := .v1, a := .src1, b := .src1, c := .srcF, k := true, rnd := .four },
    { minor := 0x0E, op := .namax, types := tyNarI, d := .v1, a := .v1, b := .unused, c := .unused } ]

/-- The row of a VR or UR word by class, format and minor opcode (R52, R53). -/
def vRow (cls : BitVec 4) (ur : Bool) (minor : BitVec 7) : Option VRow :=
  let rows := match cls.toNat, ur with
    | 0, false => rowsIntVr
    | 0, true => rowsIntUr
    | 2, false => rowsFloat
    | 3, false => rowsRearrange
    | 4, true => rowsPointer
    | 8, false => rowsNarrow
    | _, _ => []
  rows.find? (fun r => r.minor == minor.toNat)

/-! ### Resolving the operands of a VR or UR word -/

/-- A vector operand of `n` registers aligned to `al`; with `grp` the group must end at v127 or below (R195). -/
def mkVec (grp : Bool) (r : BitVec 7) (n al : Nat) : Opnd := .vec r.toNat n al (if grp then 128 - n else 127)

/-- The operand a DST, SA or SB field names; `sel` is the field's AK or BK bit. -/
def FieldK.resolve (k : FieldK) (ur grp : Bool) (g gu : Nat) (sel : Bool) (r : BitVec 7) : Opnd :=
  match k with
  | .unused => .none
  | .imm _ | .elemT | .elemU | .fset => .imm
  | .v => if ur then .uni r.toNat g else mkVec grp r g g
  | .v1 => if ur then .uni r.toNat 1 else mkVec grp r 1 1
  | .vG n => mkVec grp r (n * g) g
  | .quad4 => .vec r.toNat 4 4 124
  | .src => if ur || sel then .uni r.toNat g else mkVec grp r g g
  | .src1 => if ur || sel then .uni r.toNat 1 else mkVec grp r 1 1
  | .srcU => if ur || sel then .uni r.toNat gu else mkVec grp r gu gu
  | .uni => .uni r.toNat g
  | .uni1 => .uni r.toNat 1
  | .pair => .uni r.toNat 2
  | .msk => .msk r.toNat
  | .ptr => .ptr r.toNat
  | .nfr => .num r.toNat 7
  | .xt => .num r.toNat 3

/-- The operand SC names; CK is 00 register, 01 uniform, 10 short immediate, 11 literal (R42, R43). -/
def ThirdK.resolve (k : ThirdK) (ur grp : Bool) (g : Nat) (ck : BitVec 2) (r : BitVec 7) : Opnd :=
  let reg (n : Nat) : Opnd := match ck.toNat with
    | 0 => if ur then .uni r.toNat n else mkVec grp r n n
    | 1 => .uni r.toNat n
    | 2 => .imm
    | _ => .lit
  match k with
  | .unused | .ty => .none
  | .src => reg g
  | .src1 | .srcF => reg 1
  | .uni1 => match ck.toNat with
    | 0 | 1 => .uni r.toNat 1
    | 2 => .imm
    | _ => .lit
  | .imm _ _ | .sel => if ck == 2 then .imm else .none
  | .msk => .msk r.toNat

/-- Whether the form reads AK (or BK) as a selection of the register file. -/
def FieldK.selects : FieldK → Bool
  | .src | .src1 | .srcU => true
  | _ => false

/-- Whether a form takes SC from a register, an immediate or a literal by CK. -/
def ThirdK.byCk : ThirdK → Bool
  | .src | .src1 | .srcF | .uni1 => true
  | _ => false

/-- The accepted type of the word: none when the code is reserved, outside the row, or an invalid fN (R49, R89). -/
def VRow.ty (r : VRow) (e : DecEnv) (w : DWord) : Option Ty :=
  (tyOfCode (wType w)).filter (fun t => r.types t && (r.nfFree || e.okTy t))

/-- The second type code of the word, for the forms that name one (R42). -/
def VRow.uty (r : VRow) (w : DWord) : Option Ty :=
  if r.c == .ty then tyOfCode (bits w 31 5) else none

/-- The operands of the word; a type not accepted is presented as single registers (R74). -/
def VRow.opnds (r : VRow) (e : DecEnv) (ur : Bool) (w : DWord) : Opnds :=
  let t := r.ty e w
  let g := match t with | some t => t.regs | none => 1
  let gu := match r.uty w with
    | some u => if e.okTy u && (match t with | some t => r.utypes t u | none => false) then u.regs else 1
    | none => 1
  let o : Opnds :=
    { d := r.d.resolve ur r.grp g gu false (wDst w)
      a := r.a.resolve ur r.grp g gu (wAk w) (wSa w)
      b := r.b.resolve ur r.grp g gu (wBk w) (wSb w)
      c := r.c.resolve ur r.grp g (wCk w) (wSc w) }
  o.under t

/-- An immediate field that holds a value its form refuses (step 6 of R56). -/
def FieldK.badImm (k : FieldK) (elems elemsU : Option Nat) (r : BitVec 7) : Bool :=
  match k with
  | .imm lim => lim ≤ r.toNat
  | .elemT => match elems with | some n => n ≤ r.toNat | none => false
  | .elemU => match elemsU with | some n => n ≤ r.toNat | none => false
  | .fset => bits r 0 2 == 0
  | _ => false

/-- Whether the form accepts a rounding mode (R50). -/
def RndK.accepts (k : RndK) (e : DecEnv) (t u : Option Ty) (m : Rnd) : Bool :=
  match k with
  | .zero => m == .rne
  | .four => m != .rto
  | .upTo4 => true
  | .cvt => m != .rto || (match t, u with | some t, some u => rtoAccepted e.nf t u | _, _ => false)
  | .qnt => m != .rto || (match t with | some t => rtoAccepted e.nf t .f32 | none => false)
  | .aadd => m == .rne || (m != .rto && (t == some .f32 || t == some .f64))

/-- The checks of a VR or UR word (R56 steps 5 to 11). -/
def VRow.checks (r : VRow) (e : DecEnv) (ur : Bool) (w lit : DWord) : Checks :=
  let o := r.opnds e ur w
  let code := tyOfCode (wType w)
  let t := r.ty e w
  let u := r.uty w
  let el (x : Option Ty) : Option Nat := (x.filter e.okTy).map (elemsOf e.nf)
  let ck := (wCk w).toNat
  let usesSc := r.c.byCk
  { s5 := bits w 0 2 != 0
      || (r.d == .unused && wDst w != 0) || (r.a == .unused && wSa w != 0) || (r.b == .unused && wSb w != 0)
      || (ur && (wAk w || wBk w))
      || (!ur && wAk w && !r.a.selects && !r.ak1) || (!ur && r.ak1 && !wAk w)
      || (!ur && wBk w && !r.b.selects)
      || (wK w && !r.k)
      || (wX w && !(match r.x with | .no => false | .yes => true | .only16 => code == some .f16 || code == some .bf16))
      || (r.msk0 && wMsk w != 0)
      || (match r.c with
          | .unused => ck != 0 || wSc w != 0
          | .ty => ck != 0 || bits w 36 2 != 0
          | .msk => ck != 0 && !(ur && ck == 1)
          | .sel => ck != 2
          | .imm _ false => ck != 2
          | .imm _ true => false
          | .uni1 => ck == 0
          | _ => false)
      || (usesSc && ck == 3 && wSc w != 0)
    s6 := code == none || rndOfCode (wRnd w) == none
      || (ur && ck == 1)
      || r.a.badImm (el code) (el u) (wSa w) || r.b.badImm (el code) (el u) (wSb w)
      || (r.c == .ty && u == none)
      || (match r.c with
          | .imm lim sub5 => (sub5 && ck != 2) || lim ≤ (wSc w).toNat
          | .sel => bits w 36 2 != 0 || (match el code with | some n => n ≤ (bits w 33 3).toNat | none => false)
          | _ => false)
    s7 := t == none
      || (r.c == .ty && (match code, u with
          | some t, some u => !(r.utypes t u && e.okTy u)
          | _, _ => true))
      || (match rndOfCode (wRnd w) with | some m => !r.rnd.accepts e t u m | none => true)
    s8 := o.s8
    s9 := o.s9
    s10 := (wL w != (usesSc && ck == 3))
      || (usesSc && ck == 3 && (match r.c with
          | .src => lit.toNat ≥ 2 ^ (match t with | some t => t.litWidth | none => 64)
          | _ => lit.toNat ≥ 2 ^ 32))
    s11 := ur && wMsk w != 0 }


/-! ## Rows of the MA format (R44, R200, R205, R251, R272) -/

/-- What DATA names. `acas` is a group of 2G registers (R251). -/
inductive DataK where
  | vec | uni | ptr | msk | none | at | acas
deriving DecidableEq, Repr

/-- What FN may hold. -/
inductive MaFnK where
  /-- S and J (R200). -/
  | sj
  | zero
  /-- LV alone. -/
  | pref
  /-- OLD; `must` tells that it must be 1 (R251). -/
  | old (must : Bool)
deriving DecidableEq, Repr

structure MRow where
  minor : Nat
  op : Op
  types : Ty → Bool
  data : DataK
  ikVec : Bool := true
  rnd : RndK := .zero
  msk0 : Bool := false
  fn : MaFnK := .sj
  /-- DATA is read and not written. -/
  dRead : Bool := false

def tyAtom (t : Ty) : Bool :=
  t == .i32 || t == .i64 || t == .n32 || t == .n64 || t == .b32 || t == .b64 || t == .f32 || t == .f64
def tyAtomNum (t : Ty) : Bool := tyAtom t && !t.isB
def ty128 (t : Ty) : Bool := t == .b128

/-- The MA forms of class 4 (R200). -/
def rowsMem : List MRow :=
  [ { minor := 0x01, op := .ld, types := tyAll, data := .vec },
    { minor := 0x02, op := .st, types := tyAll, data := .vec, rnd := .upTo4, dRead := true },
    { minor := 0x03, op := .ldu, types := tyNo128, data := .uni, ikVec := false, msk0 := true },
    { minor := 0x04, op := .stu, types := tyNo128, data := .uni, ikVec := false, rnd := .upTo4, msk0 := true, dRead := true },
    { minor := 0x05, op := .pld, types := ty128, data := .ptr, ikVec := false, msk0 := true, fn := .zero },
    { minor := 0x06, op := .pst, types := ty128, data := .ptr, ikVec := false, msk0 := true, fn := .zero, dRead := true },
    { minor := 0x07, op := .pchk, types := tyAll, data := .msk },
    { minor := 0x08, op := .pref, types := tyAll, data := .none, fn := .pref } ]

/-- The MA forms of class 6 (R250, R251). -/
def rowsAtomic : List MRow :=
  [ { minor := 0x01, op := .aadd, types := tyAtom, data := .at, rnd := .aadd, fn := .old false },
    { minor := 0x02, op := .amin, types := tyAtomNum, data := .at, fn := .old false },
    { minor := 0x03, op := .amax, types := tyAtomNum, data := .at, fn := .old false },
    { minor := 0x04, op := .aand, types := tyBW, data := .at, fn := .old false },
    { minor := 0x05, op := .aor, types := tyBW, data := .at, fn := .old false },
    { minor := 0x06, op := .axor, types := tyBW, data := .at, fn := .old false },
    { minor := 0x07, op := .axch, types := tyAtom, data := .at, fn := .old false },
    { minor := 0x08, op := .acas, types := tyAtom, data := .acas, fn := .old true } ]

/-- The MA form of class 7 (R271, R272). -/
def rowsGather : List MRow :=
  [ { minor := 0x04, op := .cgth, types := tyZero, data := .ptr, fn := .zero, dRead := true } ]

/-- The row of an MA word of classes 4, 6 and 7. -/
def mRow (cls : BitVec 4) (minor : BitVec 7) : Option MRow :=
  let rows := match cls.toNat with
    | 4 => rowsMem
    | 6 => rowsAtomic
    | 7 => rowsGather
    | _ => []
  rows.find? (fun r => r.minor == minor.toNat)

def MRow.ty (r : MRow) (e : DecEnv) (w : DWord) : Option Ty :=
  (tyOfCode (wType w)).filter (fun t => r.types t && e.okTy t)

/-- The operands: DATA as destination field, PTR as A, IDX as B, the offset as C (R206). -/
def MRow.opnds (r : MRow) (e : DecEnv) (w : DWord) : Opnds :=
  let g := match r.ty e w with | some t => t.regs | none => 1
  let x := (wDst w).toNat
  let o : Opnds :=
    { d := match r.data with
        | .vec => .vec x g g 127
        | .at => .vec x g g 127
        | .acas => .vec x (2 * g) (2 * g) 127
        | .uni => .uni x g
        | .ptr => .ptr x
        | .msk => .msk x
        | .none => .none
      a := .ptr (wSa w).toNat
      b := match (wIk w).toNat with
        | 0 => .vec (wSb w).toNat 1 1 127
        | 1 => .uni (wSb w).toNat 1
        | _ => .none
      c := if wOl w then .lit else .imm
      dRead := r.dRead || (r.fn == .old false && !bit w 12) }
  o.under (r.ty e w)

/-- The checks of an MA word of classes 4, 6 and 7. -/
def MRow.checks (r : MRow) (e : DecEnv) (w lit : DWord) : Checks :=
  let o := r.opnds e w
  let code := tyOfCode (wType w)
  let t := r.ty e w
  let ik := (wIk w).toNat
  let fn := wFnMa w
  let _ := lit
  { s5 := bits w 0 2 != 0 || (r.msk0 && wMsk w != 0) || (r.data == .none && wDst w != 0)
      || (ik == 2 && wSb w != 0) || (wOl w && wSc w != 0)
    s6 := code == none || rndOfCode (wRnd w) == none || ik == 3 || (ik == 0 && !r.ikVec)
      || (match r.fn with
          | .sj => if bit fn 0 then (match code.filter e.okTy with
                      | some t => elemsOf e.nf t ≤ (bits fn 1 2).toNat
                      | none => false)
                   else bits fn 1 2 != 0
          | .zero => fn != 0
          | .pref => bits fn 1 2 != 0
          | .old must => bits fn 0 2 != 0 || (must && !bit fn 2))
    s7 := t == none || (match rndOfCode (wRnd w) with | some m => !r.rnd.accepts e t none m | none => true)
    s8 := o.s8
    s9 := o.s9
    s10 := wL w != wOl w
    s11 := wT w }

/-! ## Class 5: the MA format with the layout of R223 -/

structure RRow where
  minor : Nat
  op : Op
  /-- an S form. -/
  part : Bool
  /-- a PNARROW form, which accepts HS. -/
  narrow : Bool

def rowsRetype : List RRow :=
  [ ⟨0x01, .pwiden, false, false⟩, ⟨0x02, .pnarrow, false, true⟩,
    ⟨0x03, .pwidens, true, false⟩, ⟨0x04, .pnarrows, true, true⟩ ]

def rRow (minor : BitVec 7) : Option RRow := rowsRetype.find? (fun r => r.minor == minor.toNat)

def RRow.opnds (r : RRow) (w : DWord) : Opnds :=
  { d := .ptr (wDst w).toNat
    a := .ptr (wSa w).toNat
    b := if r.part && wIk w == 1 then .uni (wSb w).toNat 1 else .none
    c := if r.part then (if wOl w then .lit else .imm) else .none }

/-- The checks of R223. -/
def RRow.checks (r : RRow) (w : DWord) : Checks :=
  let o := r.opnds w
  let ik := (wIk w).toNat
  { s5 := bits w 0 2 != 0 || wMsk w != 0
      || (!r.part && (wSb w != 0 || wSc w != 0 || wOl w))
      || (r.part && ik == 2 && wSb w != 0) || (r.part && wOl w && wSc w != 0)
      || (!r.narrow && bit w 12)
    s6 := tyOfCode (wType w) == none || 5 ≤ (wRnd w).toNat || bits w 10 2 == 3
      || !(ik == 2 || (r.part && ik == 1))
    s7 := wType w != 0
    s8 := o.s8
    s9 := o.s9
    s10 := wL w != wOl w
    s11 := wT w }

/-! ## The BR format (R45, R140, R339, R340) -/

inductive PredK where
  /-- PRED and PK are 0. -/
  | none
  /-- a mask or a uniform register by PK. -/
  | either
  /-- a mask, PK = 0. -/
  | msk
  /-- LOOP: a uniform register, or PRED = 0 with the count in FN. -/
  | count
  /-- a uniform register, PK = 1. -/
  | uni
deriving DecidableEq, Repr

structure BRow where
  minor : Nat
  op : Op
  pred : PredK
  /-- DST holds a link pair. -/
  link : Bool := false
  cpt : Bool := false
  /-- SEL names a loop counter. -/
  lcSel : Bool := false
  /-- a uniform form, MSK = 0. -/
  uniform : Bool := false
  cbr : Bool := false

def rowsBranch : List BRow :=
  [ { minor := 0x01, op := .bra, pred := .none, cpt := true },
    { minor := 0x02, op := .brt, pred := .either, cpt := true },
    { minor := 0x03, op := .brf, pred := .either, cpt := true },
    { minor := 0x04, op := .bany, pred := .msk, cpt := true },
    { minor := 0x05, op := .ball, pred := .msk, cpt := true },
    { minor := 0x06, op := .call, pred := .none, link := true },
    { minor := 0x07, op := .loop, pred := .count, lcSel := true, uniform := true },
    { minor := 0x08, op := .ldec, pred := .none, lcSel := true, uniform := true },
    { minor := 0x09, op := .lexit, pred := .none, lcSel := true, uniform := true } ]

def rowsCbr : List BRow :=
  [ { minor := 0x01, op := .cbr, pred := .uni, uniform := true, cbr := true } ]

def bRow (cls : BitVec 4) (minor : BitVec 7) : Option BRow :=
  (match cls.toNat with | 1 => rowsBranch | 9 => rowsCbr | _ => []).find? (fun r => r.minor == minor.toNat)

def BRow.opnds (r : BRow) (w : DWord) : Opnds :=
  let p := (wSa w).toNat
  { d := if r.link then .uni (wDst w).toNat 2 else .none
    a := match r.pred with
      | .none => .none
      | .either => if wPk w then .uni p 1 else .msk p
      | .msk => .msk p
      | .count => if wPk w then .uni p 1 else .none
      | .uni => .uni p 1
    b := .none
    c := .none }

/-- The checks of a BR word; the literal form is R45's. -/
def BRow.checks (r : BRow) (w lit : DWord) : Checks :=
  let o := r.opnds w
  let fn := wFnBr w
  { s5 := bits w 0 2 != 0 || (r.uniform && wMsk w != 0)
      || (!r.link && wDst w != 0)
      || (match r.pred with
          | .none => wSa w != 0 || wPk w
          | .either => false
          | .msk => wPk w
          | .count => !wPk w && wSa w != 0
          | .uni => !wPk w)
      || (wCpt w && !r.cpt)
      || (!r.cbr && !r.lcSel && wSelBr w != 0)
      || (!r.cbr && wMode w != 0)
      || (if r.cbr then bits fn 2 5 != 0 || (wHint w && !bit fn 0)
          else fn != 0 && !(r.pred == .count && !wPk w))
    s6 := (r.lcSel && wSelBr w == 3) || (r.cbr && wMode w == 3)
    s8 := o.s8
    s9 := o.s9
    s10 := wL w && (wOff14 w != 0 || bits lit 57 7 != 0 || bits lit 0 3 != 0)
    s11 := wT w }

/-! ## The SP format (R46, R140, R340, R394, R120, R422) -/

/-- What SEL may hold. -/
inductive SelK where
  | zero
  /-- a number below the limit, else subcode 0x05. -/
  | below (n : Nat)
  /-- a fold slot in SEL[1:0] (R340). -/
  | slot
  /-- SCALL's number. -/
  | any
  | srd | swr | fvots | tlbinv | xprobe | dirrd | recctl
deriving DecidableEq, Repr

/-- What FN may hold: bits that may be set, and for two-bit codes the refused value 11. -/
inductive SpFnK where
  | zero
  | bit0
  /-- FVOTE's mode. -/
  | mode
  /-- TRET's form. -/
  | tret
deriving DecidableEq, Repr

/-- DST and SA of an SP form. -/
inductive SpK where
  | unused | uni | pair | quad | vpair | msk
  /-- by the register SRD names (R425). -/
  | srd
  /-- TLBINV's VA, for kind 0. -/
  | tlb
  /-- TRET.r's register, whose kind TRAPDST gives (R423). -/
  | tret
deriving DecidableEq, Repr

/-- Who may issue a class 12 form (R422). -/
inductive Level where
  | any | user | s | diag
deriving DecidableEq, Repr

structure SRow where
  minor : Nat
  op : SPF → Op
  d : SpK := .unused
  a : SpK := .unused
  sel : SelK := .zero
  fn : SpFnK := .zero
  msk0 : Bool := false
  lvl : Level := .any

/-- The SP forms of class 1 (R140). -/
def rowsCtl : List SRow :=
  [ { minor := 0x10, op := fun _ => .jmpr, a := .pair },
    { minor := 0x11, op := fun _ => .callr, d := .pair, a := .pair },
    { minor := 0x12, op := fun _ => .ret, a := .pair },
    { minor := 0x13, op := fun _ => .join, a := .msk },
    { minor := 0x14, op := fun _ => .exit },
    { minor := 0x15, op := fun _ => .jmpv, a := .vpair },
    { minor := 0x16, op := fun _ => .mact, d := .msk },
    { minor := 0x17, op := fun _ => .nop, msk0 := true },
    { minor := 0x18, op := fun _ => .yield, msk0 := true },
    { minor := 0x19, op := fun _ => .lcrd, d := .uni, sel := .below 3, msk0 := true },
    { minor := 0x1A, op := fun _ => .lcwr, a := .uni, sel := .below 3, msk0 := true } ]

/-- The SP forms of class 9 (R339). -/
def rowsFold : List SRow :=
  [ { minor := 0x02, op := fun _ => .fjoin, a := .uni, sel := .slot, msk0 := true },
    { minor := 0x03, op := fun _ => .fleave, sel := .slot, msk0 := true },
    { minor := 0x04, op := fun _ => .fvote, a := .uni, sel := .slot, fn := .mode, msk0 := true },
    { minor := 0x05, op := fun _ => .fcnt, d := .pair, sel := .slot, msk0 := true },
    { minor := 0x06, op := fun _ => .fpend, d := .uni, sel := .slot, msk0 := true } ]

/-- The SP forms of class 11 (R394, R120). -/
def rowsTask : List SRow :=
  [ { minor := 0x11, op := fun _ => .prioget, d := .uni, msk0 := true },
    { minor := 0x12, op := fun _ => .prioset, a := .uni, msk0 := true },
    { minor := 0x13, op := fun _ => .qyield, msk0 := true },
    { minor := 0x14, op := fun _ => .preq, d := .uni, msk0 := true },
    { minor := 0x15, op := fun _ => .grdget, d := .uni, sel := .below 4, msk0 := true },
    { minor := 0x30, op := fun _ => .xacq },
    { minor := 0x31, op := fun _ => .xrel },
    { minor := 0x32, op := fun _ => .donate, d := .uni, a := .uni, sel := .below 16 } ]

/-- Class 12 (R422). -/
def rowsSystem : List SRow :=
  [ { minor := 0x01, op := fun f => if f.fn == 0 then .tret else if f.fn == 1 then .tretR else .tretRp,
      a := .tret, fn := .tret, msk0 := true },
    { minor := 0x02, op := fun _ => .scall, sel := .any, msk0 := true, lvl := .user },
    { minor := 0x03, op := fun _ => .srd, d := .srd, sel := .srd, msk0 := true },
    { minor := 0x04, op := fun _ => .swr, a := .uni, sel := .swr, msk0 := true },
    { minor := 0x05, op := fun _ => .fwait, d := .uni, fn := .bit0, msk0 := true, lvl := .s },
    { minor := 0x06, op := fun _ => .frsm, a := .uni, fn := .bit0, msk0 := true, lvl := .s },
    { minor := 0x07, op := fun _ => .fkill, a := .uni, msk0 := true, lvl := .s },
    { minor := 0x08, op := fun _ => .tdisp, a := .uni, msk0 := true, lvl := .s },
    { minor := 0x09, op := fun _ => .fvots, a := .uni, sel := .fvots, msk0 := true, lvl := .s },
    { minor := 0x0A, op := fun _ => .tlbinv, a := .tlb, sel := .tlbinv, msk0 := true, lvl := .s },
    { minor := 0x0B, op := fun _ => .xprobe, d := .quad, a := .pair, sel := .xprobe, msk0 := true, lvl := .s },
    { minor := 0x0C, op := fun _ => .dirrd, d := .pair, a := .pair, sel := .dirrd, msk0 := true, lvl := .diag },
    { minor := 0x0D, op := fun _ => .monrd, d := .pair, a := .uni, msk0 := true, lvl := .s },
    { minor := 0x0E, op := fun _ => .stest, d := .uni, a := .pair, msk0 := true, lvl := .diag },
    { minor := 0x0F, op := fun f => if f.sel == 0 then .recctlStatus else if f.sel == 1 then .recctlMarker
        else .recctlStop, d := .uni, a := .uni, sel := .recctl, msk0 := true, lvl := .diag },
    { minor := 0x10, op := fun _ => .elog, d := .pair, a := .uni, msk0 := true, lvl := .diag },
    { minor := 0x11, op := fun _ => .tstop, a := .uni, msk0 := true, lvl := .s },
    { minor := 0x12, op := fun _ => .tgo, a := .uni, msk0 := true, lvl := .s } ]

def sRow (cls : BitVec 4) (minor : BitVec 7) : Option SRow :=
  (match cls.toNat with
    | 1 => rowsCtl | 9 => rowsFold | 11 => rowsTask | 12 => rowsSystem | _ => []).find? (fun r => r.minor == minor.toNat)

/-- How SRD delivers a special register (R55, R411, R425). -/
inductive SrKind where
  | lane | lane128 | wide | word
deriving DecidableEq, Repr

/-- The special registers by number; none is an unassigned or reserved number (R55, R411). -/
def srKind (n : BitVec 14) : Option SrKind :=
  match n.toNat with
  | 0x0002 => some .lane
  | 0x0043 | 0x0044 | 0x0045 => some .lane128
  | 0x0040 | 0x0042 | 0x0047 | 0x1010 | 0x1011 => some .wide
  | 0x0000 | 0x0001 | 0x0003 | 0x0004 | 0x0005 | 0x0006 | 0x0041 | 0x0046 | 0x1000 | 0x1001 | 0x1020 => some .word
  | m => if (0x10 ≤ m && m ≤ 0x1B) || (0x20 ≤ m && m ≤ 0x27) then some .word else none

/-- The registers SWR writes (R425). -/
def swrOk (n : BitVec 14) : Bool := n == 0 || n == 1 || (0x20 ≤ n.toNat && n.toNat ≤ 0x27)

/-- Step 4 of R56: a privileged form or SEL at U, or a DIAG form whose context has DIAG = 0 (R422). -/
def SRow.priv (r : SRow) (e : DecEnv) (w : DWord) : Bool :=
  let hi := 0x1000 ≤ (wSel w).toNat && (wSel w).toNat ≤ 0x1FFF
  match r.lvl with
  | .any | .user => (r.sel == .srd || r.sel == .swr) && hi && e.user
  | .s => e.user || (r.sel == .tlbinv && bits (wSel w) 8 2 == 2 && !e.diag)
  | .diag => e.user || !e.diag

def SpK.resolve (k : SpK) (w : DWord) (r : BitVec 7) : Opnd :=
  match k with
  | .unused => .none
  | .uni => .uni r.toNat 1
  | .pair => .uni r.toNat 2
  | .quad => .uni r.toNat 4
  | .vpair => .vec r.toNat 2 2 127
  | .msk => .msk r.toNat
  | .srd => match srKind (wSel w) with
    | some .lane => .vec r.toNat 1 1 127
    | some .lane128 => .vec r.toNat 4 4 127
    | some .wide => .uni r.toNat 2
    | _ => .uni r.toNat 1
  | .tlb => if bits (wSel w) 8 2 == 0 then .uni r.toNat 2 else .none
  | .tret => .none

def SRow.opnds (r : SRow) (w : DWord) : Opnds :=
  { d := r.d.resolve w (wDst w), a := r.a.resolve w (wSa w), b := .none, c := .none }

/-- A field an SP form does not use and that is not zero. -/
def SpK.unusedBad (k : SpK) (w : DWord) (r : BitVec 7) : Bool :=
  match k with
  | .unused => r != 0
  | .tlb => bits (wSel w) 8 2 != 0 && r != 0
  | .tret => wFnSp w != 1 && r != 0
  | _ => false

/-- The checks of an SP word. -/
def SRow.checks (r : SRow) (e : DecEnv) (w : DWord) : Checks :=
  let o := r.opnds w
  let s := wSel w
  let fn := wFnSp w
  { s5 := bits w 0 2 != 0 || (r.msk0 && wMsk w != 0)
      || r.d.unusedBad w (wDst w) || r.a.unusedBad w (wSa w)
      || (match r.sel with
          | .zero => s != 0
          | .slot => bits s 2 12 != 0
          | .fvots => bits s 6 8 != 0 || bit s 3
          | .tlbinv => bits s 10 4 != 0
          | .xprobe | .recctl => bits s 2 12 != 0
          | .dirrd => bits s 1 13 != 0
          | _ => false)
      || (match r.fn with
          | .zero => fn != 0
          | .bit0 => bits fn 1 13 != 0
          | .mode | .tret => bits fn 2 12 != 0)
      || (r.lvl == .user && !e.user)
    s6 := (match r.sel with
          | .below n => n ≤ s.toNat
          | .srd => srKind s == none
          | .swr => !swrOk s
          | .fvots => bits s 1 2 == 3
          | .tlbinv => 5 ≤ (bits s 5 3).toNat || bits s 8 2 == 3
          | .recctl => bits s 0 2 == 3
          | _ => false)
      || (match r.fn with | .mode | .tret => bits fn 0 2 == 3 | _ => false)
    s8 := o.s8
    s9 := o.s9
    s10 := wL w
    s11 := wT w }

/-! ## The EN format (R47, R271, R272, R361, R362, R394) -/

inductive EnK where
  | unused | uni | pair | ptr | tile | vec1 | vpair
  /-- a uniform register, or a pair for 64-bit types. -/
  | uniT
  /-- a vector register, or a pair for 64-bit types. -/
  | vecT
  /-- four uniform registers (CPY2D). -/
  | quad
deriving DecidableEq, Repr

inductive EnScK where
  | unused
  /-- a barrier object when OB = 1; `sub5` the fate of SC ≠ 0 without it. -/
  | obj (sub5 : Bool)
  | uni
  /-- an immediate below the limit. -/
  | imm (n : Nat)
deriving DecidableEq, Repr

/-- What FN may hold. -/
inductive EnFnK where
  | zero
  /-- OB and the object's space; `spaces` false: NCOPY, whose space is 00. -/
  | obj (spaces : Bool)
  | clr
  /-- CN, ND and OP. -/
  | coll
  /-- ND alone. -/
  | nd
  /-- zero, but bits [11:10] = 11 are a reserved space (R272). -/
  | noObj
  /-- CLR (R272), the space bits as in `noObj`. -/
  | clrC
deriving DecidableEq, Repr

structure ERow where
  minor : Nat
  op : Op
  d : EnK := .unused
  a : EnK := .unused
  b : EnK := .unused
  c : EnScK := .unused
  types : Ty → Bool := tyZero
  /-- class 11: TYPE must be 0 as an unused field (R394). -/
  noType : Bool := false
  tsel : Bool := false
  slot : Bool := false
  fn : EnFnK := .zero
  msk0 : Bool := true
  dRead : Bool := false

def tyFill (t : Ty) : Bool := t != .b128
def tyRed (t : Ty) : Bool := t.isFl || t == .i32 || t == .i64 || t == .n32 || t == .n64
def tyWideAll (t : Ty) : Bool := !t.isNar

/-- The EN forms of class 7 (R271). -/
def rowsCopy : List ERow :=
  [ { minor := 0x01, op := .cpy, d := .ptr, a := .ptr, b := .uni, c := .obj false, fn := .obj true, dRead := true },
    { minor := 0x02, op := .cpy2d, d := .ptr, a := .ptr, b := .quad, c := .obj false, fn := .obj true, dRead := true },
    { minor := 0x03, op := .cfill, d := .ptr, a := .uniT, b := .uni, c := .obj false, types := tyFill, fn := .obj true, dRead := true },
    { minor := 0x05, op := .ncopy, d := .ptr, a := .ptr, b := .uni, c := .obj false, fn := .obj false, dRead := true },
    { minor := 0x06, op := .cbatch, d := .uni, fn := .noObj },
    { minor := 0x07, op := .cwait, a := .uni, fn := .noObj },
    { minor := 0x08, op := .cstat, d := .pair, fn := .clrC },
    { minor := 0x09, op := .accld, d := .ptr, a := .uni, b := .uni, c := .obj false,
      types := fun t => t == .f32 || t == .b64, fn := .obj true, dRead := true },
    { minor := 0x0A, op := .accst, d := .ptr, a := .uni, b := .uni, c := .obj false,
      types := fun t => t == .f32 || t == .n32 || t == .b64, fn := .obj true, dRead := true },
    { minor := 0x0B, op := .accrd, d := .vecT, a := .uni, types := fun t => t == .f32 || t == .n32 || t == .b64, msk0 := false, fn := .noObj },
    { minor := 0x0C, op := .accwr, d := .vecT, a := .uni, types := fun t => t == .f32 || t == .b64, msk0 := false, dRead := true, fn := .noObj } ]

/-- Class 10 (R361). -/
def rowsColl : List ERow :=
  [ { minor := 0x01, op := .tset, d := .ptr, a := .uni, b := .uni, c := .uni, tsel := true, dRead := true },
    { minor := 0x02, op := .tget, d := .uni, c := .imm 4, tsel := true },
    { minor := 0x03, op := .collAr, d := .tile, c := .uni, types := tyRed, tsel := true, slot := true, fn := .coll },
    { minor := 0x04, op := .collRs, d := .tile, c := .uni, types := tyRed, tsel := true, slot := true, fn := .coll },
    { minor := 0x05, op := .collAg, d := .tile, c := .uni, types := tyWideAll, tsel := true, slot := true, fn := .nd },
    { minor := 0x06, op := .collBc, d := .tile, a := .uni, c := .uni, types := tyWideAll, tsel := true, slot := true, fn := .nd },
    { minor := 0x07, op := .collRd, d := .tile, a := .uni, c := .uni, types := tyRed, tsel := true, slot := true, fn := .coll },
    { minor := 0x08, op := .collBar, c := .uni, slot := true },
    { minor := 0x09, op := .halo, d := .tile, a := .uni, b := .uni, c := .obj true, tsel := true, slot := true, fn := .obj true },
    { minor := 0x0A, op := .putr, d := .ptr, a := .ptr, b := .uni, c := .obj true, fn := .obj true, dRead := true },
    { minor := 0x0B, op := .getr, d := .ptr, a := .ptr, b := .uni, c := .obj true, fn := .obj true, dRead := true },
    { minor := 0x0C, op := .clstat, d := .pair, fn := .clr } ]

/-- The EN forms of class 11 (R394). -/
def rowsLaunch : List ERow :=
  [ { minor := 0x01, op := .launch, d := .vec1, a := .ptr, b := .vec1, noType := true, msk0 := false },
    { minor := 0x02, op := .spawn, a := .pair, b := .vpair, noType := true, msk0 := false },
    { minor := 0x03, op := .sflush, a := .pair, noType := true },
    { minor := 0x04, op := .depdec, d := .vec1, a := .ptr, b := .vec1, noType := true, msk0 := false } ]

def eRow (cls : BitVec 4) (minor : BitVec 7) : Option ERow :=
  (match cls.toNat with
    | 7 => rowsCopy | 10 => rowsColl | 11 => rowsLaunch | _ => []).find? (fun r => r.minor == minor.toNat)

def ERow.ty (r : ERow) (e : DecEnv) (w : DWord) : Option Ty :=
  (tyOfCode (wType w)).filter (fun t => r.types t && e.okTy t)

def EnK.resolve (k : EnK) (g : Nat) (r : BitVec 7) : Opnd :=
  match k with
  | .unused => .none
  | .uni => .uni r.toNat 1
  | .pair => .uni r.toNat 2
  | .ptr => .ptr r.toNat
  | .tile => .num r.toNat 7
  | .vec1 => .vec r.toNat 1 1 127
  | .vpair => .vec r.toNat 2 2 127
  | .uniT => .uni r.toNat g
  | .vecT => .vec r.toNat g g 127
  | .quad => .uni r.toNat 4

/-- OB of a word whose form names an object (R272). -/
def wOb (w : DWord) : Bool := bit w 12

def ERow.opnds (r : ERow) (e : DecEnv) (w : DWord) : Opnds :=
  let g := match r.ty e w with | some t => t.regs | none => 1
  let o : Opnds :=
    { d := r.d.resolve g (wDst w), a := r.a.resolve g (wSa w), b := r.b.resolve g (wSb w)
      c := match r.c with
        | .unused => .none
        | .obj _ => if wOb w then .uni (wSc w).toNat 1 else .none
        | .uni => .uni (wSc w).toNat 1
        | .imm _ => .imm
      dRead := r.dRead }
  if r.noType then o else o.under (r.ty e w)

/-- The checks of an EN word. A CPY2D group above s60 takes subcode 0x08 (R272). -/
def ERow.checks (r : ERow) (e : DecEnv) (w : DWord) : Checks :=
  let o := r.opnds e w
  let fn := wFnEn w
  let spc := (bits fn 0 2).toNat
  { s5 := bits w 0 2 != 0 || (r.msk0 && wMsk w != 0)
      || (r.d == .unused && wDst w != 0) || (r.a == .unused && wSa w != 0) || (r.b == .unused && wSb w != 0)
      || (match r.c with
          | .unused => wSc w != 0
          | .obj sub5 => !sub5 && !wOb w && wSc w != 0
          | _ => false)
      || (r.noType && wType w != 0)
      || (!r.tsel && wTsel w != 0) || (!r.slot && wSlot w != 0)
      || (match r.fn with
          | .zero => fn != 0
          | .obj spaces => bit fn 3 || (spc != 0 && spc != 3 && (!bit fn 2 || !spaces))
          | .clr => bit fn 3 || spc != 0
          | .noObj => bits fn 2 2 != 0 || (spc != 0 && spc != 3)
          | .clrC => bit fn 3 || (spc != 0 && spc != 3)
          | .coll => false
          | .nd => bit fn 3 || spc != 0)
    s6 := (!r.noType && tyOfCode (wType w) == none)
      || (match r.fn with | .obj _ | .coll | .noObj | .clrC => spc == 3 | _ => false)
      || (match r.c with
          | .imm n => n ≤ (wSc w).toNat
          | .obj sub5 => sub5 && !wOb w && wSc w != 0
          | _ => false)
    s7 := !r.noType && r.ty e w == none
    s8 := o.d.outOfRange || o.a.outOfRange || (r.b != .quad && o.b.outOfRange) || o.c.outOfRange
    s9 := o.s9 || (r.b == .quad && o.b.outOfRange) || (r.fn == .coll && bit fn 3 && bit (wDst w) 0)
    s10 := wL w
    s11 := wT w }

/-! ## The BA format (R48, R250, R264, R267) -/

/-- What CNT holds. -/
inductive CntK where
  | unused
  /-- BINIT's extra: a register or an immediate 0-31. -/
  | extra
  | any
deriving DecidableEq, Repr

/-- Whether TK may be or must be set. -/
inductive TkK where
  | no | may | must
deriving DecidableEq, Repr

structure ARow where
  minor : Nat
  /-- the accepted barrier kinds with their forms (R250): team, object, paddock. -/
  team : Option Op
  object : Option Op
  paddock : Option Op
  teamCnt : CntK := .unused
  objCnt : CntK := .any
  tk : TkK := .no
  ar : Bool := false

def rowsBarrier : List ARow :=
  [ { minor := 0x11, team := some .binitTeam, object := some .binitObject, paddock := none, teamCnt := .extra },
    { minor := 0x12, team := some .barriveTeam, object := some .barriveObject, paddock := some .barrivePaddock, tk := .may },
    { minor := 0x13, team := some .bwaitTeam, object := some .bwaitObject, paddock := some .bwaitPaddock },
    { minor := 0x14, team := some .bsyncTeam, object := none, paddock := some .bsyncPaddock },
    { minor := 0x15, team := none, object := some .bbytes, paddock := none, tk := .may, ar := true },
    { minor := 0x16, team := none, object := some .btest, paddock := none, tk := .must },
    { minor := 0x17, team := some .bdropTeam, object := some .bdropObject, paddock := none, objCnt := .unused } ]

def aRow (cls : BitVec 4) (minor : BitVec 7) : Option ARow :=
  (match cls.toNat with | 6 => rowsBarrier | _ => []).find? (fun r => r.minor == minor.toNat)

/-- The form the row has for a barrier kind. -/
def ARow.form (r : ARow) (bk : BitVec 2) : Option Op :=
  match bk.toNat with
  | 0 => r.team
  | 1 => r.object
  | 2 => r.paddock
  | _ => none

def ARow.cntK (r : ARow) (bk : BitVec 2) : CntK :=
  match bk.toNat with
  | 0 => r.teamCnt
  | 1 => r.objCnt
  | _ => .unused

def ARow.usesDst (r : ARow) (w : DWord) : Bool := wBkind w == 1 && r.tk != .no && bit w 12
def ARow.usesSa (r : ARow) (w : DWord) : Bool := wBkind w == 1 || (wBkind w == 0 && r.teamCnt == .extra)

def ARow.opnds (r : ARow) (w : DWord) : Opnds :=
  { d := if r.usesDst w then .uni (wDst w).toNat 1 else .none
    a := if r.usesSa w then .uni (wSa w).toNat 1 else .none
    b := .none
    c := match r.cntK (wBkind w) with
      | .unused => .none
      | _ => match (wCkBa w).toNat with
        | 2 => .imm
        | 3 => .lit
        | _ => .uni (wSc w).toNat 1 }

/-- The checks of a BA word. -/
def ARow.checks (r : ARow) (w lit : DWord) : Checks :=
  let o := r.opnds w
  let bk := wBkind w
  let fn := wFnBa w
  let ck := (wCkBa w).toNat
  let cnt := r.cntK bk
  { s5 := bits w 0 2 != 0 || bits w 38 3 != 0
      || (!r.usesDst w && wDst w != 0) || (!r.usesSa w && wSa w != 0)
      || (bk == 1 && wBnum w != 0)
      || (bk != 1 && fn != 0)
      || (bk == 1 && (bits fn 4 6 != 0 || (bit fn 3 && !r.ar)
            || (match r.tk with | .no => bit fn 2 | .may => false | .must => !bit fn 2)))
      || (match cnt with
          | .unused => (ck == 2 || ck == 3) || wSc w != 0
          | .extra => ck == 3
          | .any => false)
      || (cnt != .unused && ck == 3 && wSc w != 0)
    s6 := (r.form bk).isNone || ck == 1
      || (bk == 1 && bits fn 0 2 == 3)
      || (bk == 2 && 3 < (wBnum w).toNat)
      || (cnt == .extra && ck == 2 && 31 < (wSc w).toNat)
    s8 := o.s8
    s9 := o.s9
    s10 := (wL w != (cnt != .unused && ck == 3)) || (cnt != .unused && ck == 3 && lit.toNat ≥ 2 ^ 32)
    s11 := wT w }

/-! ## The matrix stream (R57-R61, R288, R292, R297, R300, R301, R326)

The checks here are those the word's own fields decide; the widths of narrow types and the tables are judged when the
word reads B or its tile (R307, R330). -/

/-- MOP and MF of a matrix word (R57, R288). -/
def mwMf (w : QWord) : BitVec 3 := bits w 8 3
def mwMop (w : QWord) : BitVec 8 := bits w 0 8

/-- The name a matrix word's MF and MOP give (R288). -/
def mxOp (mf : BitVec 3) (mop : BitVec 8) : Option Op :=
  match mf.toNat, mop.toNat with
  | 0, 0x01 => some .mma | 0, 0x02 => some .mms | 0, 0x03 => some .mmat
  | 1, 0x10 => some .mdrn | 1, 0x11 => some .mdrz | 1, 0x12 => some .mldc | 1, 0x13 => some .mzero
  | 2, 0x20 => some .mjmp | 2, 0x21 => some .mbnz | 2, 0x22 => some .mdjnz | 2, 0x23 => some .mblt
  | 3, 0x30 => some .mqset | 3, 0x31 => some .mqadd | 3, 0x32 => some .mqsub | 3, 0x33 => some .mqmul
  | 3, 0x34 => some .mqshl | 3, 0x35 => some .mqand | 3, 0x36 => some .mqld
  | 4, 0x40 => some .msync | 4, 0x41 => some .mend
  | _, _ => none

/-- The 16-bit row and the narrow rows of R292. -/
def tyMx16 (t : Ty) : Bool := t == .f16 || t == .bf16
def tyMxNar (t : Ty) : Bool := t.isNar || t == .i8 || t == .n8

/-- R292 and R326 over the fields of an MX word. -/
def MXF.ok (f : MXF) : Bool :=
  f.trow != 31 &&
  if tyMx16 f.aty && tyMx16 f.bty then
    !f.xv && f.xsel == 0 && !f.sv && f.sbsel == 0 && f.sbreg == 0 && f.sasel == 0 && f.sareg == 0
  else
    tyMxNar f.aty && tyMxNar f.bty && !bit f.breg 0
    && (if f.sv then f.sasel.toNat ≤ 2 && f.sbsel.toNat ≤ 2
        else f.sasel == 0 && f.sareg == 0 && f.sbsel == 0 && f.sbreg == 0)
    && (f.xv || f.xsel == 0)

/-- R297 over the fields of an MD word. A narrow DTYPE is taken 8 bits wide here and judged again with its format. -/
def MDF.ok (op : Op) (f : MDF) : Bool :=
  let plain := f.rnd == .rne && !f.fv && f.fill == 0
  f.trow != 31 &&
  match op with
  | .mzero => plain && f.dty == .f64 && f.dmode == 0 && f.qd == 0 && f.doff == 0
  | .mldc => plain && ((f.dmode == 0 && (f.dty == .f32 || tyMx16 f.dty)) || (f.dmode == 3 && f.dty == .b64))
  | _ =>
    match f.dmode.toNat with
    | 0 | 1 => f.dty.isNumber && (f.rnd != .rto || tyMx16 f.dty || f.dty.isNar)
        && (if f.fv then f.dty.litWidth ≤ 32 && f.fill.toNat < 2 ^ f.dty.litWidth else f.fill == 0)
    | 2 => plain && (f.dty == .i32 || f.dty == .n32 || f.dty == .f32)
    | 3 => plain && f.dty == .b64
    | _ => false

/-- R301 over the fields of an MC word. -/
def MCF.ok (op : Op) (f : MCF) : Bool :=
  match op with
  | .mjmp => f.qc == 0 && f.imm == 0
  | .mblt => true
  | _ => f.imm == 0

/-- R300 over the fields of an MQ word. -/
def MQF.ok (op : Op) (f : MQF) : Bool :=
  match op with
  | .mqset => f.ib && f.qa == 0 && f.qb == 0
  | .mqld => f.ib && f.qb == 0
  | _ => if f.ib then f.qb == 0 else f.imm == 0

/-- The reserved bits of a matrix word of each format are zero (R57-R60). -/
def mwReservedOk (w : QWord) : Bool :=
  bits w 22 2 == 0 && !bit w 11 &&
  match (mwMf w).toNat with
  | 0 => bits w 91 37 == 0
  | 1 => bits w 96 32 == 0 && !bit w 31
  | 2 => bits w 96 32 == 0 && bits w 48 16 == 0 && bits w 28 4 == 0
  | 3 => bits w 96 32 == 0 && bits w 37 27 == 0
  | _ => bits w 24 104 == 0

end Sys2Proof
end

