-- ==== Sys2Proof/Machine/Num.lean ====
section
/-! DEFINITION. Exact values, the number formats, rounding and conversion (R79-R92, R99-R105, R457). -/

namespace Sys2Proof.Machine
open Sys2Proof

/-! ## Flags and values -/

/-- FPFLAGS[4:0]: NX UF OF DZ IV (R108). -/
abbrev Fl := BitVec 5
abbrev Fl.iv : Fl := 1
abbrev Fl.dz : Fl := 2
abbrev Fl.ovf : Fl := 4
abbrev Fl.udf : Fl := 8
abbrev Fl.nx : Fl := 16

/-- A present value: a NaN, an infinity, or ±m·2^e; with `st` the value lies strictly between m·2^e and (m+1)·2^e
in magnitude, which division and square root deliver with more than enough bits for one rounding. -/
inductive Xv where
  | nan (sig : Bool)
  | inf (neg : Bool)
  | fin (neg : Bool) (m : Nat) (e : Int) (st : Bool)
deriving DecidableEq, Repr

def Xv.zero : Xv := .fin false 0 0 false
def Xv.negZero : Xv := .fin true 0 0 false
def Xv.ofInt (i : Int) : Xv := .fin (i < 0) i.natAbs 0 false
def Xv.isNan : Xv → Bool | .nan _ => true | _ => false
def Xv.isSig : Xv → Bool | .nan s => s | _ => false
def Xv.isZero : Xv → Bool | .fin _ m _ st => m == 0 && !st | _ => false
def Xv.isInf : Xv → Bool | .inf _ => true | _ => false
def Xv.isNeg : Xv → Bool | .inf n => n | .fin n _ _ _ => n | .nan _ => false
def Xv.neg : Xv → Xv
  | .inf n => .inf !n
  | .fin n m e st => .fin (!n) m e st
  | x => x
def Xv.abs : Xv → Xv
  | .inf _ => .inf false
  | .fin _ m e st => .fin false m e st
  | x => x

/-! ## Float formats (R83, R88) -/

/-- The parameters of a format with an exponent field. `fin`: every exponent codes finite values. -/
structure FFmt where
  s : Bool
  eb : Nat
  mb : Nat
  bias : Int
  fin : Bool
deriving DecidableEq, Repr

def FFmt.f64 : FFmt := ⟨true, 11, 52, 1023, false⟩
def FFmt.f32 : FFmt := ⟨true, 8, 23, 127, false⟩
def FFmt.f16 : FFmt := ⟨true, 5, 10, 15, false⟩
def FFmt.bf16 : FFmt := ⟨true, 8, 7, 127, false⟩
def FFmt.nar (f : Word) : FFmt := ⟨nfS f == 1, nfE f, nfM f, nfBias f, nfFin f⟩

/-- The width of a code. -/
def FFmt.w (F : FFmt) : Nat := (if F.s then 1 else 0) + F.eb + F.mb
/-- The magnitude bits of a code. -/
def FFmt.magW (F : FFmt) : Nat := F.eb + F.mb
/-- The magnitude code of ∞ (FIN = 0). -/
def FFmt.infMag (F : FFmt) : Nat := (2 ^ F.eb - 1) * 2 ^ F.mb
/-- The largest present finite magnitude code for a sign; the all-ones code is absent (R91). -/
def FFmt.maxMag (F : FFmt) (neg : Bool) : Nat :=
  if F.fin then (if F.s && !neg then 2 ^ F.magW - 1 else 2 ^ F.magW - 2) else F.infMag - 1
/-- A code from sign and magnitude. -/
def FFmt.pack (F : FFmt) (neg : Bool) (mag : Nat) : Nat := mag + (if F.s && neg then 2 ^ F.magW else 0)
/-- The canonical NaN (R85, R91). -/
def FFmt.canon (F : FFmt) : Nat := F.infMag + 2 ^ (F.mb - 1)

/-- The value of a present code (R83, R90). -/
def FFmt.value (F : FFmt) (code : Nat) : Xv :=
  let neg := F.s && code / 2 ^ F.magW % 2 == 1
  let mag := code % 2 ^ F.magW
  let e := mag / 2 ^ F.mb
  let m := mag % 2 ^ F.mb
  if !F.fin && e == 2 ^ F.eb - 1 then
    if m == 0 then .inf neg else .nan (m / 2 ^ (F.mb - 1) == 0)
  else if e == 0 then .fin neg m (1 - F.bias - F.mb) false
  else .fin neg (m + 2 ^ F.mb) (e - F.bias - F.mb) false

/-! ## Rounding (R101-R103) -/

/-- The integer nearest to m·2^(-sh) under a mode, with whether it is inexact; `st` adds a part below the last bit.  Where a format has no
mantissa bit (M = 0), the least significant bit is the hidden one (R101, R178; DESIGN CHOICE, log 95). -/
def roundShift (rnd : Rnd) (neg : Bool) (m : Nat) (st : Bool) (sh : Nat) : Nat × Bool :=
  let q := m / 2 ^ sh
  let r := m % 2 ^ sh
  let inexact := r != 0 || st
  let up := match rnd with
    | .rne => 2 * r > 2 ^ sh || (2 * r == 2 ^ sh && sh != 0 && (st || q % 2 == 1))
    | .rtz => false
    | .rdn => neg && inexact
    | .rup => !neg && inexact
    | .rto => inexact && q % 2 == 0
  (if up then q + 1 else q, inexact)

/-- m·2^e as an integer count of 2^u under a mode. -/
def roundAt (rnd : Rnd) (neg : Bool) (m : Nat) (e : Int) (st : Bool) (u : Int) : Nat × Bool :=
  if u ≤ e then roundShift rnd neg (m * 2 ^ (e - u).toNat) st 0 else roundShift rnd neg m st (u - e).toNat

/-- The overflow result (R102). -/
def FFmt.overflow (F : FFmt) (rnd : Rnd) (neg : Bool) : Nat :=
  let toMax := F.fin || (match rnd with
    | .rne => false | .rtz => true | .rto => true | .rdn => !neg | .rup => neg)
  F.pack neg (if toMax then F.maxMag neg else F.infMag)

/-- The magnitude code a non-zero finite value rounds to as if the exponent range had no upper end; whether inexact; and
whether tiny (R102, R103). -/
def FFmt.roundMag (F : FFmt) (rnd : Rnd) (neg : Bool) (m : Nat) (e : Int) (st : Bool) : Nat × Bool × Bool :=
  let top : Int := e + m.log2
  let emin : Int := 1 - F.bias
  let (q, inexact) := roundAt rnd neg m e st (max top emin - F.mb)
  let (q', _) := roundAt rnd neg m e st (top - F.mb)
  let tiny := top < emin && !(top + 1 == emin && q' == 2 ^ (F.mb + 1))
  (((max top emin) - emin).toNat * 2 ^ F.mb + q, inexact, tiny)

/-- Round (R101-R103) into a format with an exponent field, with the sources R457 and R100 single out. -/
def FFmt.round (F : FFmt) (rnd : Rnd) (x : Xv) : Nat × Fl :=
  match x with
  | .nan sig => if F.fin then (0, Fl.iv) else (F.canon, if sig then Fl.iv else 0)
  | .inf neg =>
    if !F.s && neg then (0, Fl.iv)
    else if F.fin then (F.pack neg (F.maxMag neg), Fl.ovf ||| Fl.nx)
    else (F.pack neg F.infMag, 0)
  | .fin neg m e st =>
    if m == 0 && !st then (F.pack neg 0, 0)
    else
      let (mag, inexact, tiny) := F.roundMag rnd neg m e st
      let fl := (if inexact then Fl.nx else 0) ||| (if inexact && tiny then Fl.udf else 0)
      if !F.s && neg then (0, if mag == 0 then fl else Fl.iv)
      else if mag > F.maxMag neg then (F.overflow rnd neg, Fl.ovf ||| Fl.nx)
      else (F.pack neg mag, fl)

/-! ## Integer and fixed-point destinations (R100) -/

/-- A value rounded to an integer by a mode, clamped into [lo, hi]; IV beyond the range, NX where inexact. -/
def roundInt (rnd : Rnd) (lo hi : Int) (x : Xv) : Int × Fl :=
  match x with
  | .nan _ => (0, Fl.iv)
  | .inf neg => (if neg then lo else hi, Fl.iv)
  | .fin neg m e st =>
    let (q, inexact) := roundAt rnd neg m e st 0
    let v : Int := if neg then -(q : Int) else q
    if v > hi then (hi, Fl.iv) else if v < lo then (lo, Fl.iv) else (v, if inexact then Fl.nx else 0)

/-! ## Types as formats (R79, R80, R82) -/

/-- How the codes of a number type are read. -/
inductive Coding where
  | flt (F : FFmt)
  /-- n-bit two's complement, −(2ⁿ⁻¹−1) to 2ⁿ⁻¹−1. -/
  | int (n : Nat)
  | nat (n : Nat)
  /-- fixed point with E = 0: sign, magnitude bits, BIAS. -/
  | fix (s : Bool) (mb : Nat) (bias : Int)
  | raw (n : Nat)
deriving DecidableEq, Repr

def codingOf (nf : BitVec 3 → Word) : Ty → Coding
  | .f64 => .flt .f64 | .f32 => .flt .f32 | .f16 => .flt .f16 | .bf16 => .flt .bf16
  | .i8 => .int 8 | .i16 => .int 16 | .i32 => .int 32 | .i64 => .int 64
  | .n8 => .nat 8 | .n16 => .nat 16 | .n32 => .nat 32 | .n64 => .nat 64
  | .b8 => .raw 8 | .b16 => .raw 16 | .b32 => .raw 32 | .b64 => .raw 64 | .b128 => .raw 128
  | .nf k => let f := nf k; if nfE f == 0 then .fix (nfS f == 1) (nfM f) (nfBias f) else .flt (FFmt.nar f)

/-- The width of a code. -/
def Coding.w : Coding → Nat
  | .flt F => F.w
  | .int n | .nat n | .raw n => n
  | .fix s mb _ => (if s then 1 else 0) + mb

/-- The absent code, for number types (R79, R91). -/
def Coding.absent : Coding → Option Nat
  | .int n => some (2 ^ (n - 1))
  | .raw _ => none
  | c => some (2 ^ c.w - 1)

/-- The bits an element occupies in a lane and in memory: nibbles for W ≤ 4 (R80, R82). -/
def contW (nf : BitVec 3 → Word) (t : Ty) : Nat :=
  match t with
  | .nf k => if nfWidth (nf k) ≤ 4 then 4 else 8
  | t => (codingOf nf t).w

def Coding.maxInt : Coding → Int
  | .int n => 2 ^ (n - 1) - 1
  | .nat n => 2 ^ n - 2
  | _ => 0
def Coding.minInt : Coding → Int
  | .int n => -(2 ^ (n - 1) - 1)
  | _ => 0

/-- The two's complement code of an integer in `n` bits. -/
def intCode (n : Nat) (v : Int) : Nat := (v % (2 ^ n : Int)).toNat

/-- The value of a code that is not absent. -/
def Coding.value (c : Coding) (code : Nat) : Xv :=
  match c with
  | .flt F => F.value code
  | .int n => Xv.ofInt (if code < 2 ^ (n - 1) then (code : Int) else (code : Int) - 2 ^ n)
  | .nat _ | .raw _ => .fin false code 0 false
  | .fix s mb bias =>
    let m := code % 2 ^ mb
    .fin (s && code / 2 ^ mb % 2 == 1 && m != 0) m (-bias) false

/-- An element: none is the absent code (R79). -/
def Coding.read (c : Coding) (code : Nat) : Option Xv :=
  if c.absent == some code then none else some (c.value code)

/-- Round (R101) of an exact value into a number type; `ofInt` tells an integer source, which saturates into an integer
type without a flag (R100). -/
def Coding.round (c : Coding) (rnd : Rnd) (ofInt : Bool) (x : Xv) : Nat × Fl :=
  match c with
  | .flt F => F.round rnd x
  | .int n => let (v, fl) := roundInt rnd c.minInt c.maxInt x; (intCode n v, if ofInt then 0 else fl)
  | .nat n => let (v, fl) := roundInt rnd c.minInt c.maxInt x; (intCode n v, if ofInt then 0 else fl)
  | .fix s mb bias =>
    let lo : Int := if s then -(2 ^ mb - 2) else 0
    let hi : Int := if s then 2 ^ mb - 1 else 2 ^ mb - 2
    let x' := match x with
      | .fin n m e st => .fin n m (e + bias) st
      | y => y
    let (v, fl) := roundInt rnd lo hi x'
    ((if v < 0 then v.natAbs + 2 ^ mb else v.natAbs), fl)
  | .raw n => match x with
    | .fin _ m _ _ => (m % 2 ^ n, 0)
    | _ => (0, 0)

/-- The types whose conversions among each other set no flag (R100). -/
def Ty.isInt (t : Ty) : Bool := t.isI || t.isN

/-- Convert (R99, R100, R207): one element of type `u` into type `t`; bits are copied where either type is a B type or both
are the same. -/
def convert (nf : BitVec 3 → Word) (t u : Ty) (rnd : Rnd) (code : Nat) : Nat × Fl :=
  let ct := codingOf nf t
  let cu := codingOf nf u
  if t == u then (code % 2 ^ cu.w, 0)
  else if t.isB || u.isB then (code % 2 ^ cu.w % 2 ^ ct.w, 0)
  else match cu.read code with
    | none => (ct.absent.getD 0, 0)
    | some x => ct.round rnd (Ty.isInt u) x

/-! ## Lanes as elements -/

/-- Element `j` of a lane value (R80): the low W bits of its place. -/
def elemGet (nf : BitVec 3 → Word) (t : Ty) (lane : Nat) (j : Nat) : Nat :=
  lane / 2 ^ (j * contW nf t) % 2 ^ (codingOf nf t).w

/-- A lane value with element `j` replaced; the other bits of a narrow element's place become zero (R81). -/
def elemSet (nf : BitVec 3 → Word) (t : Ty) (lane : Nat) (j code : Nat) : Nat :=
  let w := contW nf t
  let off := 2 ^ (j * w)
  lane - lane / off % 2 ^ w * off + code % 2 ^ w * off

/-- A lane value from its elements. -/
def elemPack (nf : BitVec 3 → Word) (t : Ty) : List Nat → Nat
  | [] => 0
  | c :: cs => c % 2 ^ contW nf t + 2 ^ contW nf t * elemPack nf t cs

/-- The elements of a lane value. -/
def elemList (nf : BitVec 3 → Word) (t : Ty) (lane : Nat) : List Nat :=
  (List.range (elemsOf nf t)).map (elemGet nf t lane)

/-! ## Exact arithmetic -/

/-- m·2^e over a common exponent, as an integer. -/
def scaled (neg : Bool) (m : Nat) (e u : Int) : Int :=
  let v : Nat := m * 2 ^ (e - u).toNat
  if neg then -(v : Int) else v

/-- The exact product (R171): 0·∞ and a signalling NaN set IV. -/
def Xv.mul (a b : Xv) : Xv × Fl :=
  let sig : Fl := if a.isSig || b.isSig then Fl.iv else 0
  match a, b with
  | .nan _, _ => (.nan false, sig)
  | _, .nan _ => (.nan false, sig)
  | .inf n, y => if y.isZero then (.nan false, Fl.iv) else (.inf (n != y.isNeg), 0)
  | x, .inf n => if x.isZero then (.nan false, Fl.iv) else (.inf (n != x.isNeg), 0)
  | .fin n m e st, .fin n' m' e' st' => (.fin (n != n') (m * m') (e + e') (st || st'), 0)

/-- The least exponent of the finite values of a list. -/
def minExp : List Xv → Int → Int
  | [], d => d
  | .fin _ _ e _ :: xs, d => minExp xs (min d e)
  | _ :: xs, d => minExp xs d

/-- The exact sum of finite values as an integer count of 2^u. -/
def sumAt (u : Int) : List Xv → Int
  | [] => 0
  | .fin n m e _ :: xs => scaled n m e u + sumAt u xs
  | _ :: xs => sumAt u xs

/-- The exact sum of a non-empty list of values (R171, R296): NaN, ∞ − ∞, and the sign of a zero sum. -/
def sumX (rnd : Rnd) (xs : List Xv) : Xv × Fl :=
  let sig : Fl := if xs.any Xv.isSig then Fl.iv else 0
  let pos := xs.any (fun x => x.isInf && !x.isNeg)
  let neg := xs.any (fun x => x.isInf && x.isNeg)
  if xs.any Xv.isNan then (.nan false, sig ||| (if pos && neg then Fl.iv else 0))
  else if pos && neg then (.nan false, Fl.iv)
  else if pos then (.inf false, 0)
  else if neg then (.inf true, 0)
  else
    let u := minExp xs 0
    let v := sumAt u xs
    if v == 0 then
      if xs.all (fun x => x.isZero && x.isNeg) then (.negZero, 0)
      else if xs.all (fun x => x.isZero && !x.isNeg) then (.zero, 0)
      else (if rnd == .rdn then .negZero else .zero, 0)
    else (.fin (v < 0) v.natAbs u false, 0)

/-- The quotient (R171). -/
def Xv.div (a b : Xv) : Xv × Fl :=
  let sig : Fl := if a.isSig || b.isSig then Fl.iv else 0
  match a, b with
  | .nan _, _ => (.nan false, sig)
  | _, .nan _ => (.nan false, sig)
  | .inf _, .inf _ => (.nan false, Fl.iv)
  | .inf n, y => (.inf (n != y.isNeg), 0)
  | x, .inf n => (.fin (n != x.isNeg) 0 0 false, 0)
  | .fin n m e _, .fin n' m' e' _ =>
    if m' == 0 then if m == 0 then (.nan false, Fl.iv) else (.inf (n != n'), Fl.dz)
    else if m == 0 then (.fin (n != n') 0 0 false, 0)
    else
      let k := 130 + m'.log2
      let q := m * 2 ^ k / m'
      (.fin (n != n') q (e - e' - k) (m * 2 ^ k % m' != 0), 0)

/-- The integer square root, one bit of the root a step from bit `k`. -/
def isqrtFrom (n : Nat) : Nat → Nat → Nat
  | 0, r => r
  | k + 1, r => let r' := r + 2 ^ k; isqrtFrom n k (if r' * r' ≤ n then r' else r)

def isqrt (n : Nat) : Nat := isqrtFrom n (n.log2 / 2 + 1) 0

/-- The square root (R171). -/
def Xv.sqrt (a : Xv) : Xv × Fl :=
  match a with
  | .nan s => (.nan false, if s then Fl.iv else 0)
  | .inf false => (.inf false, 0)
  | .inf true => (.nan false, Fl.iv)
  | .fin n m e _ =>
    if m == 0 then (a, 0)
    else if n then (.nan false, Fl.iv)
    else
      let k : Nat := if e % 2 == 0 then 140 else 141
      let m' := m * 2 ^ k
      let r := isqrt m'
      (.fin false r ((e - k) / 2) (r * r != m'), 0)

/-- An integral value under a mode, with the sign kept (R172). -/
def Xv.rint (rnd : Rnd) (a : Xv) : Xv × Fl :=
  match a with
  | .nan s => (.nan false, if s then Fl.iv else 0)
  | .inf _ => (a, 0)
  | .fin n m e st => if e ≥ 0 then (a, 0) else (.fin n (roundAt rnd n m e st 0).1 0 false, 0)

/-- The order of two values that are not NaN; −0 equals +0. -/
def Xv.cmp (a b : Xv) : Ordering :=
  match a, b with
  | .inf n, .inf n' => if n == n' then .eq else if n then .lt else .gt
  | .inf n, _ => if n then .lt else .gt
  | _, .inf n => if n then .gt else .lt
  | .fin n m e _, .fin n' m' e' _ =>
    let u := min e e'
    compare (scaled n m e u) (scaled n' m' e' u)
  | _, _ => .eq

/-- The lesser (`mx` false) or greater operand, −0 ordered below +0; a NaN delivers the canonical NaN (R173). -/
def Xv.minmax (mx : Bool) (a b : Xv) : Xv × Fl :=
  let sig : Fl := if a.isSig || b.isSig then Fl.iv else 0
  if a.isNan || b.isNan then (.nan false, sig)
  else
    let aFirst := match a.cmp b with
      | .lt => true
      | .gt => false
      | .eq => a.isNeg
    (if aFirst != mx then a else b, 0)

end Sys2Proof.Machine
end

