-- ==== Sys2Proof/Syntax.lean ====
section
/-! DEFINITION. The instructions and events of the machine, one constructor for each row of the opcode table:
group-stream words (R33-R56), matrix-stream words (R57-R61) and the steps of the machine that no instruction
word names (messages, timers, host commands), which carry what they bring with them. -/

namespace Sys2Proof

/-- Every row of the opcode table. -/
inductive Instr where
  /-- Vector integer or bit add with saturation or wrap, propagating absent codes. (R127) -/
  | addIntVr (f : VF)
  /-- Uniform integer or bit add, executed once for the group. (R127) -/
  | addIntUr (f : VF)
  /-- Vector integer subtract. (R127) -/
  | subIntVr (f : VF)
  /-- Uniform integer subtract. (R127) -/
  | subIntUr (f : VF)
  /-- Vector integer multiply. (R127) -/
  | mulIntVr (f : VF)
  /-- Uniform integer multiply. (R127) -/
  | mulIntUr (f : VF)
  /-- Vector high half of an integer product. (R127) -/
  | mulhiVr (f : VF)
  /-- Uniform high half of an integer product. (R127) -/
  | mulhiUr (f : VF)
  /-- Vector integer multiply-add. (R127) -/
  | madVr (f : VF)
  /-- Uniform integer multiply-add. (R127) -/
  | madUr (f : VF)
  /-- Vector integer division toward zero, with defined results for division by zero. (R128) -/
  | divIntVr (f : VF)
  /-- Uniform integer division. (R128) -/
  | divIntUr (f : VF)
  /-- Vector integer remainder. (R128) -/
  | remVr (f : VF)
  /-- Uniform integer remainder. (R128) -/
  | remUr (f : VF)
  /-- Vector integer minimum. (R127) -/
  | minIntVr (f : VF)
  /-- Uniform integer minimum. (R127) -/
  | minIntUr (f : VF)
  /-- Vector integer maximum. (R127) -/
  | maxIntVr (f : VF)
  /-- Uniform integer maximum. (R127) -/
  | maxIntUr (f : VF)
  /-- Vector integer absolute value. (R127) -/
  | absIntVr (f : VF)
  /-- Uniform integer absolute value. (R127) -/
  | absIntUr (f : VF)
  /-- Vector integer negation. (R127) -/
  | negIntVr (f : VF)
  /-- Uniform integer negation. (R127) -/
  | negIntUr (f : VF)
  /-- Vector bitwise and. (R126) -/
  | andVr (f : VF)
  /-- Uniform bitwise and. (R126) -/
  | andUr (f : VF)
  /-- Vector bitwise or. (R126) -/
  | orVr (f : VF)
  /-- Uniform bitwise or. (R126) -/
  | orUr (f : VF)
  /-- Vector bitwise xor. (R126) -/
  | xorVr (f : VF)
  /-- Uniform bitwise xor. (R126) -/
  | xorUr (f : VF)
  /-- Vector bitwise not. (R126) -/
  | notVr (f : VF)
  /-- Uniform bitwise not. (R126) -/
  | notUr (f : VF)
  /-- Vector shift left, saturating for number types. (R129) -/
  | shlVr (f : VF)
  /-- Uniform shift left. (R129) -/
  | shlUr (f : VF)
  /-- Vector shift right. (R129) -/
  | shrVr (f : VF)
  /-- Uniform shift right. (R129) -/
  | shrUr (f : VF)
  /-- Vector rotate left, or right with X. (R129) -/
  | rotVr (f : VF)
  /-- Uniform rotate. (R129) -/
  | rotUr (f : VF)
  /-- Vector population count. (R129) -/
  | popcVr (f : VF)
  /-- Uniform population count. (R129) -/
  | popcUr (f : VF)
  /-- Vector count of leading zeros. (R129) -/
  | clzVr (f : VF)
  /-- Uniform count of leading zeros. (R129) -/
  | clzUr (f : VF)
  /-- Vector bit reversal. (R129) -/
  | brevVr (f : VF)
  /-- Uniform bit reversal. (R129) -/
  | brevUr (f : VF)
  /-- Vector bit-field extract. (R130) -/
  | bfeVr (f : VF)
  /-- Uniform bit-field extract. (R130) -/
  | bfeUr (f : VF)
  /-- Vector bit-field insert. (R130) -/
  | bfiVr (f : VF)
  /-- Uniform bit-field insert. (R130) -/
  | bfiUr (f : VF)
  /-- Vector integer compare into a mask register. (R131) -/
  | cmpIntVr (f : VF)
  /-- Uniform integer compare into a uniform register. (R131) -/
  | cmpIntUr (f : VF)
  /-- Vector select by mask bit. (R132) -/
  | selVr (f : VF)
  /-- Uniform select by register non-zero. (R132) -/
  | selUr (f : VF)
  /-- Vector move of a register, immediate or literal. (R132) -/
  | movVr (f : VF)
  /-- Uniform move. (R132) -/
  | movUr (f : VF)
  /-- Vector address add of a shifted index. (R133) -/
  | leaVr (f : VF)
  /-- Uniform address add of a shifted index. (R133) -/
  | leaUr (f : VF)
  /-- Vector integer conversion or reinterpretation between sub-element types. (R134) -/
  | extVr (f : VF)
  /-- Uniform integer conversion. (R134) -/
  | extUr (f : VF)
  /-- Vector four-way 8-bit dot product with accumulate. (R127) -/
  | dp4Vr (f : VF)
  /-- Uniform four-way 8-bit dot product. (R127) -/
  | dp4Ur (f : VF)
  /-- Copies a uniform register into a mask register. (R135) -/
  | mset (f : VF)
  /-- Copies a mask register into a uniform register. (R135) -/
  | mget (f : VF)
  /-- Logical operation on two mask registers. (R135) -/
  | mlog (f : VF)
  /-- Acquires an extended register block, waiting for a free block of the team's reservation. (R115) -/
  | xacq (f : SPF)
  /-- Releases the group's extended block after its results return. (R116) -/
  | xrel (f : SPF)
  /-- Arrives on a team barrier and offers the extended allowance to a sibling. (R117) -/
  | donate (f : SPF)
  /-- Unconditional branch of the active lanes. (R142) -/
  | bra (f : BRF)
  /-- Branch of lanes whose predicate is true, dividing the split. (R142) -/
  | brt (f : BRF)
  /-- Branch of lanes whose predicate is false. (R142) -/
  | brf (f : BRF)
  /-- Whole-split branch when any active lane's mask bit is set. (R142) -/
  | bany (f : BRF)
  /-- Whole-split branch when every active lane's mask bit is set. (R142) -/
  | ball (f : BRF)
  /-- Writes the link pair and branches. (R144) -/
  | call (f : BRF)
  /-- Starts a counted loop and pushes its loop record. (R156) -/
  | loop (f : BRF)
  /-- Decrements a loop counter and branches while non-zero. (R158) -/
  | ldec (f : BRF)
  /-- Pops loop records down to a counter and branches. (R158) -/
  | lexit (f : BRF)
  /-- Jump to the address in a uniform pair. (R141) -/
  | jmpr (f : SPF)
  /-- Register-indirect call writing the link pair. (R144) -/
  | callr (f : SPF)
  /-- Return through a uniform pair, as JMPR. (R144) -/
  | ret (f : SPF)
  /-- Parks lanes until the group's rejoin set is complete. (R146) -/
  | join (f : SPF)
  /-- Ends the active lanes. (R160) -/
  | exit (f : SPF)
  /-- Per-lane indirect jump forming one lane set per target. (R143) -/
  | jmpv (f : SPF)
  /-- Writes the active-lane mask. (R160) -/
  | mact (f : SPF)
  /-- No operation. (R160) -/
  | nop (f : SPF)
  /-- Resets the split's issue age. (R160) -/
  | yield (f : SPF)
  /-- Reads a loop counter. (R158) -/
  | lcrd (f : SPF)
  /-- Writes a loop counter. (R158) -/
  | lcwr (f : SPF)
  /-- Float add rounded once. (R170) -/
  | addFloat (f : VF)
  /-- Float subtract. (R170) -/
  | subFloat (f : VF)
  /-- Float multiply. (R170) -/
  | mulFloat (f : VF)
  /-- Fused multiply-add. (R170) -/
  | fma (f : VF)
  /-- Fused multiply-subtract. (R170) -/
  | fms (f : VF)
  /-- Fused negated multiply-add. (R170) -/
  | fnma (f : VF)
  /-- Correctly rounded float division. (R171) -/
  | divFloat (f : VF)
  /-- Correctly rounded square root. (R171) -/
  | sqrt (f : VF)
  /-- Float minimum. (R173) -/
  | minFloat (f : VF)
  /-- Float maximum. (R173) -/
  | maxFloat (f : VF)
  /-- Clears the sign bit. (R174) -/
  | absFloat (f : VF)
  /-- Inverts the sign bit. (R174) -/
  | negFloat (f : VF)
  /-- Copies the sign of b. (R174) -/
  | cpys (f : VF)
  /-- Float compare into a mask register. (R175) -/
  | cmpFloat (f : VF)
  /-- Classifies float elements into a mask. (R176) -/
  | fcls (f : VF)
  /-- Present test into a mask. (R177) -/
  | pres (f : VF)
  /-- Conversion between number types with a rounding mode. (R178) -/
  | cvt (f : VF)
  /-- Rounds to an integral value. (R172) -/
  | rint (f : VF)
  /-- Reciprocal special function. (R179) -/
  | rcp (f : VF)
  /-- Reciprocal square root. (R179) -/
  | rsqrt (f : VF)
  /-- Base-2 exponential. (R179) -/
  | exp2 (f : VF)
  /-- Base-2 logarithm. (R179) -/
  | log2 (f : VF)
  /-- sin(pi x). (R179) -/
  | sinpi (f : VF)
  /-- cos(pi x). (R179) -/
  | cospi (f : VF)
  /-- Hyperbolic tangent. (R179) -/
  | tanh (f : VF)
  /-- Logistic sigmoid. (R179) -/
  | sigm (f : VF)
  /-- Tree sum across the group's lanes. (R181) -/
  | rsum (f : VF)
  /-- Tree minimum across lanes. (R181) -/
  | rmin (f : VF)
  /-- Tree maximum across lanes. (R181) -/
  | rmax (f : VF)
  /-- Count of present active elements across lanes. (R182) -/
  | rcnt (f : VF)
  /-- Reads an indexed lane within the member set. (R189) -/
  | shfl (f : VF)
  /-- Reads the lane n below. (R189) -/
  | shup (f : VF)
  /-- Reads the lane n above. (R189) -/
  | shdn (f : VF)
  /-- Reads the lane L xor n. (R189) -/
  | shxr (f : VF)
  /-- Rotates lanes. (R189) -/
  | shrt (f : VF)
  /-- Two-source lane permutation. (R189) -/
  | prm2 (f : VF)
  /-- Reads the first active lane into a uniform register. (R190) -/
  | rfal (f : VF)
  /-- Reads the first active lane and sets NONUNIF if lanes differ. (R190) -/
  | rfau (f : VF)
  /-- Inserts a uniform value into one lane. (R192) -/
  | insl (f : VF)
  /-- Byte permutation within each lane. (R193) -/
  | bprm (f : VF)
  /-- Interleaves two registers. (R194) -/
  | zip2 (f : VF)
  /-- Interleaves three registers. (R194) -/
  | zip3 (f : VF)
  /-- Interleaves four registers. (R194) -/
  | zip4 (f : VF)
  /-- De-interleaves into two registers. (R194) -/
  | unz2 (f : VF)
  /-- De-interleaves into three registers. (R194) -/
  | unz3 (f : VF)
  /-- De-interleaves into four registers. (R194) -/
  | unz4 (f : VF)
  /-- Vector load through a typed pointer with conversion. (R209) -/
  | ld (f : MAF)
  /-- Vector store through a typed pointer with conversion. (R210) -/
  | st (f : MAF)
  /-- Uniform load executed once for the group. (R211) -/
  | ldu (f : MAF)
  /-- Uniform store executed once for the group. (R211) -/
  | stu (f : MAF)
  /-- Loads a 128-bit pointer image. (R204) -/
  | pld (f : MAF)
  /-- Stores a 128-bit pointer image. (R204) -/
  | pst (f : MAF)
  /-- Writes a mask of lanes whose elements are in bounds. (R212) -/
  | pchk (f : MAF)
  /-- Starts line fills a load would need. (R212) -/
  | pref (f : MAF)
  /-- Builds a pointer from base, length and attributes. (R201) -/
  | pmake (f : VF)
  /-- Advances a pointer by elements and shortens it. (R202) -/
  | padd (f : VF)
  /-- Copies a pointer register. (R203) -/
  | pmov (f : VF)
  /-- Reads 32 bits of a pointer register. (R203) -/
  | pget (f : VF)
  /-- Retypes a pointer to wider scope, writing back dirty untracked bytes. (R226) -/
  | pwiden (f : RTF)
  /-- Retypes a pointer to narrower scope, dropping untracked copies. (R226) -/
  | pnarrow (f : RTF)
  /-- Widening retype of a sub-range. (R226) -/
  | pwidens (f : RTF)
  /-- Narrowing retype of a sub-range. (R226) -/
  | pnarrows (f : RTF)
  /-- Atomic add, absent-aware. (R252) -/
  | aadd (f : MAF)
  /-- Atomic minimum. (R252) -/
  | amin (f : MAF)
  /-- Atomic maximum. (R252) -/
  | amax (f : MAF)
  /-- Atomic and. (R252) -/
  | aand (f : MAF)
  /-- Atomic or. (R252) -/
  | aor (f : MAF)
  /-- Atomic xor. (R252) -/
  | axor (f : MAF)
  /-- Atomic exchange. (R252) -/
  | axch (f : MAF)
  /-- Atomic compare-and-swap on bits. (R252) -/
  | acas (f : MAF)
  /-- Sets membership and extra arrivals of a team barrier. (R258) -/
  | binitTeam (f : BAF)
  /-- Initialises a barrier object word. (R264) -/
  | binitObject (f : BAF)
  /-- Counts one arrival of the group on a team barrier. (R258) -/
  | barriveTeam (f : BAF)
  /-- Adds arrivals to a barrier object and returns a token. (R264) -/
  | barriveObject (f : BAF)
  /-- Counts a group's arrival on a paddock barrier, completing local phases. (R266) -/
  | barrivePaddock (f : BAF)
  /-- Waits for and consumes one completed team barrier phase. (R258) -/
  | bwaitTeam (f : BAF)
  /-- Waits until an object's phase passes the token. (R264) -/
  | bwaitObject (f : BAF)
  /-- Consumes one completed paddock phase. (R266) -/
  | bwaitPaddock (f : BAF)
  /-- Arrive then wait on a team barrier. (R258) -/
  | bsyncTeam (f : BAF)
  /-- Arrive then wait on a paddock barrier. (R266) -/
  | bsyncPaddock (f : BAF)
  /-- Announces bytes owed to a barrier object, optionally arriving. (R264) -/
  | bbytes (f : BAF)
  /-- Tests whether an object's phase passed a token. (R264) -/
  | btest (f : BAF)
  /-- Removes the group from a team barrier's membership. (R258) -/
  | bdropTeam (f : BAF)
  /-- Lowers an object's expected arrivals by one. (R264) -/
  | bdropObject (f : BAF)
  /-- Issues a linear copy command to the copy engine. (R274) -/
  | cpy (f : ENF)
  /-- Issues a two-dimensional strided copy. (R274) -/
  | cpy2d (f : ENF)
  /-- Issues a fill command. (R274) -/
  | cfill (f : ENF)
  /-- Issues a per-lane gather command. (R274) -/
  | cgth (f : MAF)
  /-- Copies scratchpad to a neighbour core over the cluster crossbar. (R281) -/
  | ncopy (f : ENF)
  /-- Closes unbatched commands into a numbered batch. (R276) -/
  | cbatch (f : ENF)
  /-- Waits for a batch to complete, trapping COPYERR on failure. (R276) -/
  | cwait (f : ENF)
  /-- Reads DONE and the copy status word, optionally clearing FAIL. (R276) -/
  | cstat (f : ENF)
  /-- Loads an accumulator tile from scratchpad as a command. (R282) -/
  | accld (f : ENF)
  /-- Stores an accumulator tile to scratchpad as a command. (R282) -/
  | accst (f : ENF)
  /-- Reads 32 accumulator rows of a column into a vector register. (R282) -/
  | accrd (f : ENF)
  /-- Writes a vector register into 32 accumulator rows. (R282) -/
  | accwr (f : ENF)
  /-- Writes a narrow format register. (R318) -/
  | fset (f : VF)
  /-- Reads a narrow format register. (R318) -/
  | fget (f : VF)
  /-- Writes an index table from register bytes. (R319) -/
  | xset (f : VF)
  /-- Reads an index table into lanes. (R319) -/
  | xget (f : VF)
  /-- Sets an index table to the identity. (R319) -/
  | xid (f : VF)
  /-- Writes the inverse of an index table. (R319) -/
  | xinv (f : VF)
  /-- Gathers lanes through an index table. (R320) -/
  | xprm (f : VF)
  /-- Chooses a block scale code. (R321) -/
  | scalc (f : VF)
  /-- Converts a scale code to F32. (R322) -/
  | scval (f : VF)
  /-- Multiplies scale codes bytewise. (R322) -/
  | scmul (f : VF)
  /-- Quantises F32 under a scale into a narrow type. (R323) -/
  | qnt (f : VF)
  /-- Dequantises a narrow element to F32. (R324) -/
  | dqnt (f : VF)
  /-- Narrow dot product with F32 accumulate. (R325) -/
  | ndot (f : VF)
  /-- Greatest magnitude of narrow sub-elements. (R325) -/
  | namax (f : VF)
  /-- Contributes a fold vote and runs ahead in the predicted direction or stalls. (R343) -/
  | cbr (f : BRF)
  /-- Sends a join for a fold and stalls until formation. (R341) -/
  | fjoin (f : SPF)
  /-- Posts a leave and empties the slot. (R342) -/
  | fleave (f : SPF)
  /-- Contributes the next vote without branching. (R352) -/
  | fvote (f : SPF)
  /-- Reads the last vote's counts. (R353) -/
  | fcnt (f : SPF)
  /-- Reads the slot's vote status word. (R353) -/
  | fpend (f : SPF)
  /-- Writes a tile register. (R360) -/
  | tset (f : ENF)
  /-- Reads 32 bits of a tile register. (R360) -/
  | tget (f : ENF)
  /-- Team issues an all-reduce over the fold. (R365) -/
  | collAr (f : ENF)
  /-- Team issues a reduce-scatter. (R365) -/
  | collRs (f : ENF)
  /-- Team issues an all-gather. (R365) -/
  | collAg (f : ENF)
  /-- Team issues a broadcast. (R365) -/
  | collBc (f : ENF)
  /-- Team issues a reduce to a root. (R365) -/
  | collRd (f : ENF)
  /-- Team issues a fold-wide barrier. (R365) -/
  | collBar (f : ENF)
  /-- Sends a tile to a fold peer and receives the matching one. (R376) -/
  | halo (f : ENF)
  /-- One-sided remote put command. (R375) -/
  | putr (f : ENF)
  /-- One-sided remote get command. (R375) -/
  | getr (f : ENF)
  /-- Reads the collective status word and completed count. (R371) -/
  | clstat (f : ENF)
  /-- Submits TCBs per lane. (R395) -/
  | launch (f : ENF)
  /-- Decrements predecessor counts per lane. (R395) -/
  | depdec (f : ENF)
  /-- Places one thread per active lane into a spawn bin. (R397) -/
  | spawn (f : ENF)
  /-- Launches every bin of the key at once. (R397) -/
  | sflush (f : ENF)
  /-- Reads the team's priority. (R399) -/
  | prioget (f : SPF)
  /-- Lowers or sets the team's priority within its cap. (R399) -/
  | prioset (f : SPF)
  /-- Marks the quantum expired. (R399) -/
  | qyield (f : SPF)
  /-- Reads whether a pre-emption request is pending. (R399) -/
  | preq (f : SPF)
  /-- Reads a grid extent or team count. (R399) -/
  | grdget (f : SPF)
  /-- Returns from a trap after the trapping instruction. (R75) -/
  | tret (f : SPF)
  /-- Writes a result to TRAPDST and returns. (R423) -/
  | tretR (f : SPF)
  /-- Returns and replays the trapping instruction. (R423) -/
  | tretRp (f : SPF)
  /-- Posts a SYSCALL record and parks the lanes. (R424) -/
  | scall (f : SPF)
  /-- Reads a special register. (R425) -/
  | srd (f : SPF)
  /-- Writes STATUS, FPFLAGS or a format register. (R425) -/
  | swr (f : SPF)
  /-- Claims the oldest unclaimed fault record. (R426) -/
  | fwait (f : SPF)
  /-- Resumes the unit of a fault record. (R427) -/
  | frsm (f : SPF)
  /-- Kills the lanes or unit of a fault record. (R427) -/
  | fkill (f : SPF)
  /-- Disposes of the grid of a fault record. (R427) -/
  | tdisp (f : SPF)
  /-- Contributes a vote for a parked group. (R427) -/
  | fvots (f : SPF)
  /-- Drops cached translations in a scope and stalls until complete. (R433) -/
  | tlbinv (f : SPF)
  /-- Walks a VA without faulting and reports the result. (R434) -/
  | xprobe (f : SPF)
  /-- Reads half of a directory entry. (R440) -/
  | dirrd (f : SPF)
  /-- Reads a monitor. (R443) -/
  | monrd (f : SPF)
  /-- Requests a self-test of a unit. (R440) -/
  | stest (f : SPF)
  /-- Reads the recording status. (R442) -/
  | recctlStatus (f : SPF)
  /-- Appends a marker entry to the record. (R442) -/
  | recctlMarker (f : SPF)
  /-- Stops recording. (R442) -/
  | recctlStop (f : SPF)
  /-- Reads a word of the error log. (R440) -/
  | elog (f : SPF)
  /-- Stops a team's issue. (R427) -/
  | tstop (f : SPF)
  /-- Undoes TSTOP. (R427) -/
  | tgo (f : SPF)
  /-- Matrix multiply-accumulate into a tile with counts. (R295) -/
  | mma (f : MXF)
  /-- Matrix multiply-subtract. (R295) -/
  | mms (f : MXF)
  /-- Matrix multiply with A transposed. (R295) -/
  | mmat (f : MXF)
  /-- Drains a tile to scratchpad by sum, mean, count or raw. (R298) -/
  | mdrn (f : MDF)
  /-- Drains a tile then resets it. (R298) -/
  | mdrz (f : MDF)
  /-- Loads a tile from scratchpad. (R299) -/
  | mldc (f : MDF)
  /-- Resets a tile. (R299) -/
  | mzero (f : MDF)
  /-- Matrix-stream branch. (R301) -/
  | mjmp (f : MCF)
  /-- Branch if a q register is non-zero. (R301) -/
  | mbnz (f : MCF)
  /-- Decrement a q register and branch if non-zero. (R301) -/
  | mdjnz (f : MCF)
  /-- Branch if q is below an immediate. (R301) -/
  | mblt (f : MCF)
  /-- Sets a q register. (R300) -/
  | mqset (f : MQF)
  /-- q addition. (R300) -/
  | mqadd (f : MQF)
  /-- q subtraction. (R300) -/
  | mqsub (f : MQF)
  /-- q multiplication. (R300) -/
  | mqmul (f : MQF)
  /-- q shift left. (R300) -/
  | mqshl (f : MQF)
  /-- q and. (R300) -/
  | mqand (f : MQF)
  /-- Loads a q register from scratchpad. (R300) -/
  | mqld (f : MQF)
  /-- Waits for all earlier stream effects, then arrives. (R302) -/
  | msync (f : MSF)
  /-- Ends the matrix stream after earlier effects. (R302) -/
  | mend (f : MSF)
  /-- A freed block is cleared and bound to the oldest waiting XACQ group. (R115) -/
  | extendedBlockGrant (t : Nat)
  /-- A waiting lane set moves from the divergence stack into a freed split-table entry. (R137) -/
  | deferRecordLoad (g : Nat)
  /-- The compaction unit combines compaction candidates into a fresh group. (R151) -/
  | freshGroupForm (cands : List (Nat × Nat))
  /-- A candidate without partner after 64 cc runs on in its own group. (R151) -/
  | compactionTimeout (g e : Nat)
  /-- A split's age reaching 1,024 raises its effective issue priority to 16. (R165) -/
  | ageCap (g e : Nat)
  /-- An unchecked result returns, is written to the banks unless superseded, and may end a switch-bit wait. (R163) -/
  | resultReturn (g n : Nat)
  /-- After outstanding results return, the group writes the TRAP registers and starts the handler. (R72) -/
  | userTrap (g : Nat)
  /-- Write-backs are acknowledged and drops done; pD is written and held accesses released. (R227) -/
  | retypeComplete (g : Nat)
  /-- A fill from home arrives and installs the line in its L1 state. (R222) -/
  | l1Fill (clus line : Nat) (req : CohReq)
  /-- An invalidation probe reaches a cluster, which drops its copy and acknowledges. (R242) -/
  | invalidation (clus : Nat) (msg : ProbeMsg)
  /-- A recall reaches a TM copy, which is written back or answered as in flight. (R245) -/
  | recall (clus : Nat) (msg : ProbeMsg)
  /-- A write-back of dirty bytes arrives at home and is merged. (R245) -/
  | udWriteBack (msg : LineMsg) (data : BitVec 1024) (mask : BitVec 128) (rel : Option (Nat × Scope))
  /-- An L1 line is evicted, writing back dirty bytes or silently. (R222) -/
  | lineEviction (clus line : Nat)
  /-- A home resends a coherence message unanswered for 20 µs. (R246) -/
  | coherenceResend (n : Nat)
  /-- After 2 ms without a path the lines concerned become POISON. (R246) -/
  | linePoison (line : Nat)
  /-- A CXL pool snoop invalidates one half of a line after recalling copies. (R247) -/
  | backInvalidationSnoop (line half : Nat)
  /-- A write to a region entry is checked, refused with REGIONBAD, or starts a rewrite. (R248) -/
  | regionEntryWrite (idx : Nat) (val mask : BitVec 64)
  /-- Once in-flight requests drain and copies are recalled, the table switches and stalled requests go. (R249) -/
  | regionTableSwitch
  /-- A departed team's granule becomes LENT once its accesses complete. (R218) -/
  | granuleLend (core gran : Nat)
  /-- LENT granules are drained, written back, cleared and marked HELD for a placement. (R219) -/
  | granuleReclaim (core count : Nat)
  /-- An atomic operation packet executes once at the peer's home L2 and returns its result. (R254) -/
  | atomicPacket (src : Nat) (seq : Nat) (op : AtOp) (ty : Ty) (rnd : Rnd) (pa : Nat) (v w : BitVec 64) (rel : Option (Nat × Scope))
  /-- Both die halves' local completions are exchanged and the paddock phase completes. (R266) -/
  | paddockCrossDiePhase (pd b : Nat)
  /-- A command completes, updates its object, flags and batch completion. (R280) -/
  | copyComplete (id : Nat)
  /-- A vote result arrives and is applied, confirming or rolling back run-ahead. (R343) -/
  | voteResult (g slot : Nat)
  /-- A join reaches the fold root and is counted or refused. (R341) -/
  | foldJoinMessage (id key size : Nat)
  /-- The formation message arrives and the slot receives id, rank and size. (R341) -/
  | foldFormed (g slot : Nat)
  /-- A leave reaches the combiner, withdrawing contributions and lowering counts. (R342) -/
  | foldLeave (id key : Nat)
  /-- A contribution reaches a combiner and is counted once, possibly resolving the vote. (R345) -/
  | foldContribution (id : Nat) (vote : BitVec 32) (key : Nat) (p : Bool) (mode : VoteMode)
  /-- Members cut off from the root for 2 ms are left and fault FOLDLOST. (R356) -/
  | foldlost (id : Nat) (keys : List Nat)
  /-- After the last live group's COLL, checks are made and the collective starts. (R364) -/
  | collectiveStart (t : Nat)
  /-- A ring chunk arrives, is combined and forwarded, or waits in a slot or spills to the rick. (R372) -/
  | chunkReceive (fold num chunk src pos : Nat) (final : Bool) (elems : List (BitVec 128)) (counts : List Nat) (fls : List (BitVec 5))
  /-- A tree-mode contribution reaches a node and is combined in fixed order. (R366) -/
  | treeContribution (fold num pos : Nat) (word : BitVec 64) (root : BitVec 32) (count dcount : Nat) (elems : List (BitVec 128))
  /-- A collective completes at a position and arrives on the agent's object. (R369) -/
  | collectiveComplete (fold num pos : Nat)
  /-- A spilled chunk is fetched back from the rick into a freed slot. (R373) -/
  | rickFetch
  /-- A chunk or packet unacknowledged for 50 µs is re-sent. (R374) -/
  | chunkResend (msg : MsgFate)
  /-- Matching HALO data arrives and is written into the receive tile. (R376) -/
  | haloReceive (fold src dst tag num : Nat) (elems : List (BitVec 128))
  /-- A remote-copy packet arrives and is performed at home once. (R375) -/
  | remotePacket (src cmd num pa : Nat) (body : PacketBody)
  /-- 10 ms after a command's last ack its packets are no longer discarded as repeats. (R375) -/
  | repeatWindowExpire (src cmd : Nat)
  /-- A remote copy without a path for 2 ms ends with MCHK. (R375) -/
  | remotePathLost (id : Nat)
  /-- A flit is decoded and accepted in sequence or discarded. (R380) -/
  | flitReceive (port : Nat) (f : Flit)
  /-- A NAK frees acknowledged flits and retransmits from ACKSEQ + 1. (R380) -/
  | nakReceive (port : Nat) (ack : BitVec 12)
  /-- Acknowledgement due after 64 flits or 100 ns. (R380) -/
  | ackTimer (port : Nat)
  /-- A NAK is re-sent every 1 µs while a gap stays open. (R380) -/
  | nakRepeat (port : Nat)
  /-- No ACKSEQ progress for 2 µs retransmits from the oldest flit. (R380) -/
  | replayTimeout (port : Nat)
  /-- A lane failure is detected and retraining begins. (R381) -/
  | laneLossOfLock (port : Nat) (lanes : BitVec 16)
  /-- A RETRAIN control flit stops DATA flits and selects the surviving half. (R381) -/
  | ctrlRetrain (port : Nat) (lanes : BitVec 16) (ack : BitVec 12)
  /-- Training and deskew of the chosen lanes completes. (R381) -/
  | retrainLockComplete (port : Nat) (lanesFound : BitVec 16)
  /-- READY exchanged; replay resumes and the bandwidth event is posted. (R381) -/
  | ctrlReady (port : Nat) (ack : BitVec 12)
  /-- A DOWN control flit takes the link down. (R378) -/
  | ctrlDown (port : Nat)
  /-- A write of RETRAIN starts a requested retrain that may restore full width. (R382) -/
  | portctlRetrain (port : Nat)
  /-- A bin's timer expires and the bin launches. (R397) -/
  | spawnBinTimer (b : Nat)
  /-- A launched bin becomes a one-group team once a spawn record is free. (R398) -/
  | spawnBinLaunch (b : Nat)
  /-- The scheduler places the best waiting unit or requests pre-emption. (R403) -/
  | schedulerPlace
  /-- A resident team's quantum expires and the scheduler acts. (R403) -/
  | quantumExpire (t : Nat)
  /-- Once all lane sets stop at safe points, images are written and save routines run. (R405) -/
  | preemptSave (t : Nat)
  /-- A saved unit is placed, images loaded and restore routines run. (R406) -/
  | teamRestore (u : Nat)
  /-- A finished task writes back, becomes DONE and decrements successors. (R391) -/
  | taskRetire (gr : Nat)
  /-- No covered translation or access remains; the issuing split resumes. (R433) -/
  | tlbinvComplete (g e : Nat)
  /-- A fault record is written to the queue, waiting for room, and the service task is submitted. (R420) -/
  | faultRecordPost
  /-- An uncorrectable or corrected error is charged to its unit and a self-test starts. (R438) -/
  | machineCheck (unit : ErrUnit) (corrected : Bool) (syndrome : BitVec 32)
  /-- A unit's self-test ends; it is kept or retired and logged. (R439) -/
  | selfTestComplete (unit : BitVec 64) (pass : Bool)
  /-- Every 1 ms a checkpoint entry is recorded. (R441) -/
  | recordCheckpoint
  /-- A recorded input is injected at its time tag during replay. (R442) -/
  | replayInject (head : RecordHead) (payload : List (BitVec 8))
  /-- Sensor monitors refresh every 10 µs. (R443) -/
  | sensorRefresh (vals : List (Nat × BitVec 64))
  /-- Every 10 µs the power manager chooses a clock step and pacing. (R451) -/
  | clockStepSelect (stp : ClockStep) (pnow tmax : BitVec 16)
  /-- Power over the limit for 1 ms or 115 °C forces step 5. (R452) -/
  | hedgePowerTrip
  /-- A sensor above 125 °C for 1 ms halts every context and posts 0x46. (R452) -/
  | thermalTrip
  /-- Host command reading bytes at a physical address. (R448) -/
  | rd (c : HostCmd)
  /-- Host command writing bytes at a physical address. (R448) -/
  | wr (c : HostCmd)
  /-- Host command submitting a TCB. (R448) -/
  | submit (c : HostCmd)
  /-- Host command ending a context. (R417) -/
  | ctxend (c : HostCmd)
  /-- Host command returning a signed attestation report. (R453) -/
  | attest (c : HostCmd)
  /-- Host command appending to the firmware staging buffer. (R448) -/
  | fwload (c : HostCmd)
  /-- Host command ending bring-up and setting LOCK. (R454) -/
  | done (c : HostCmd)
  /-- Host command flushing and quiescing the package for power-off. (R456) -/
  | standby (c : HostCmd)
  /-- A host command with an unassigned OP or bad field is answered BADCMD. (R448) -/
  | hostBadCommand (c : HostCmd)
  /-- A write to an I/O register without a row of its own, merged and checked. (R446) -/
  | registerWrite (dest : RegDest) (bytes : List (BitVec 8))
  /-- Writing PKG moves the package's physical window. (R447) -/
  | pkgWrite (n : BitVec 9)
  /-- Writing GO starts zeroing, keeping DDR-5 if KEEPDDR. (R455) -/
  | bootctlGo (val : BitVec 64)
  /-- A PCAP write is clamped to the hedge limit. (R451) -/
  | powerCapWrite (w : BitVec 16)
  /-- A fold-table entry write is checked or refused with FOLDCFG. (R338) -/
  | foldTableWrite (id : Nat) (val mask : BitVec 64)
  /-- A context descriptor write is checked or refused with CTXCFG. (R414) -/
  | contextDescriptorWrite (idx off : Nat) (bytes : List (BitVec 8))
  /-- Power good resets every unit and the ROM verifies firmware. (R454) -/
  | powerGood (fwOk : Bool) (svn : BitVec 8)
  /-- Memory and port training ends and DDRCAP is written. (R454) -/
  | trainingComplete (ddrGib : BitVec 16)
  /-- HBM4 and DDR-5 zeroing and ECC initialisation finish. (R454) -/
  | zeroingComplete
  /-- Core power is removed; only DDR-5 in self-refresh may keep contents. (R456) -/
  | corePowerRemoved
  /-- A request from a cluster reaches the line's home L2 slice and the directory adds a sharer or grants TM, sending invalidations and recalls, or makes the request wait. (R242) -/
  | homeRequest (pkg clus line : Nat) (req : CohReq)
  /-- A refusal of an FJOIN returns from the fold root, and the joining group takes FOLDBAD with SUB 0x05 or 0x06 while its slot stays empty. (R357) -/
  | joinRefused (g slot sub : Nat)
  /-- The detecting receiver re-sends CTRL RETRAIN every 20 ns until it is answered. (R381) -/
  | retrainResend (port : Nat)
  /-- The DIMM supply, or the module's DIMMKEEP input or 48–54 V input, is removed and the DDR-5 contents are lost. (R456) -/
  | dimmSupplyLoss
  /-- A waiting unit that has waited 16 quanta since its ready time takes effective priority 16. (R403) -/
  | effectivePriorityRaise (u : Nat)
deriving DecidableEq, Repr

end Sys2Proof
end

