-- ==== Sys2Proof/Machine/State.lean ====
section
/-! DEFINITION. The machine's state as plain data: one package with its groups, teams, grids and memory system, and
the physical memory of the pod (INVENTORY.md, State).  Names follow the manual. -/

namespace Sys2Proof.Machine
open Sys2Proof

/-! ## Groups (R112, R137, R138, R393) -/

/-- STATE of a lane set (R138). -/
inductive SetSt where
  | empty | ready | join | bar | fault | defer
deriving DecidableEq, Repr

/-- The team barrier at which a group stands stalled: in a wait, or in an arrival of a phase that has its arrival (R258). -/
inductive Blk where
  | wait (b : Nat)
  | arrive (b : Nat)
deriving DecidableEq, Repr

/-- A lane set (R137, R138), with what the issue logic adds: the age (R165), the issue numbers of the unchecked
results it waits for (R162), and whether it stalls inside an instruction that is not complete. -/
structure LaneSet where
  lanes : Word := 0
  rj : Word := 0
  st : SetSt := .empty
  pc : DWord := 0
  age : Nat := 0
  waits : List Nat := []
  stalled : Bool := false
  /-- a compaction candidate since its CPT branch, at this cycle count (R151). -/
  cand : Option Nat := none
  /-- threads of a stalled SPAWN that have entered already (R398), and the like: lanes already served. -/
  served : Word := 0
  /-- what the split found when it last stalled at a team barrier. -/
  blocked : Option Blk := none
  /-- it waits, for the results in `waits`, to complete an access of FPFLAGS or an XREL (R110, R116, R162): the flags of all
  instructions before it, so far. -/
  fsnap : Option Word := none
  /-- it waits for room in the undo log of its core since this step (R346). -/
  asks : Option Nat := none
deriving DecidableEq, Repr

/-- The registers of a group (R112, R359, R88, R108, R411), with the issue number of the last write to each that is in
the banks (R163). -/
structure Regs where
  v : Vector VReg 128
  s : Vector Word 64
  p : Vector QWord 16
  m : Vector Word 8
  lc : Vector Word 3
  f : Vector Word 8
  t : Vector QWord 8
  fpflags : Word
  status : Word
  vNo : Vector Nat 128
  sNo : Vector Nat 64
  pNo : Vector Nat 16
  mNo : Vector Nat 8
deriving DecidableEq, Repr

/-- A write of a register result: the lanes and the bits of each lane it changes (R81, R123). -/
inductive RegW where
  | v (r : Nat) (val : VReg) (lanes : Word) (bm : Word)
  | s (r : Nat) (val : Word) (bm : Word)
  | p (r : Nat) (val : QWord)
  | m (r : Nat) (val : Word) (bm : Word)
deriving DecidableEq, Repr

/-- A result on its way (R161): its issue number, whether it is transient, its writes, and its flags (R108). -/
structure Pend where
  n : Nat
  t : Bool
  ws : List RegW
  /-- the flags of its elements (R108, R111). -/
  fls : List (BitVec 5)
  /-- the value is there and may return; a DONATE waits for its phase first (R117). -/
  ready : Bool := true
  /-- another home group of a dissolved fresh group counts its exceptions (R111, R152). -/
  twin : Bool := false
deriving DecidableEq, Repr

/-- A forwarding-window entry (R121): issue number and the whole register value. -/
structure Win where
  n : Nat
  w : RegW
deriving DecidableEq, Repr

/-- A loop record (R156). -/
structure LoopRec where
  n : Nat
  start : DWord
  stop : DWord
deriving DecidableEq, Repr

/-- The TRAP registers (R73, R74). -/
structure TrapRegs where
  pc : DWord
  cause : Word
  opc : DWord
  a : Vector QWord 32
  b : Vector QWord 32
  c : Vector QWord 32
  dst : Word
  imm : DWord
deriving DecidableEq, Repr

/-- A CBR or FJOIN that a group stands at: its split, address and size, the target of a CBR, its switch bit, and the direction that a CBR
without room in the undo log will run ahead in (R343, R346). -/
structure CbrAt where
  entry : Nat
  pc : DWord
  size : Nat
  target : DWord
  y : Bool
  dir : Bool := false
deriving DecidableEq, Repr

/-- A fold slot (R337): FOLDID, FOLDRANK, FOLDSIZE, VNUM, PEND, PRE, LASTT, LASTN, and a result not yet read. -/
structure FoldSlot where
  id : Word := 0
  rank : Word := 0
  size : Word := 0
  vnum : Word := 0
  pend : Bool := false
  pre : Bool := false
  lastT : BitVec 24 := 0
  lastN : BitVec 24 := 0
  /-- FJOIN issued, the formation not yet complete, and the id it joins (R341). -/
  joining : Option Nat := none
  /-- the key under which the group joined (R341). -/
  key : Nat := 0
  /-- COLLs issued on the fold (R364), and HALOs by peer and tag (R376). -/
  colls : Nat := 0
  halos : List (Nat × Nat × Nat) := []
  /-- where the group waits: at an FJOIN for the formation, or at a CBR for the result of the vote. -/
  wait : Option CbrAt := none
  /-- cut off from the root: FOLDLOST is due at the next class 9 instruction on the slot (R356). -/
  lost : Option (Nat × Word) := none
deriving DecidableEq, Repr

/-- Where a byte lies: at an offset of a team's scratchpad, or at a physical address (R213, R214). -/
inductive Place where
  | pad (team off : Nat)
  | mem (pa : Nat)
deriving DecidableEq, Repr

/-- One element write: its place, the nibble of the byte for a format of at most 4 bits, its bytes and its code (R82). -/
structure EWrite where
  place : Place
  nib : Option Bool
  bytes : Nat
  val : Nat
deriving DecidableEq, Repr

/-- A held store (R348): the issue number of its instruction, the element write, and the class and scope of its pointer. -/
structure HeldStore where
  n : Nat
  w : EWrite
  cls : Share
  sc : Scope
deriving DecidableEq, Repr

/-- What run-ahead restores on rollback, and what it has counted (R346-R350). -/
structure RunAhead where
  slot : Nat
  cbr : CbrAt
  predicted : Bool
  /-- the CBR's issue number: results of older instructions are not discarded. -/
  startNo : Nat
  regs : Regs
  sets : Vector LaneSet 4
  stack : List LaneSet
  loops : List LoopRec
  stores : List HeldStore
  /-- instructions issued since the CBR (R347). -/
  issued : Nat
  /-- exceptions counted since the CBR, not yet confirmed (R111). -/
  exc : List (BitVec 5)
  /-- the store instructions held (R346). -/
  held : Nat := 0
  /-- the registers that have an undo record, by kind and number (R346). -/
  logged : List (Nat × Nat) := []
  /-- the group stalls at an instruction that R347 holds back, or that would trap or fault (R77, R217), until the result comes. -/
  halted : Bool := false
deriving DecidableEq, Repr

/-- A pending user trap that waits for the outstanding results of its group (R72). -/
structure TrapReq where
  entry : Nat
  cause : Nat
  sub : Nat
  word : DWord
  lit : DWord
  pc : DWord
  waits : List Nat
  /-- INFO of a fault of S-mode without a faulting instruction (R421); none for a trap of an instruction. -/
  info : Option DWord
  /-- the team whose sequencer resumes at TRET (R421). -/
  seqTeam : Option Nat
deriving DecidableEq, Repr

/-- The user handler (R72): the lanes of the trapping split that have not returned, the address at which a plain TRET resumes, and
whether the trap is of S-mode without a faulting instruction (R421). -/
structure Handler where
  lanes : Word
  ret : DWord
  interrupted : Bool
  seqTeam : Option Nat
deriving DecidableEq, Repr

/-- What a lane record holds of each lane (R419). -/
structure LaneInfo where
  lane : Nat
  elem : DWord
  va : DWord
deriving DecidableEq, Repr

/-- Scope of a fault record (R418, R419). -/
inductive RecScope where
  | lanes | group | team | seq | cmd | grid
deriving DecidableEq, Repr

/-- A fault record before and after it is posted (R419, R460): where it arose and what it says. -/
structure FaultRec where
  code : Nat
  sub : Nat
  scope : RecScope
  ctx : Nat
  team : Nat
  group : Nat
  gidx : Nat
  lanes : Word
  pc : DWord
  va : DWord
  tcb : DWord
  info : DWord
  core : Word
  flags : BitVec 8
  extra : List Byte
  info32 : List LaneInfo
  /-- the command, grid or other unit concerned. -/
  unit : Nat
deriving DecidableEq, Repr

/-- An open record in the fault queue: its index, whether FWAIT has claimed it, whether it is closed (R420, R426). -/
structure OpenRec where
  idx : Nat
  claimed : Bool
  closed : Bool
  fr : FaultRec
deriving DecidableEq, Repr

/-- Kinds of asynchronous command (R270, R375). -/
inductive CmdKind where
  | cpy | cpy2d | cfill | cgth | ncopy | accld | accst | putr | getr | halo
deriving DecidableEq, Repr

/-- The elements that a command moves, as its form gives them (R274, R282). -/
inductive CmdTab where
  /-- e and e, for e below n. -/
  | lin (n : Nat)
  /-- i·ss + j and i·ds + j, for i below rows and j below len. -/
  | grid (len rows ss ds : Nat)
  /-- the source element of each lane that takes part, and the lane; none for an absent index. -/
  | gather (ps : List (Option Int × Nat))
  /-- rows × cols entries of the accumulator store from (row0, col0). -/
  | acc (row col rows cols : Nat)
deriving DecidableEq, Repr

/-- What a HALO command has beside (R376): the fold, its own rank and the peer's, the tag, which of the HALOs with that peer and
tag it is, the tiles, whether its elements have left and are at the peer, and whether its own receive is done. -/
structure HaloPart where
  fold : Nat
  me : Nat
  peer : Nat
  tag : Nat
  num : Nat
  rtile : QWord
  stile : QWord
  sent : Bool
  /-- the peer has written what was sent. -/
  written : Bool
  received : Bool
deriving DecidableEq, Repr

/-- An asynchronous command (R270-R279, R375, R376): what its word and registers gave at issue. -/
structure Cmd where
  id : Nat
  group : Nat
  team : Nat
  kind : CmdKind
  minor : Nat
  /-- the batch it was closed into, and its number. -/
  batch : Option Word
  dst : QWord
  src : QWord
  ty : Ty
  /-- the value of CFILL. -/
  val : DWord
  tab : CmdTab
  /-- the barrier object: space and offset (R265). -/
  obj : Option (Space × Nat)
  /-- the narrow formats at issue (R92). -/
  fs : Vector Word 8
  halo : Option HaloPart
  /-- the matrix sequencer's arrivals that came before its issue (R283), and its group's issue number then (R262). -/
  know : Nat
  issue : Nat
  /-- pairs of its table carried out, and where it has written so far (R278, R280). -/
  pos : Nat
  wrote : List Place
  /-- waits on a fault record (R278). -/
  held : Bool
  /-- complete; kept until its batch is. -/
  done : Bool
  /-- the flags of its conversions (R275). -/
  fls : List (BitVec 5)
  /-- the number of a remote copy whose packets have left for other packages, and the places of those among all messages (R375). -/
  sentAt : Option (Nat × List Nat) := none
  /-- the packets that a GETR has got back: number, first address, bytes (R375). -/
  back : List (Nat × Nat × List Byte) := []
deriving DecidableEq, Repr

/-- The copy side of a group: batches and completion (R276, R277). -/
structure Batches where
  closed : Word := 0
  done : Word := 0
  csw : Word := 0
deriving DecidableEq, Repr

/-- Retyping in progress (R227): the destination register and pointer it will hold. -/
structure Retype where
  pd : Nat
  q : QWord
  lines : List Nat
  drop : Bool
  n : Nat
deriving DecidableEq, Repr

/-- A TLBINV under way (R433): the split that waits, and what is dropped; no address for a whole context. -/
structure InvReq where
  entry : Nat
  pc : DWord
  size : Nat
  y : Bool
  kind : Nat
  scope : Nat
  base : Nat
  bytes : Nat
deriving DecidableEq, Repr

/-- A group (R19, R112, R137). -/
structure Group where
  team : Nat
  gidx : Nat
  slot : Nat
  quarter : Nat
  role : Nat
  consumer : Bool
  slim : Nat
  vlim : Nat
  evlim : Nat
  /-- block held, waiting in XACQ (R113, R115). -/
  ext : Bool
  xwait : Bool
  live : Word
  present : Word
  ended : Bool
  regs : Regs
  sets : Vector LaneSet 4
  stack : List LaneSet
  loops : List LoopRec
  issueNo : Nat
  win : List Win
  out : List Pend
  trap : TrapRegs
  handler : Option Handler
  trapReq : Option TrapReq
  /-- held by a group-scope fault (R420). -/
  held : Bool
  folds : Vector FoldSlot 4
  ra : Option RunAhead
  batches : Batches
  retype : Option Retype
  invs : List InvReq
  /-- fresh groups (R150-R152): the home group of each physical lane's thread; empty in an original group. -/
  homes : List (Nat × Nat)
  /-- the host of a fresh group (R152, R337). -/
  host : Nat
  /-- lanes lent to fresh groups. -/
  lent : Word
  /-- save or restore routines still to run, by address, and whether one runs now (R405, R406). -/
  routines : List DWord
  inRoutine : Bool
  /-- what the lane sets of a saved group had done of the barrier instructions and CBRs in which they stood, by address (R268). -/
  resume : List (Nat × Word)
  /-- the divergence stack as its records stand in the context area (R137, R408). -/
  dstack : List Nat
deriving DecidableEq, Repr

/-! ## Teams, grids, paddocks (R257, R286, R290, R314, R388-R406) -/

/-- What has come before a party of a team through its barriers (R262): for each party, the number below which that party's events are
known.  A group counts its events by issue number, the matrix sequencer, party 32, by the arrivals it has made. -/
abbrev Clock := List (Nat × Nat)

/-- A team barrier (R257). ARRP and WPH by group index; the last WPH is the sequencer's (R303). -/
structure Bar where
  memb : Word
  extra : BitVec 5
  arrv : Nat
  ph : Word
  arrp : Vector (Option Word) 32
  wph : Vector Word 33
  /-- what the arrivals of the current phase have brought, and those of each complete phase (R262). -/
  gather : Clock
  past : List (Word × Clock)
deriving DecidableEq, Repr

/-- A pending donation (R117). -/
structure Donation where
  bar : Nat
  phase : Word
  donor : Nat
  recipient : Word
  dst : Nat
  n : Nat
deriving DecidableEq, Repr

/-- State of the matrix sequencer (R286, R309). -/
inductive SeqSt where
  | run | wait | ended | fault
deriving DecidableEq, Repr

/-- Registers that a matrix word has read of a consumer group (R305): the group's index, the registers, the issue number of its arrival before
the word, the sequencer's arrivals before the read, and the blocks of the word's tile. -/
structure MxRead where
  gidx : Nat
  regs : List (Nat × Nat)
  since : Nat
  stamp : Nat
  blocks : List Nat
deriving DecidableEq, Repr

/-- Where the values that an accumulator form has read stand (R283): nowhere; in `regs` registers from `r` on of group `g`, by its instruction
`n`, lane L from row `row` + L; or at places, each with its entry by row·64 + column, written under a class and a scope. -/
inductive AccInto where
  | none
  | regs (g n r regs row : Nat)
  | elems (cls : Share) (sc : Scope) (ws : List (Nat × EWrite))
deriving DecidableEq, Repr

/-- Entries that an accumulator form of a group has touched (R283): rows, first column and columns; the group's issue number at that moment,
for a command only once a CWAIT has found its batch complete. -/
structure AccUse where
  gidx : Nat
  stamp : Option Nat
  batch : Option Word
  rows : List Nat
  col : Nat
  cols : Nat
  into : AccInto
deriving DecidableEq, Repr

/-- What orders the parties of a team among themselves (R262, R283, R305, R306). -/
structure Order where
  clocks : List (Nat × Clock) := []
  /-- arrivals that the matrix sequencer has made. -/
  arrivals : Nat := 0
  /-- the blocks of 16 × 16 entries that matrix words have touched: before which arrival the last touch is over, none while it is not. -/
  blocks : List (Nat × Option Nat) := []
  uses : List AccUse := []
  /-- images of drains that are not in the scratchpad yet, oldest first: offset, bytes, value (R303, R306). -/
  images : List (Nat × Nat × Nat) := []
  reads : List MxRead := []
  /-- of a saved team: the issue numbers of the last register writes of each group, by index, which its routines leave as they were. -/
  lastNos : List (Nat × Vector Nat 128) := []
deriving DecidableEq, Repr

/-- A matrix sequencer with its accumulator store (R286, R290). -/
structure Seq where
  pc : DWord
  st : SeqSt
  wdone : Bool
  waitOn : Nat
  cause : Nat
  q : Vector Word 16
  /-- entries that differ from their reset value, by row·64 + column. -/
  acc : List (Nat × DWord)
deriving DecidableEq, Repr

/-- A role entry of a kernel header (R69). -/
structure Role where
  first : Nat
  count : Nat
  consumer : Bool
  vlim : Nat
  slim : Nat
  xauto : Bool
deriving DecidableEq, Repr

/-- A kernel header that passed R71. -/
structure Header where
  va : DWord
  entry : DWord
  traph : DWord
  matrix : Bool
  mxentry : DWord
  sptab : DWord
  spcount : Nat
  groups : Nat
  scratch : Nat
  const : DWord
  roles : List Role
deriving DecidableEq, Repr

/-- Where a team stands (R400-R406). -/
inductive TeamSt where
  | queued | resident | saving | saved | restoring | ended
deriving DecidableEq, Repr

/-- The value of an element on its way through a combination (R366, R368): its code, none while Empty, the present contributions in it,
and the flags of its combinations. -/
structure RedEl where
  v : Option Nat
  n : Nat
  fl : BitVec 5
deriving DecidableEq, Repr

/-- A final chunk that has reached a position (R372): chunk number, source position, elements. -/
structure GotChunk where
  chunk : Nat
  src : Nat
  els : List RedEl
deriving DecidableEq, Repr

/-- A collective of a team since its start (R364-R371); a completed one is kept while its fold exists. -/
structure Coll where
  id : Nat
  fold : Nat
  num : Nat
  word : DWord
  agent : Nat
  /-- the keys of the participants in ascending rank, and the position of this team's agent. -/
  participants : List Nat
  /-- their ranks (R365). -/
  ranks : List Nat
  pos : Nat
  src : QWord
  stile : QWord
  dst : QWord
  dtile : QWord
  cptr : QWord
  ctile : QWord
  root : Word
  obj : Nat
  /-- the agent's narrow formats, which no tile's type names. -/
  fs : Vector Word 8
  /-- the team's own part is under way: its elements are read, in tree mode all of them. -/
  loaded : Bool
  elems : List Nat
  /-- the flags of the elements written so far (R368). -/
  fls : List (BitVec 5)
  /-- final chunks that have arrived, and every chunk accepted: number, source, final (R374). -/
  got : List GotChunk
  seen : List (Nat × Nat × Bool)
  /-- it waits on a fault record; it fails with this code; it is over. -/
  held : Bool
  fail : Option Nat
  done : Bool
deriving DecidableEq, Repr

/-- A team (R19, R20, R257, R314, R393). -/
structure Team where
  grid : Nat
  tid : Nat
  core : Nat
  st : TeamSt
  hdr : Header
  user : Bool
  ctx : Nat
  prio : Nat
  prio0 : Nat
  at16 : Bool
  paddock : Option Nat
  spawnRec : Option Nat
  bars : Vector Bar 16
  don : List Donation
  xq : List Nat
  /-- extended blocks of the reservation that are free. -/
  xfree : Nat
  xt : Vector (Vector (BitVec 8) 128) 4
  scratch : List Host.Cell
  seq : Option Seq
  qexp : Bool
  preq : Bool
  tstop : Bool
  mchk : Bool
  /-- COLL words issued and not yet started: group, word, address (R364). -/
  collWords : List (Nat × DWord × DWord)
  colls : List Coll
  collDone : Word
  collStat : Word
  /-- the payloads of a spawned team's threads (R398). -/
  threads : List DWord
  /-- an access of its placement, save or restore waits on a record (R412, R461). -/
  held : Bool
  /-- when its unit became ready, whether it has waited 16 quanta, and when it was placed, in ns (R400, R403). -/
  ready : Nat
  raised : Bool
  placedAt : Nat
  /-- when its quantum began, in ns; under TSTOP for how long it has run (R403, R427). -/
  qstart : Nat
  /-- in a restore: its images have been read (R406). -/
  imaged : Bool
  /-- from its save to its restore: what its team image said when it was written, and whether it runs at S otherwise (R405, R406). -/
  record : List Nat := []
  wasS : Bool := false
  /-- what its barriers have ordered (R262). -/
  order : Order
deriving DecidableEq, Repr

/-- STATE of a TCB (R389). -/
inductive TcbSt where
  | idle | wait | ready | run | done | fail
deriving DecidableEq, Repr

/-- Where a task stands: submitted with predecessors, its release under way, its teams queued or running, its successors being told, over. -/
inductive GridSt where
  | wait | release | active | retiring | over
deriving DecidableEq, Repr

/-- A grid: a released task as the release read it (R388, R390). -/
structure Grid where
  tcb : DWord
  ctx : Nat
  user : Bool
  hdr : Header
  gx : Nat
  gy : Nat
  gz : Nat
  prio : Nat
  padt : Nat
  padx : Bool
  pin : Option Nat
  clmask : Word
  paramw : Nat
  param : DWord
  pt : Bool
  ev : Bool
  nspawn : Nat
  succs : List DWord
  ovf : DWord
  novf : Nat
  ctxa : DWord
  count : Nat
  phase : GridSt
  /-- why the task ends in FAIL; 0 while it need not (R392). -/
  cause : Nat
  /-- the highest priority that the submission allows it (R395). -/
  cap : Nat
  /-- the clusters where a team of the grid has run (R391). -/
  clusters : List Nat
  /-- the service task of its context (R420). -/
  service : Bool
  /-- a read of the release or the retirement waits on a record (R461). -/
  held : Bool
  /-- the words of its TCB, once the release has read them (R390). -/
  tcbWords : List Nat
deriving DecidableEq, Repr

/-- A paddock and its barriers (R266). -/
structure PBar where
  ph : Word := 0
  local0 : Bool := false
  local1 : Bool := false
  /-- the phase of each group's last arrival, and the phases it has waited past, by group. -/
  arrp : List (Nat × Word) := []
  wph : List (Nat × Word) := []
deriving DecidableEq, Repr

/-- What parties meet at: barrier `b` of a team, of a paddock, or the barrier object at an offset of a team's scratchpad. -/
inductive Meeting where
  | bar (t b : Nat)
  | pad (p b : Nat)
  | obj (u off : Nat)
deriving DecidableEq, Repr

/-- A SYN store or atomic whose bytes stand yet, its release record, and what its party knew (R231, R237). -/
structure HbRel where
  place : Place
  bytes : Nat
  rel : Option (Nat × Scope)
  clock : Clock
deriving DecidableEq, Repr

/-- Happens-before among groups and matrix sequencers (R231, R262, R305).  A clock gives, for each party, the number below which its arrivals
are known; group `g` is party 2g, the sequencer of team `t` party 2t + 1. -/
structure Hb where
  clocks : List (Nat × Clock) := []
  /-- what the arrivals of the current phase have brought, and those of each complete phase. -/
  gathers : List (Meeting × Clock) := []
  pasts : List (Meeting × Nat × Clock) := []
  rels : List HbRel := []
deriving DecidableEq, Repr

structure Paddock where
  grid : Nat
  teams : List Nat
  clus0 : Nat
  clus1 : Option Nat
  bars : Vector PBar 4
deriving DecidableEq, Repr

/-- A spawn bin (R397). -/
structure Bin where
  grid : Nat
  khdr : DWord
  threads : List DWord
  opened : Nat
  launched : Bool
  /-- when its first thread entered, in ns. -/
  since : Nat
deriving DecidableEq, Repr

/-! ## Memory (R24-R26, R222, R241, R248, R433) -/

/-- State of a line in an L1 slice (R222). -/
inductive LineSt where
  | uc | ud | ts | tm
deriving DecidableEq, Repr

/-- A line held by the L1 of a cluster: its data, dirty bytes, and release record (R222, R237). -/
structure Line where
  clus : Nat
  line : Nat
  st : LineSt
  data : LineData
  dirty : BitVec 128
  /-- the release record (R237): CORELOC[16:0] and scope of the last SYN store or atomic. -/
  rel : Option (Nat × Scope)
deriving DecidableEq, Repr

/-- STATE of a directory entry (R241). -/
inductive DirSt where
  | inv | shr | own | poison
deriving DecidableEq, Repr

/-- A directory entry (R241), with its line. -/
structure Dir where
  line : Nat
  st : DirSt := .inv
  mode : BitVec 2 := 0
  /-- the release record at home: none is RSCOPE 7. -/
  rel : Option (Nat × Scope) := none
  sharers : BitVec 96 := 0
deriving DecidableEq, Repr

/-- State of a CXL half line (R247). -/
inductive CxlSt where
  | i | s | e | m
deriving DecidableEq, Repr

/-- A cached translation (R432): context, page, level, leaf. -/
structure Tlb where
  core : Nat
  ctx : Nat
  base : Nat
  size : Nat
  leaf : DWord
  ea : Nat
deriving DecidableEq, Repr

/-- A request of a cluster at the home of a line: its sequence number and kind (R222, R244). -/
structure HomeReq where
  pkg : Nat
  clus : Nat
  line : Nat
  seq : Nat
  kind : ReqKind
deriving DecidableEq, Repr

/-- Bytes written back to a line that a cluster of another package owns: they are applied over the owner's (R245). -/
structure DirtyBytes where
  line : Nat
  data : LineData
  mask : BitVec 128
  rel : Option (Nat × Scope)
deriving DecidableEq, Repr

/-- What the clusters and homes of this package have to tell those of others, before it is made a message: a request or a write-back of a
cluster, the probes of a directory entry, the recall of an owned line (R242, R379). -/
inductive HomeMsg where
  | request (clus line : Nat) (kind : ReqKind)
  | writeBack (d : DirtyBytes) (clus : Nat)
  | probe (d : Dir)
  | recall (line : Nat)
deriving DecidableEq, Repr

/-- The memory system. -/
structure MemSys where
  /-- the pod's physical memory, byte by byte; an unlisted byte reads 0 (log 3). -/
  cells : List Host.Cell
  lines : List Line
  dir : List Dir
  cxl : List (Nat × CxlSt)
  /-- the bytes of each half line that the pool does not have yet (R247). -/
  cxlDirty : List (Nat × BitVec 64)
  tlb : List Tlb
  /-- the region table and a rewrite in progress (R248, R249). -/
  regions : Vector DWord 16
  rewriting : Bool
  pendingRegions : List (Nat × DWord)
  /-- granules not LENT by core: HELD count, RECLAIM count (R218). -/
  gran : List (Nat × Nat × Nat)
  /-- code words captured by loop buffers: quarter key, context, address, word (R159). -/
  lbuf : List (Nat × Nat × Nat × DWord)
  /-- requests of clusters that wait at a home (R242, R249). -/
  waiting : List HomeReq
  /-- lines whose owner in another package has been sent a recall, and snoops of the CXL pool that wait for one, by half line (R242, R247). -/
  recalls : List Nat
  snoops : List Nat
  /-- the partition of each physical page that a translation has named: base, size, PART (R243, R415). -/
  pageParts : List (Nat × Nat × Nat)
  /-- lines that DDR-5 and the CXL pool have returned and that are not recorded yet (R441). -/
  fetched : List Nat
  /-- written bytes that wait for the copy of an owner in another package, oldest first (R245). -/
  deferred : List DirtyBytes
  /-- messages between clusters and homes of different packages, not sent yet (R242, R379). -/
  outbox : List HomeMsg
deriving DecidableEq, Repr

/-- A self-test under way (R439): the unit's id, its class (as `Config.unitOf` numbers them) and place, and the line whose error it
reported. -/
structure UnitTest where
  id : DWord
  cls : Nat
  place : Nat
  line : Option Nat
deriving DecidableEq, Repr

/-- The line falls in a cache or directory set under test. -/
def UnitTest.holds (t : UnitTest) (ln : Nat) : Bool := t.cls == 1 && (t.line == some ln || Config.inSet t.place ln)

/-! ## The package (R14, R338, R377-R383, R397, R414, R415, R440-R456) -/

/-- A context descriptor (R414), its 128 bytes, and what the hardware keeps with it: HALT and the fault queue (R420). -/
structure Ctx where
  cfg : DWord
  root : DWord
  fqbase : DWord
  fqsize : Word
  fqpos : Word
  svctcb : DWord
  quantum : Word
  spawnt : Word
  /-- records in the queue, oldest first, up to the head. -/
  opened : List OpenRec
  /-- the exception counters IV DZ OF UF NX (R443). -/
  exc : Vector DWord 5
deriving DecidableEq, Repr

/-- A Sward port (R377-R383). -/
structure Port where
  /-- flits that have not been sent, those sent and not acknowledged. -/
  queue : List Flit
  width : BitVec 2
  lfail : BitVec 16
  train : Bool
  /-- RPL: replays begun since bring-up, saturating. -/
  rplCount : BitVec 12
  /-- the retrain was requested through PORTCTL (R382). -/
  requested : Bool
  sendSeq : BitVec 12
  replay : List Flit
  expected : BitVec 12
  gap : Bool
  /-- by virtual channel: the credits to send, and those that the other end has not been given back (R379). -/
  credits : Vector Nat 8
  owed : Vector Nat 8
  /-- READY of the other end has come before this end's own (R381). -/
  peerReady : Bool
  step : Nat
  out : List Flit
  naks : Nat
  tries : Nat
  mask : BitVec 16
  acked : BitVec 12
  due : Bool
deriving DecidableEq, Repr

/-- Where the contributions of a fold meet (R345): in a core, in the FED of this package, or in the switch that joins the members' packages. -/
inductive FoldRoot where
  | core (n : Nat)
  | fed
  | pod
deriving DecidableEq, Repr

/-- A formation or a running fold in the fold unit (R341-R345): members by key, in rank order once formed. -/
structure Fold where
  id : Nat
  size : Nat
  /-- keys of the members, ascending once formed: the position is the rank. -/
  members : List Nat
  left : List Nat
  formed : Bool
  /-- the next vote to resolve, and its contributions so far: member key, predicate, mode. -/
  next : Word
  contribs : List (Nat × Bool × VoteMode)
  /-- chosen at formation. -/
  root : Option FoldRoot := none
deriving DecidableEq, Repr

/-- The result of a vote (R344). -/
structure VoteRes where
  fold : Nat
  vote : Word
  taken : Bool
  t : Nat
  n : Nat
  deg : Bool
  mix : Bool
deriving DecidableEq, Repr

/-- A message between the units of the package or to its peers (R341-R345, R366-R376). -/
inductive Msg where
  | join (id key size : Nat)
  | leave (id key : Nat)
  | contribution (id : Nat) (vote : Word) (key : Nat) (p : Bool) (mode : VoteMode)
  | formed (g slot rank size : Nat)
  | refused (g slot sub : Nat)
  | result (g slot : Nat) (r : VoteRes)
  | remoteFormed (key id rank size : Nat)
  | remoteRefused (key id sub : Nat)
  | remoteResult (key id : Nat) (r : VoteRes)
  /-- what this package's FED has combined of a vote, for the switch that is the root: member key, predicate, mode (R345). -/
  | combined (id : Nat) (vote : Word) (votes : List (Nat × Bool × VoteMode))
  /-- a contribution, or without a vote a leave, has been received, or was received before (R345). -/
  | foldAck (id : Nat) (vote : Option Word) (key : Nat)
  | chunk (fold num chunk src pos : Nat) (final : Bool) (elems : List QWord) (counts : List Nat) (fls : List (BitVec 5))
  /-- a participant has failed (R371). -/
  | collFail (fold num pos : Nat)
  | tree (fold num pos : Nat) (word : DWord) (root : Word) (count dcount : Nat) (elems : List QWord)
  | halo (fold src dst tag num : Nat) (elems : List (BitVec 128))
  | remote (dst src cmd num pa : Nat) (bytes : List Byte)
  | remoteAck (dst cmd num : Nat)
  /-- a packet meets a poisoned line that it does not cover: the command's machine check (R375, R438). -/
  | remoteBad (dst src cmd num pa : Nat)
  /-- a chunk, a contribution or data of a HALO have been accepted, or were accepted before (R374). -/
  | ack (dst : Nat) (key : List Nat)
  /-- a GETR asks for `count` bytes (R375). -/
  | remoteGet (dst src cmd num pa count : Nat)
  | atomicResult (dst seq : Nat) (old : DWord) (fl : BitVec 5) (rel : Option (Nat × Scope))
  | fill (pkg clus line seq : Nat) (kind : ReqKind) (data : LineData) (rel : Option (Nat × Scope))
  /-- invalidations and recalls for the copies of other packages: the directory entry's mode and its masked sharers. -/
  | probe (line seq : Nat) (mode : BitVec 2) (sharers : BitVec 96)
  /-- a request of a cluster of this package to another's home, and a write-back to it (R242, R379). -/
  | request (clus line : Nat) (req : CohReq)
  | writeBack (clus line seq : Nat) (data : LineData) (mask : BitVec 128) (rel : Option (Nat × Scope))
  /-- an invalidation or recall is acknowledged; one that meets no copy is acknowledged at once (R242, R245). -/
  | probeAck (clus line seq : Nat)
  /-- an atomic on a line of another package (R254). -/
  | atomic (dst seq : Nat) (op : AtOp) (ty : Ty) (rnd : Rnd) (pa : Nat) (v w : DWord) (rel : Option (Nat × Scope))
  /-- management traffic of the firmware to a peer's I/O space (R379, R452). -/
  | manage (dst pa : Nat) (bytes : List Byte)
  /-- a store to a peer's I/O space (R379). -/
  | store (dst pa : Nat) (bytes : List Byte)
  /-- a half line goes back to the pool: its bytes, and which of them are dirty. -/
  | snoopResp (line half : Nat) (data : BitVec 512) (enables : BitVec 64)
deriving DecidableEq, Repr

/-- What a participant has told of its part in a collective (R365, R366): its position, word and root, the elements of its source and
destination, and in tree mode the source itself. -/
structure Contrib where
  fold : Nat
  num : Nat
  pos : Nat
  word : DWord
  root : Word
  count : Nat
  dcount : Nat
  elems : List QWord
deriving DecidableEq, Repr

/-- An atomic packet that was executed, by source and number: the old value, its flags and the release record it found (R254). -/
structure AtomDone where
  src : Nat
  seq : Nat
  old : DWord
  fl : BitVec 5
  rel : Option (Nat × Scope)
deriving DecidableEq, Repr

/-- The kinds of coherence message that are received: a request or write-back at a home; a fill, an invalidation or recall at a cluster. -/
inductive CohSort where
  | request | fill | probe
deriving DecidableEq, Repr

/-- A coherence message received, by sender, cluster, sequence number and kind, with the answer that a repeat gets again (R246). -/
structure CohSeen where
  pkg : Nat
  clus : Nat
  seq : Nat
  sort : CohSort
  answer : Option Msg
deriving DecidableEq, Repr

/-- Bring-up (R454): which step has been reached. -/
inductive BootSt where
  | off | rom | training | trained | zeroing | ready | running | standby
deriving DecidableEq, Repr

/-- The package's registers and units. -/
structure Pkg where
  num : BitVec 9
  boot : BootSt
  ddrcap : BitVec 16
  recArm : Bool
  lock : Bool
  svn : BitVec 8
  /-- Package registers by I/O offset that differ from zero (R446). -/
  regs : List (Nat × DWord)
  ctxs : List (Nat × Ctx)
  parts : Vector QWord 16
  foldTab : List (Nat × DWord)
  folds : List Fold
  ports : Vector Port 12
  /-- the 64 spawn bins (R397). -/
  bins : List (Option Bin)
  seqno : Word
  events : List DWord
  /-- responses to the control node, 16 bytes each (R448), attestation reports (R453), and a DONE that waits for the zeroing (R454). -/
  hostOut : List QWord
  reports : List (List (BitVec 8))
  doneWait : Option (BitVec 16)
  /-- commands that wait: for another with their TAG, or for a line to come home (R242, R448); with each, whether it came before the end of
  bring-up (R454). -/
  hostWait : List (HostCmd × Bool)
  /-- the firmware staging buffer, and the body of the firmware that runs (R453). -/
  fw : List (BitVec 8)
  body : List (BitVec 8)
  fused : BitVec 8
  elog : List (Nat × BitVec 256)
  elogPos : Nat
  recording : Bool
  recOvr : Bool
  recs : List (BitVec 128 × List (BitVec 8))
  recStart : Nat
  timens : Nat
  cycles : Nat
  sensors : List (Nat × DWord)
  retired : List Nat
  noEngine : List Nat
  tests : List UnitTest
  /-- the places of the cache and directory sets that have lost a way (R439). -/
  badWays : List Nat
  /-- command numbers of remote copies by source core, with the time of their use in ns (R375). -/
  cmdNums : List (Nat × Nat × Nat)
  /-- messages of `out` by position: those given to a port, how many, and those acknowledged end to end (R374, R380). -/
  posted : Nat
  ackedOut : List Nat
  /-- remote commands answered within their repeat windows (R375). -/
  window : List (Nat × Nat × Nat)
  /-- chunks and HALO data that wait: in the slots by number, and spilled to the rick (R373). -/
  rick : List Msg
  slots : List (Nat × Msg)
  /-- the 15 reservations of the reserved pool: fold and collective; folds that wait for one (R373). -/
  resv : List (Option (Nat × Nat))
  resvWait : List (Nat × Nat)
  /-- the contributions that have reached the package (R365, R366). -/
  contribs : List Contrib
  /-- the atomic packets executed, for repeats (R254). -/
  atomSeen : List AtomDone
  /-- the coherence messages received (R246), and the sequence number of the next that is sent (R244). -/
  cohSeen : List CohSeen
  cohNo : Nat
  /-- MONRD results that a replay has brought (R442). -/
  monReplay : List DWord
  /-- a replay is under way: the external links are not used (R442). -/
  replay : Bool
  step : BitVec 8
  /-- matrix issue slots withheld (R165, R451). -/
  pacing : BitVec 8
  pnow : BitVec 16
  tmax : BitVec 16
  pcap : BitVec 16
deriving DecidableEq, Repr

/-! ## The whole -/

/-- What is being issued: the group and split-table entry, or the team for a matrix word; the word and its literal (the
high half of a matrix word), its size and its address (log 2). -/
structure Cur where
  g : Nat
  e : Nat
  t : Nat
  pc : DWord
  size : Nat
  word : DWord
  lit : DWord
deriving DecidableEq, Repr

/-- The state of the machine. -/
structure State where
  groups : List Group
  teams : List Team
  grids : List Grid
  paddocks : List Paddock
  cmds : List Cmd
  cmdNo : Nat
  mem : MemSys
  pkg : Pkg
  /-- fault records raised and not yet posted (R420). -/
  faults : List FaultRec
  /-- messages on their way, oldest first. -/
  msgs : List Msg
  out : List Msg
  /-- events from outside that have not been taken (log 2). -/
  inputs : List Instr
  /-- the choices among agents fixed in advance (log 2). -/
  sched : List Nat
  cur : Cur
  tick : Nat
  /-- what happens before what, as far as the values of matrix words depend on it (R262, R305). -/
  hb : Hb
deriving DecidableEq, Repr

/-- Why the machine stops. -/
inductive Fault where
  /-- An access reached a physical address that the manual says does not exist and that no walk can deliver.
  Raised by no instruction of a checked program: safe. -/
  | noMemory (pa : Nat)
deriving DecidableEq, Repr

/-- Why an instruction has no meaning. -/
inductive Refusal where
  /-- The instruction is not modelled. Raised by the dispatch: safe. -/
  | notModelled (mnemonic : String)
deriving DecidableEq, Repr

/-! ## Values at creation and at reset -/

/-- The registers of a group at its creation (R112): zero, apart from what the launch sets. -/
def Regs.zero : Regs :=
  { v := Vector.replicate 128 (Vector.replicate 32 0), s := Vector.replicate 64 0, p := Vector.replicate 16 0,
    m := Vector.replicate 8 0, lc := Vector.replicate 3 0, f := Vector.replicate 8 0, t := Vector.replicate 8 0,
    fpflags := 0, status := 0, vNo := Vector.replicate 128 0, sNo := Vector.replicate 64 0,
    pNo := Vector.replicate 16 0, mNo := Vector.replicate 8 0 }

/-- The TRAP registers before any trap (R73, R74). -/
def TrapRegs.zero : TrapRegs :=
  { pc := 0, cause := 0, opc := 0, a := Vector.replicate 32 0, b := Vector.replicate 32 0,
    c := Vector.replicate 32 0, dst := 0, imm := 0 }

/-- A port at reset (R382); its counters, which the manual gives no reset value, are 0 (log 5). -/
def Port.zero : Port :=
  { width := 3, lfail := 0, train := false, rplCount := 0, requested := false, sendSeq := 0, replay := [], expected := 0, gap := false,
    queue := [], credits := Vector.replicate 8 0, owed := Vector.replicate 8 0, peerReady := false, step := 0, out := [], naks := 0, tries := 0, mask := 0, acked := 0, due := false }

/-- The package before power good (R454); fixed identity as R447 gives it. -/
def Pkg.zero : Pkg :=
  { num := 0, boot := .off, ddrcap := 0, recArm := false, lock := false, svn := Config.fusedSvn, regs := [], ctxs := [],
    parts := Vector.replicate 16 0, foldTab := [], folds := [], ports := Vector.replicate 12 Port.zero,
    bins := List.replicate 64 none, seqno := 0, events := [], hostOut := [], reports := [], doneWait := none, hostWait := [], fw := [], body := [], fused := Config.fusedSvn,
    elog := [], elogPos := 0, recording := false, recOvr := false, recs := [], recStart := 0, timens := 0, cycles := 0, sensors := [],
    retired := [], noEngine := [], tests := [], badWays := [], cmdNums := [], posted := 0, ackedOut := [], window := [], rick := [], slots := [], resv := List.replicate 15 none, resvWait := [], contribs := [], atomSeen := [], cohSeen := [], cohNo := 0, monReplay := [], replay := false, step := 0, pacing := 0,
    pnow := 0, tmax := 0, pcap := Config.powerLimit }

/-- The memory system at reset: nothing listed, nothing cached (log 3). -/
def MemSys.zero : MemSys :=
  { cells := [], lines := [], dir := [], cxl := [], tlb := [], regions := Vector.replicate 16 0,
    rewriting := false, pendingRegions := [], gran := [], lbuf := [], waiting := [],
    cxlDirty := [], recalls := [], snoops := [], pageParts := [], fetched := [], deferred := [], outbox := [] }

/-- The machine right after reset (R454): no task, nothing issuing, every register of the package at its reset value. -/
def State.reset : State :=
  { groups := [], teams := [], grids := [], paddocks := [], cmds := [], cmdNo := 0, mem := MemSys.zero, pkg := Pkg.zero,
    faults := [], msgs := [], out := [], inputs := [], sched := [],
    cur := { g := 0, e := 0, t := 0, pc := 0, size := 8, word := 0, lit := 0 }, tick := 0, hb := {} }

end Sys2Proof.Machine
end

