-- ==== Sys2Proof/Machine/Operands.lean ====
section
/-! DEFINITION. Registers and operands: the register file of a group, its forwarding window, the values that operand
fields supply, and the writes of results (R36, R38-R40, R80, R81, R112, R121, R123-R125, R458, R459). -/

namespace Sys2Proof.Machine
open Sys2Proof

/-! ## Vectors by natural number -/

/-- Entry `i`, or `d` beyond the end. -/
def vecAt {α : Type} {n : Nat} (v : Vector α n) (i : Nat) (d : α) : α := if h : i < n then v[i] else d

/-- Entry `i` replaced; nothing beyond the end. -/
def vecPut {α : Type} {n : Nat} (v : Vector α n) (i : Nat) (x : α) : Vector α n := v.setIfInBounds i x

/-- Every entry of a vector changed. -/
def vecMap {α β : Type} {n : Nat} (f : α → β) (v : Vector α n) : Vector β n := Vector.ofFn fun i => f v[i]

/-- An element put in its place in an ordered list, after its equals. -/
def insertBy {α : Type} (le : α → α → Bool) (x : α) : List α → List α
  | [] => [x]
  | y :: ys => if le x y then x :: y :: ys else y :: insertBy le x ys

/-- A list in ascending order; equals keep their order. -/
def sortBy {α : Type} (le : α → α → Bool) : List α → List α
  | [] => []
  | x :: xs => insertBy le x (sortBy le xs)

/-- All 32 bits of a word set. -/
abbrev ones32 : Word := 0xFFFFFFFF#32

/-- The lanes of a mask, lowest first. -/
def lanesOf (m : Word) : List Nat := (List.range 32).filter fun i => bit m i

/-- The mask of the lanes that a predicate picks. -/
def maskOf (p : Nat → Bool) : Word :=
  BitVec.ofNat 32 ((List.range 32).foldr (fun i acc => (if p i then 2 ^ i else 0) + acc) 0)

/-- A vector register from its value in each lane. -/
def vregOf (f : Nat → Nat) : VReg := Vector.ofFn fun i => BitVec.ofNat 32 (f i.val)

/-- A lane of a vector register. -/
def laneOf (v : VReg) (i : Nat) : Word := vecAt v i 0

/-- Bits of `old` replaced by those of `new` where `bm` is set (R81). -/
def mergeBits (bm old new : Word) : Word := (old &&& ~~~bm) ||| (new &&& bm)

/-- A vector register with the bits `bm` of the lanes in `lanes` replaced (R123). -/
def mergeV (old new : VReg) (lanes bm : Word) : VReg :=
  Vector.ofFn fun i => if bit lanes i.val then mergeBits bm (laneOf old i.val) (laneOf new i.val) else laneOf old i.val

/-! ## Register writes -/

/-- Whether two writes name the same register. -/
def RegW.same : RegW → RegW → Bool
  | .v r .., .v r' .. => r == r'
  | .s r .., .s r' .. => r == r'
  | .p r _, .p r' _ => r == r'
  | .m r .., .m r' .. => r == r'
  | _, _ => false

/-- A write to m0, which is discarded (R112). -/
def RegW.discarded : RegW → Bool
  | .m r .. => r == 0
  | _ => false

/-- The number of the youngest write to the register of `w` that is in the banks (R163). -/
def Regs.lastNo (rg : Regs) : RegW → Nat
  | .v r .. => vecAt rg.vNo r 0
  | .s r .. => vecAt rg.sNo r 0
  | .p r _ => vecAt rg.pNo r 0
  | .m r .. => vecAt rg.mNo r 0

/-- The write `w` of instruction `n` made in the banks.  A write to m0 is discarded (R112). -/
def Regs.write (rg : Regs) (n : Nat) : RegW → Regs
  | .v r val lanes bm =>
    { rg with v := vecPut rg.v r (mergeV (vecAt rg.v r (Vector.replicate 32 0)) val lanes bm), vNo := vecPut rg.vNo r n }
  | .s r val bm => { rg with s := vecPut rg.s r (mergeBits bm (vecAt rg.s r 0) val), sNo := vecPut rg.sNo r n }
  | .p r val => { rg with p := vecPut rg.p r val, pNo := vecPut rg.pNo r n }
  | .m r val bm =>
    if r == 0 then rg
    else { rg with m := vecPut rg.m r (mergeBits bm (vecAt rg.m r 0) val), mNo := vecPut rg.mNo r n }

/-- The youngest transient write to the register of `key` that instruction `m` sees (R121): the entries stand youngest
first. -/
def seen (win : List Win) (m : Nat) (key : RegW) : Option RegW :=
  (win.find? fun e => e.w.same key && m ≤ e.n + 7).map (·.w)

/-! ## Reads (R112, R121) -/

/-- The whole vector register `r`, as the next instruction of the group reads it. -/
def Group.vreg (g : Group) (r : Nat) : VReg :=
  match seen g.win g.issueNo (.v r (Vector.replicate 32 0) 0 0) with
  | some (.v _ val _ _) => val
  | _ => vecAt g.regs.v r (Vector.replicate 32 0)

/-- Uniform register `r`. -/
def Group.sreg (g : Group) (r : Nat) : Word :=
  match seen g.win g.issueNo (.s r 0 0) with
  | some (.s _ val _) => val
  | _ => vecAt g.regs.s r 0

/-- Pointer register `r`. -/
def Group.preg (g : Group) (r : Nat) : QWord :=
  match seen g.win g.issueNo (.p r 0) with
  | some (.p _ val) => val
  | _ => vecAt g.regs.p r 0

/-- Mask register `r`; m0 reads all ones (R112). -/
def Group.mreg (g : Group) (r : Nat) : Word :=
  if r == 0 then ones32
  else match seen g.win g.issueNo (.m r 0 0) with
    | some (.m _ val _) => val
    | _ => vecAt g.regs.m r 0

/-- `n` words from the lowest, as one number (R39). -/
def wordsNat (w : Nat → Word) : Nat → Nat
  | 0 => 0
  | n + 1 => (w 0).toNat + 2 ^ 32 * wordsNat (fun k => w (k + 1)) n

/-- The value of the vector group `r..r+n-1` in a lane (R39, R80). -/
def Group.vlane (g : Group) (r n lane : Nat) : Nat := wordsNat (fun k => laneOf (g.vreg (r + k)) lane) n

/-- The value of the uniform registers `r..r+n-1`. -/
def Group.sval (g : Group) (r n : Nat) : Nat := wordsNat (fun k => g.sreg (r + k)) n

/-- The uniform pair at `r`. -/
def Group.spair (g : Group) (r : Nat) : DWord := BitVec.ofNat 64 (g.sval r 2)

/-- The narrow format registers as a function (R88). -/
def Group.nf (g : Group) (k : BitVec 3) : Word := vecAt g.regs.f k.toNat 0

/-! ## Immediates (R40, R458, R459) -/

/-- The element that a short immediate supplies. -/
def immElem (nf : BitVec 3 → Word) (t : Ty) (c : BitVec 7) : Nat :=
  match codingOf nf t with
  | .flt F => (F.round .rne (Xv.ofInt c.toInt)).1
  | .fix s mb b => ((Coding.fix s mb b).round .rne true (Xv.ofInt c.toInt)).1
  | cd => intCode cd.w c.toInt

/-- The element that a literal supplies. -/
def litElem (nf : BitVec 3 → Word) (t : Ty) (lit : DWord) : Nat := lit.toNat % 2 ^ (codingOf nf t).w

/-- A lane value with one element in every place (R459). -/
def replicateElem (nf : BitVec 3 → Word) (t : Ty) (code : Nat) : Nat :=
  elemPack nf t (List.replicate (elemsOf nf t) code)

/-! ## Source operands of VR and UR words (R42, R43, R124) -/

/-- A register source of `n` registers: broadcast when uniform (R124). -/
def Group.src (g : Group) (uniform : Bool) (r n lane : Nat) : Nat := if uniform then g.sval r n else g.vlane r n lane

/-- Source A of type `t`. -/
def Group.srcA (g : Group) (ur : Bool) (f : VF) (t : Ty) (lane : Nat) : Nat := g.src (ur || f.ak) f.sa.toNat t.regs lane

/-- Source B of type `t`. -/
def Group.srcB (g : Group) (ur : Bool) (f : VF) (t : Ty) (lane : Nat) : Nat := g.src (ur || f.bk) f.sb.toNat t.regs lane

/-- Source C of type `t`: a register, a short immediate or the literal. -/
def Group.srcC (g : Group) (ur : Bool) (f : VF) (t : Ty) (lane : Nat) : Nat :=
  match f.ck with
  | .reg => g.src ur f.sc.toNat t.regs lane
  | .uni => g.sval f.sc.toNat t.regs
  | .imm => replicateElem g.nf t (immElem g.nf t f.sc)
  | .lit => replicateElem g.nf t (litElem g.nf t f.lit)

/-! ## Destinations -/

/-- All bits of `n` registers. -/
def fullBits (n : Nat) : Nat := 2 ^ (32 * n) - 1

/-- The write of lane values to the vector group `r..r+n-1`: the lanes and the bits of the lane value that change. -/
def vWrites (r n : Nat) (val : Nat → Nat) (lanes : Word) (bm : Nat) : List RegW :=
  (List.range n).map fun k =>
    .v (r + k) (vregOf fun i => val i / 2 ^ (32 * k)) lanes (BitVec.ofNat 32 (bm / 2 ^ (32 * k)))

/-- The write of a value to the uniform registers `r..r+n-1`. -/
def sWrites (r n val : Nat) (bm : Nat) : List RegW :=
  (List.range n).map fun k =>
    .s (r + k) (BitVec.ofNat 32 (val / 2 ^ (32 * k))) (BitVec.ofNat 32 (bm / 2 ^ (32 * k)))

/-- A write as the whole register value that it leaves to a reader (R121). -/
def Group.whole (g : Group) : RegW → RegW
  | .v r val lanes bm => .v r (mergeV (g.vreg r) val lanes bm) ones32 ones32
  | .s r val bm => .s r (mergeBits bm (g.sreg r) val) ones32
  | .p r val => .p r val
  | .m r val bm => .m r (mergeBits bm (g.mreg r) val) ones32

/-- A result of instruction `n` with T = 0 reaches the banks, unless a younger write is there already (R163); older
window entries of the register are hidden by it (R121). -/
def Group.bank (g : Group) (n : Nat) (w : RegW) : Group :=
  if n < g.regs.lastNo w then g
  else { g with regs := g.regs.write n w, win := g.win.filter fun e => !(e.w.same w && e.n < n) }

/-- A transient result of instruction `n` enters the window (R121), whole; a write to m0 is discarded. -/
def Group.window (g : Group) (n : Nat) (w : RegW) : Group :=
  if w.discarded || n < g.regs.lastNo w || g.win.any (fun e => e.w.same w && n < e.n) then g
  else { g with win := { n, w := g.whole w } :: g.win.filter fun e => !(e.w.same w && e.n ≤ n) }

/-- The writes of a result of instruction `n`. -/
def Group.deliver (g : Group) (n : Nat) (t : Bool) : List RegW → Group
  | [] => g
  | w :: ws => (if t then g.window n w else g.bank n w).deliver n t ws

/-- One write of the youngest instruction of the group, with nothing younger to supersede it: transient into the window, else into the
banks, and no older window entry of the register stays (R121, R163); a write to m0 is discarded (R112). -/
def Group.putOne (g : Group) (t : Bool) (w : RegW) : Group :=
  if w.discarded then g
  else
    let older := g.win.filter fun e => !e.w.same w
    if t then { g with win := { n := g.issueNo, w := g.whole w } :: older }
    else { g with regs := g.regs.write g.issueNo w, win := older }

/-- An interlocked result of the issuing instruction (R161, R122). -/
def Group.put (g : Group) (t : Bool) : List RegW → Group
  | [] => g
  | w :: ws => (g.putOne t w).put t ws

/-- An unchecked result of the issuing instruction (R161): it is outstanding until it returns. -/
def Group.send (g : Group) (t : Bool) (ws : List RegW) (fls : List Fl) : Group :=
  { g with out := g.out ++ [{ n := g.issueNo, t, ws, fls }] }

/-! ## Lanes -/

/-- The lane set in split-table entry `e`. -/
def Group.set (g : Group) (e : Nat) : LaneSet := vecAt g.sets e {}

/-- The group with entry `e` replaced. -/
def Group.putSet (g : Group) (e : Nat) (l : LaneSet) : Group := { g with sets := vecPut g.sets e l }

/-- The lowest occupied entry of the split table. -/
def Group.firstSet (g : Group) : Nat := ((List.range 4).find? fun e => (g.set e).lanes != 0).getD 0

/-- The active lanes of an instruction that entry `e` issues (R36). -/
def Group.active (g : Group) (e : Nat) (msk : BitVec 3) : Word := (g.set e).lanes &&& g.mreg msk.toNat

end Sys2Proof.Machine
end

