-- ==== Sys2Proof/Machine/Flags.lean ====
section
/-! DEFINITION. The sticky flags and the exception event counters (R108-R111). -/

namespace Sys2Proof.Machine
open Sys2Proof

/-- The flags of all elements of an instruction together (R108). -/
def joinFl (fls : List Fl) : Fl := fls.foldl (· ||| ·) 0

/-- FPFLAGS with flags set; never cleared (R108). -/
def Group.orFlags (g : Group) (fl : Fl) : Group :=
  { g with regs := { g.regs with fpflags := g.regs.fpflags ||| fl.setWidth 32 } }

/-- How many elements set flag `k` (R111). -/
def countFl (k : Nat) (fls : List Fl) : Nat := (fls.filter fun f => bit f k).length

/-- The exception counters IV DZ OF UF NX, one event for each element that sets a flag (R111, R443). -/
def addExc (c : Vector DWord 5) (fls : List Fl) : Vector DWord 5 :=
  Vector.ofFn fun k => vecAt c k.val 0 + BitVec.ofNat 64 (countFl k.val fls)

/-- The sticky STATUS bits NONUNIF [2], SCOPEMISS [3] and VOTEMIX [4] set (R191, R238, R344, R411). -/
def Group.orStatus (g : Group) (b : Word) : Group :=
  { g with regs := { g.regs with status := g.regs.status ||| b } }

/-- A W1C write of STATUS: bits 4 to 2 that are one clear; the others ignore the write (R411, R425). -/
def statusW1c (old w : Word) : Word := old &&& ~~~(w &&& 0x1C#32)

end Sys2Proof.Machine
end

