-- ==== Sys2Proof/Machine/Layout.lean ====
section
/-! DEFINITION. The layouts of the formats, both ways: the word that the fields of a format make, and the fields of
a word (R34, R42-R48, R57-R60); and each name's class, format and opcode (R52, R53, R288). -/

namespace Sys2Proof

abbrev b1 (b : Bool) : BitVec 1 := BitVec.ofBool b

/-! ## Field codes -/

/-- CK (R42). -/
def CK.code : CK → BitVec 2
  | .reg => 0 | .uni => 1 | .imm => 2 | .lit => 3
def ckOfCode (c : BitVec 2) : CK :=
  match c.toNat with
  | 0 => .reg | 1 => .uni | 2 => .imm | _ => .lit
/-- IK (R44). -/
def IK.code : IK → BitVec 2
  | .vec => 0 | .uni => 1 | .none => 2
def ikOfCode (c : BitVec 2) : Option IK :=
  match c.toNat with
  | 0 => some .vec | 1 => some .uni | 2 => some .none | _ => none
/-- SCOPE (R199). -/
def Scope.code : Scope → BitVec 3
  | .core => 0 | .clus => 1 | .die => 2 | .pkg => 3 | .pod => 4
def scopeOfCode (c : BitVec 3) : Option Scope :=
  match c.toNat with
  | 0 => some .core | 1 => some .clus | 2 => some .die | 3 => some .pkg | 4 => some .pod | _ => none
/-- CLASS of a pointer (R199). -/
def Share.code : Share → BitVec 2
  | .priv => 0 | .rsh => 1 | .syn => 2
def shareOfCode (c : BitVec 2) : Option Share :=
  match c.toNat with
  | 0 => some .priv | 1 => some .rsh | 2 => some .syn | _ => none

/-! ## Group words -/

/-- A VR or UR word (R42, R43). -/
def VF.word (cls : BitVec 4) (fmt : BitVec 3) (minor : BitVec 7) (f : VF) : DWord :=
  b1 f.y ++ b1 f.t ++ f.msk ++ f.dst ++ f.sa ++ f.sb ++ f.sc ++ minor ++ f.ty.code ++ f.rnd.code ++ b1 f.k ++ b1 f.ak
    ++ b1 f.bk ++ f.ck.code ++ b1 f.x ++ cls ++ fmt ++ b1 (f.ck == .lit) ++ 0#2

def VF.ofWord (w lit : DWord) : Option VF :=
  match tyOfCode (wType w), rndOfCode (wRnd w) with
  | some ty, some rnd => some
      { y := wY w, t := wT w, msk := wMsk w, dst := wDst w, sa := wSa w, sb := wSb w, sc := wSc w, ty, rnd, k := wK w
        ak := wAk w, bk := wBk w, ck := ckOfCode (wCk w), x := wX w, lit := if wL w then lit else 0 }
  | _, _ => none

/-- An MA word (R44). -/
def MAF.word (cls : BitVec 4) (minor : BitVec 7) (f : MAF) : DWord :=
  b1 f.y ++ 0#1 ++ f.msk ++ f.data ++ f.ptr ++ f.idx ++ f.off ++ minor ++ f.ty.code ++ f.rnd.code ++ f.ik.code ++ b1 f.ol
    ++ f.fn ++ cls ++ 2#3 ++ b1 f.ol ++ 0#2

def MAF.ofWord (w lit : DWord) : Option MAF :=
  match tyOfCode (wType w), rndOfCode (wRnd w), ikOfCode (wIk w) with
  | some ty, some rnd, some ik => some
      { y := wY w, msk := wMsk w, data := wDst w, ptr := wSa w, idx := wSb w, off := wSc w, ty, rnd, ik, ol := wOl w
        fn := wFnMa w, lit := if wL w then lit else 0 }
  | _, _, _ => none

/-- A class 5 word (R223). -/
def RTF.word (minor : BitVec 7) (f : RTF) : DWord :=
  b1 f.y ++ 0#1 ++ 0#3 ++ f.pd ++ f.pa ++ f.idx ++ f.off ++ minor ++ 0#5 ++ f.nscope.code ++ f.ik.code ++ b1 f.ol
    ++ b1 f.hs ++ f.nclass.code ++ 5#4 ++ 2#3 ++ b1 f.ol ++ 0#2

def RTF.ofWord (w lit : DWord) : Option RTF :=
  match scopeOfCode (wRnd w), ikOfCode (wIk w), shareOfCode (bits w 10 2) with
  | some nscope, some ik, some nclass => some
      { y := wY w, pd := wDst w, pa := wSa w, idx := wSb w, off := wSc w, nscope, ik, ol := wOl w, hs := bit w 12, nclass
        lit := if wL w then lit else 0 }
  | _, _, _ => none

/-- A BR word (R45). -/
def BRF.word (cls : BitVec 4) (minor : BitVec 7) (f : BRF) : DWord :=
  b1 f.y ++ 0#1 ++ f.msk ++ f.dst ++ f.pred ++ f.off ++ minor ++ b1 f.hint ++ b1 f.cpt ++ b1 f.pk ++ f.sel ++ f.mode ++ f.fn
    ++ cls ++ 3#3 ++ b1 f.l ++ 0#2

def BRF.ofWord (w lit : DWord) : BRF :=
  { y := wY w, msk := wMsk w, dst := wDst w, pred := wSa w, off := wOff14 w, hint := wHint w, cpt := wCpt w, pk := wPk w
    sel := wSelBr w, mode := wMode w, fn := wFnBr w, l := wL w, lit := if wL w then lit else 0 }

/-- An SP word (R46). -/
def SPF.word (cls : BitVec 4) (minor : BitVec 7) (f : SPF) : DWord :=
  b1 f.y ++ 0#1 ++ f.msk ++ f.dst ++ f.sa ++ f.sel ++ minor ++ f.fn ++ cls ++ 4#3 ++ 0#1 ++ 0#2

def SPF.ofWord (w : DWord) : SPF :=
  { y := wY w, msk := wMsk w, dst := wDst w, sa := wSa w, sel := wSel w, fn := wFnSp w }

/-- An EN word (R47). -/
def ENF.word (cls : BitVec 4) (minor : BitVec 7) (f : ENF) : DWord :=
  b1 f.y ++ 0#1 ++ f.msk ++ f.dst ++ f.sa ++ f.sb ++ f.sc ++ minor ++ f.ty.code ++ f.tsel ++ f.slot ++ f.fn
    ++ cls ++ 5#3 ++ 0#1 ++ 0#2

def ENF.ofWord (w : DWord) : Option ENF :=
  (tyOfCode (wType w)).map fun ty =>
    { y := wY w, msk := wMsk w, dst := wDst w, sa := wSa w, sb := wSb w, sc := wSc w, ty, tsel := wTsel w, slot := wSlot w
      fn := wFnEn w }

/-- A BA word (R48). -/
def BAF.word (minor : BitVec 7) (bk : BitVec 2) (f : BAF) : DWord :=
  b1 f.y ++ 0#1 ++ f.msk ++ f.dst ++ f.sa ++ f.bnum ++ 0#3 ++ f.cnt ++ minor ++ bk ++ f.ck.code ++ f.fn
    ++ 6#4 ++ 6#3 ++ b1 (f.ck == .lit) ++ 0#2

def BAF.ofWord (w lit : DWord) : BAF :=
  { y := wY w, msk := wMsk w, dst := wDst w, sa := wSa w, bnum := wBnum w, cnt := wSc w, ck := ckOfCode (wCkBa w)
    fn := wFnBa w, lit := if wL w then lit else 0 }

/-! ## Matrix words (R57-R60) -/

/-- Bits [23:0] of a matrix word. -/
def MXW.low (mf : BitVec 3) (mop : BitVec 8) (f : MXW) : BitVec 24 :=
  0#2 ++ b1 f.av ++ f.ab ++ b1 f.wv ++ f.wb ++ 0#1 ++ mf ++ mop

def MXW.ofWord (w : QWord) : MXW := { av := bit w 21, ab := bits w 17 4, wv := bit w 16, wb := bits w 12 4 }

def MXF.word (mop : BitVec 8) (f : MXF) : QWord :=
  0#37 ++ b1 f.xv ++ f.xsel ++ b1 f.sv ++ f.sbsel ++ f.sbreg ++ f.sasel ++ f.sareg ++ f.bty.code ++ f.aty.code ++ f.breg
    ++ f.aoff ++ f.qa ++ b1 f.z ++ f.tcol ++ f.trow ++ f.w.low 0 mop

def MXF.ofWord (w : QWord) : Option MXF :=
  match tyOfCode (bits w 64 5), tyOfCode (bits w 59 5) with
  | some bty, some aty => some
      { w := MXW.ofWord w, xv := bit w 90, xsel := bits w 88 2, sv := bit w 87, sbsel := bits w 85 2, sbreg := bits w 78 7
        sasel := bits w 76 2, sareg := bits w 69 7, bty, aty, breg := bits w 52 7, aoff := bits w 36 16, qa := bits w 32 4
        z := bit w 31, tcol := bits w 29 2, trow := bits w 24 5 }
  | _, _ => none

def MDF.word (mop : BitVec 8) (f : MDF) : QWord :=
  0#32 ++ f.fill ++ f.rnd.code ++ f.dty.code ++ b1 f.fv ++ f.dmode ++ f.doff ++ f.qd ++ 0#1 ++ f.tcol ++ f.trow ++ f.w.low 1 mop

def MDF.ofWord (w : QWord) : Option MDF :=
  match rndOfCode (bits w 61 3), tyOfCode (bits w 56 5) with
  | some rnd, some dty => some
      { w := MXW.ofWord w, fill := bits w 64 32, rnd, dty, fv := bit w 55, dmode := bits w 52 3, doff := bits w 36 16
        qd := bits w 32 4, tcol := bits w 29 2, trow := bits w 24 5 }
  | _, _ => none

def MCF.word (mop : BitVec 8) (f : MCF) : QWord :=
  0#32 ++ f.imm ++ 0#16 ++ f.tgt ++ 0#4 ++ f.qc ++ f.w.low 2 mop

def MCF.ofWord (w : QWord) : MCF :=
  { w := MXW.ofWord w, imm := bits w 64 32, tgt := bits w 32 16, qc := bits w 24 4 }

def MQF.word (mop : BitVec 8) (f : MQF) : QWord :=
  0#32 ++ f.imm ++ 0#27 ++ b1 f.ib ++ f.qb ++ f.qa ++ f.qd ++ f.w.low 3 mop

def MQF.ofWord (w : QWord) : MQF :=
  { w := MXW.ofWord w, imm := bits w 64 32, ib := bit w 36, qb := bits w 32 4, qa := bits w 28 4, qd := bits w 24 4 }

def MSF.word (mop : BitVec 8) (f : MSF) : QWord := 0#104 ++ f.w.low 4 mop

def MSF.ofWord (w : QWord) : MSF := { w := MXW.ofWord w }

/-! ## Opcodes of the names -/

/-- Class, minor opcode, and what else tells the form: 1 for UR, or the barrier kind (R126-R422). For the matrix
stream: the matrix format and the opcode (R288). -/
def Op.key : Op → Nat × Nat × Nat
  | .addIntVr => (0, 0x01, 0)
  | .addIntUr => (0, 0x01, 1)
  | .subIntVr => (0, 0x02, 0)
  | .subIntUr => (0, 0x02, 1)
  | .mulIntVr => (0, 0x03, 0)
  | .mulIntUr => (0, 0x03, 1)
  | .mulhiVr => (0, 0x04, 0)
  | .mulhiUr => (0, 0x04, 1)
  | .madVr => (0, 0x05, 0)
  | .madUr => (0, 0x05, 1)
  | .divIntVr => (0, 0x06, 0)
  | .divIntUr => (0, 0x06, 1)
  | .remVr => (0, 0x07, 0)
  | .remUr => (0, 0x07, 1)
  | .minIntVr => (0, 0x08, 0)
  | .minIntUr => (0, 0x08, 1)
  | .maxIntVr => (0, 0x09, 0)
  | .maxIntUr => (0, 0x09, 1)
  | .absIntVr => (0, 0x0A, 0)
  | .absIntUr => (0, 0x0A, 1)
  | .negIntVr => (0, 0x0B, 0)
  | .negIntUr => (0, 0x0B, 1)
  | .andVr => (0, 0x0C, 0)
  | .andUr => (0, 0x0C, 1)
  | .orVr => (0, 0x0D, 0)
  | .orUr => (0, 0x0D, 1)
  | .xorVr => (0, 0x0E, 0)
  | .xorUr => (0, 0x0E, 1)
  | .notVr => (0, 0x0F, 0)
  | .notUr => (0, 0x0F, 1)
  | .shlVr => (0, 0x10, 0)
  | .shlUr => (0, 0x10, 1)
  | .shrVr => (0, 0x11, 0)
  | .shrUr => (0, 0x11, 1)
  | .rotVr => (0, 0x12, 0)
  | .rotUr => (0, 0x12, 1)
  | .popcVr => (0, 0x13, 0)
  | .popcUr => (0, 0x13, 1)
  | .clzVr => (0, 0x14, 0)
  | .clzUr => (0, 0x14, 1)
  | .brevVr => (0, 0x15, 0)
  | .brevUr => (0, 0x15, 1)
  | .bfeVr => (0, 0x16, 0)
  | .bfeUr => (0, 0x16, 1)
  | .bfiVr => (0, 0x17, 0)
  | .bfiUr => (0, 0x17, 1)
  | .cmpIntVr => (0, 0x18, 0)
  | .cmpIntUr => (0, 0x18, 1)
  | .selVr => (0, 0x19, 0)
  | .selUr => (0, 0x19, 1)
  | .movVr => (0, 0x1A, 0)
  | .movUr => (0, 0x1A, 1)
  | .leaVr => (0, 0x1B, 0)
  | .leaUr => (0, 0x1B, 1)
  | .extVr => (0, 0x1C, 0)
  | .extUr => (0, 0x1C, 1)
  | .dp4Vr => (0, 0x20, 0)
  | .dp4Ur => (0, 0x20, 1)
  | .mset => (0, 0x1D, 1)
  | .mget => (0, 0x1E, 1)
  | .mlog => (0, 0x1F, 1)
  | .xacq => (11, 0x30, 0)
  | .xrel => (11, 0x31, 0)
  | .donate => (11, 0x32, 0)
  | .bra => (1, 0x01, 0)
  | .brt => (1, 0x02, 0)
  | .brf => (1, 0x03, 0)
  | .bany => (1, 0x04, 0)
  | .ball => (1, 0x05, 0)
  | .call => (1, 0x06, 0)
  | .loop => (1, 0x07, 0)
  | .ldec => (1, 0x08, 0)
  | .lexit => (1, 0x09, 0)
  | .jmpr => (1, 0x10, 0)
  | .callr => (1, 0x11, 0)
  | .ret => (1, 0x12, 0)
  | .join => (1, 0x13, 0)
  | .exit => (1, 0x14, 0)
  | .jmpv => (1, 0x15, 0)
  | .mact => (1, 0x16, 0)
  | .nop => (1, 0x17, 0)
  | .yield => (1, 0x18, 0)
  | .lcrd => (1, 0x19, 0)
  | .lcwr => (1, 0x1A, 0)
  | .addFloat => (2, 0x01, 0)
  | .subFloat => (2, 0x02, 0)
  | .mulFloat => (2, 0x03, 0)
  | .fma => (2, 0x04, 0)
  | .fms => (2, 0x05, 0)
  | .fnma => (2, 0x06, 0)
  | .divFloat => (2, 0x07, 0)
  | .sqrt => (2, 0x08, 0)
  | .minFloat => (2, 0x09, 0)
  | .maxFloat => (2, 0x0A, 0)
  | .absFloat => (2, 0x0B, 0)
  | .negFloat => (2, 0x0C, 0)
  | .cpys => (2, 0x0D, 0)
  | .cmpFloat => (2, 0x0E, 0)
  | .fcls => (2, 0x0F, 0)
  | .pres => (2, 0x10, 0)
  | .cvt => (2, 0x11, 0)
  | .rint => (2, 0x12, 0)
  | .rcp => (2, 0x13, 0)
  | .rsqrt => (2, 0x14, 0)
  | .exp2 => (2, 0x15, 0)
  | .log2 => (2, 0x16, 0)
  | .sinpi => (2, 0x17, 0)
  | .cospi => (2, 0x18, 0)
  | .tanh => (2, 0x19, 0)
  | .sigm => (2, 0x1A, 0)
  | .rsum => (2, 0x1B, 0)
  | .rmin => (2, 0x1C, 0)
  | .rmax => (2, 0x1D, 0)
  | .rcnt => (2, 0x1E, 0)
  | .shfl => (3, 0x01, 0)
  | .shup => (3, 0x02, 0)
  | .shdn => (3, 0x03, 0)
  | .shxr => (3, 0x04, 0)
  | .shrt => (3, 0x05, 0)
  | .prm2 => (3, 0x06, 0)
  | .rfal => (3, 0x07, 0)
  | .rfau => (3, 0x08, 0)
  | .insl => (3, 0x09, 0)
  | .bprm => (3, 0x0A, 0)
  | .zip2 => (3, 0x0B, 0)
  | .zip3 => (3, 0x0C, 0)
  | .zip4 => (3, 0x0D, 0)
  | .unz2 => (3, 0x0E, 0)
  | .unz3 => (3, 0x0F, 0)
  | .unz4 => (3, 0x10, 0)
  | .ld => (4, 0x01, 0)
  | .st => (4, 0x02, 0)
  | .ldu => (4, 0x03, 0)
  | .stu => (4, 0x04, 0)
  | .pld => (4, 0x05, 0)
  | .pst => (4, 0x06, 0)
  | .pchk => (4, 0x07, 0)
  | .pref => (4, 0x08, 0)
  | .pmake => (4, 0x09, 1)
  | .padd => (4, 0x0A, 1)
  | .pmov => (4, 0x0B, 1)
  | .pget => (4, 0x0C, 1)
  | .pwiden => (5, 0x01, 0)
  | .pnarrow => (5, 0x02, 0)
  | .pwidens => (5, 0x03, 0)
  | .pnarrows => (5, 0x04, 0)
  | .aadd => (6, 0x01, 0)
  | .amin => (6, 0x02, 0)
  | .amax => (6, 0x03, 0)
  | .aand => (6, 0x04, 0)
  | .aor => (6, 0x05, 0)
  | .axor => (6, 0x06, 0)
  | .axch => (6, 0x07, 0)
  | .acas => (6, 0x08, 0)
  | .binitTeam => (6, 0x11, 0)
  | .binitObject => (6, 0x11, 1)
  | .barriveTeam => (6, 0x12, 0)
  | .barriveObject => (6, 0x12, 1)
  | .barrivePaddock => (6, 0x12, 2)
  | .bwaitTeam => (6, 0x13, 0)
  | .bwaitObject => (6, 0x13, 1)
  | .bwaitPaddock => (6, 0x13, 2)
  | .bsyncTeam => (6, 0x14, 0)
  | .bsyncPaddock => (6, 0x14, 2)
  | .bbytes => (6, 0x15, 1)
  | .btest => (6, 0x16, 1)
  | .bdropTeam => (6, 0x17, 0)
  | .bdropObject => (6, 0x17, 1)
  | .cpy => (7, 0x01, 0)
  | .cpy2d => (7, 0x02, 0)
  | .cfill => (7, 0x03, 0)
  | .cgth => (7, 0x04, 0)
  | .ncopy => (7, 0x05, 0)
  | .cbatch => (7, 0x06, 0)
  | .cwait => (7, 0x07, 0)
  | .cstat => (7, 0x08, 0)
  | .accld => (7, 0x09, 0)
  | .accst => (7, 0x0A, 0)
  | .accrd => (7, 0x0B, 0)
  | .accwr => (7, 0x0C, 0)
  | .fset => (8, 0x01, 0)
  | .fget => (8, 0x02, 0)
  | .xset => (8, 0x03, 0)
  | .xget => (8, 0x04, 0)
  | .xid => (8, 0x05, 0)
  | .xinv => (8, 0x06, 0)
  | .xprm => (8, 0x07, 0)
  | .scalc => (8, 0x08, 0)
  | .scval => (8, 0x09, 0)
  | .scmul => (8, 0x0A, 0)
  | .qnt => (8, 0x0B, 0)
  | .dqnt => (8, 0x0C, 0)
  | .ndot => (8, 0x0D, 0)
  | .namax => (8, 0x0E, 0)
  | .cbr => (9, 0x01, 0)
  | .fjoin => (9, 0x02, 0)
  | .fleave => (9, 0x03, 0)
  | .fvote => (9, 0x04, 0)
  | .fcnt => (9, 0x05, 0)
  | .fpend => (9, 0x06, 0)
  | .tset => (10, 0x01, 0)
  | .tget => (10, 0x02, 0)
  | .collAr => (10, 0x03, 0)
  | .collRs => (10, 0x04, 0)
  | .collAg => (10, 0x05, 0)
  | .collBc => (10, 0x06, 0)
  | .collRd => (10, 0x07, 0)
  | .collBar => (10, 0x08, 0)
  | .halo => (10, 0x09, 0)
  | .putr => (10, 0x0A, 0)
  | .getr => (10, 0x0B, 0)
  | .clstat => (10, 0x0C, 0)
  | .launch => (11, 0x01, 0)
  | .depdec => (11, 0x04, 0)
  | .spawn => (11, 0x02, 0)
  | .sflush => (11, 0x03, 0)
  | .prioget => (11, 0x11, 0)
  | .prioset => (11, 0x12, 0)
  | .qyield => (11, 0x13, 0)
  | .preq => (11, 0x14, 0)
  | .grdget => (11, 0x15, 0)
  | .tret => (12, 0x01, 0)
  | .tretR => (12, 0x01, 0)
  | .tretRp => (12, 0x01, 0)
  | .scall => (12, 0x02, 0)
  | .srd => (12, 0x03, 0)
  | .swr => (12, 0x04, 0)
  | .fwait => (12, 0x05, 0)
  | .frsm => (12, 0x06, 0)
  | .fkill => (12, 0x07, 0)
  | .tdisp => (12, 0x08, 0)
  | .fvots => (12, 0x09, 0)
  | .tlbinv => (12, 0x0A, 0)
  | .xprobe => (12, 0x0B, 0)
  | .dirrd => (12, 0x0C, 0)
  | .monrd => (12, 0x0D, 0)
  | .stest => (12, 0x0E, 0)
  | .recctlStatus => (12, 0x0F, 0)
  | .recctlMarker => (12, 0x0F, 0)
  | .recctlStop => (12, 0x0F, 0)
  | .elog => (12, 0x10, 0)
  | .tstop => (12, 0x11, 0)
  | .tgo => (12, 0x12, 0)
  | .mma => (0, 0x01, 0)
  | .mms => (0, 0x02, 0)
  | .mmat => (0, 0x03, 0)
  | .mdrn => (1, 0x10, 0)
  | .mdrz => (1, 0x11, 0)
  | .mldc => (1, 0x12, 0)
  | .mzero => (1, 0x13, 0)
  | .mjmp => (2, 0x20, 0)
  | .mbnz => (2, 0x21, 0)
  | .mdjnz => (2, 0x22, 0)
  | .mblt => (2, 0x23, 0)
  | .mqset => (3, 0x30, 0)
  | .mqadd => (3, 0x31, 0)
  | .mqsub => (3, 0x32, 0)
  | .mqmul => (3, 0x33, 0)
  | .mqshl => (3, 0x34, 0)
  | .mqand => (3, 0x35, 0)
  | .mqld => (3, 0x36, 0)
  | .msync => (4, 0x40, 0)
  | .mend => (4, 0x41, 0)

/-- The word (or the two words, the literal first in the answer's second part) of a decoded instruction. -/
def Code.word : Code → DWord
  | .v op f => f.word (BitVec.ofNat 4 op.key.1) (BitVec.ofNat 3 op.key.2.2) (BitVec.ofNat 7 op.key.2.1)
  | .ma op f => f.word (BitVec.ofNat 4 op.key.1) (BitVec.ofNat 7 op.key.2.1)
  | .rt op f => f.word (BitVec.ofNat 7 op.key.2.1)
  | .br op f => f.word (BitVec.ofNat 4 op.key.1) (BitVec.ofNat 7 op.key.2.1)
  | .sp op f => f.word (BitVec.ofNat 4 op.key.1) (BitVec.ofNat 7 op.key.2.1)
  | .en op f => f.word (BitVec.ofNat 4 op.key.1) (BitVec.ofNat 7 op.key.2.1)
  | .ba op f => f.word (BitVec.ofNat 7 op.key.2.1) (BitVec.ofNat 2 op.key.2.2)
  | .mx _ _ | .md _ _ | .mc _ _ | .mq _ _ | .ms _ _ => 0

/-- The literal word of a decoded group instruction, where it has one. -/
def Code.literal : Code → Option DWord
  | .v _ f => if f.ck == .lit then some f.lit else none
  | .ma _ f => if f.ol then some f.lit else none
  | .rt _ f => if f.ol then some f.lit else none
  | .br _ f => if f.l then some f.lit else none
  | .ba _ f => if f.ck == .lit then some f.lit else none
  | _ => none

/-- The value the literal field holds, literal or not. -/
def Code.litField : Code → DWord
  | .v _ f => f.lit | .ma _ f => f.lit | .rt _ f => f.lit | .br _ f => f.lit | .ba _ f => f.lit
  | _ => 0

/-- The matrix word of a decoded matrix instruction. -/
def Code.mword : Code → QWord
  | .mx op f => f.word (BitVec.ofNat 8 op.key.2.1)
  | .md op f => f.word (BitVec.ofNat 8 op.key.2.1)
  | .mc op f => f.word (BitVec.ofNat 8 op.key.2.1)
  | .mq op f => f.word (BitVec.ofNat 8 op.key.2.1)
  | .ms op f => f.word (BitVec.ofNat 8 op.key.2.1)
  | _ => 0

/-- A word of the matrix stream. -/
def Code.isMatrix : Code → Bool
  | .mx _ _ | .md _ _ | .mc _ _ | .mq _ _ | .ms _ _ => true
  | _ => false

end Sys2Proof
end

