-- ==== Sys2Proof/WellFormed.lean ====
section
/-! DEFINITION. Which decoded words are instructions: the fields name an assigned form, and every check of R56 that
belongs to the word itself passes; which events can be. -/

namespace Sys2Proof

/-- R56 steps 4 to 11 for the fields of a group instruction under its row; `op` names the instruction. -/
def Code.groupOk (e : DecEnv) (c : Code) : Bool :=
  let w := c.word
  let lit := c.litField
  match c with
  | .v op _ => (vRow (wClass w) (wFmt w == 1) (wMinor w)).any fun r =>
      r.op == op && ((r.checks e (wFmt w == 1) w lit).first == none)
  | .ma op _ => (mRow (wClass w) (wMinor w)).any fun r => r.op == op && ((r.checks e w lit).first == none)
  | .rt op _ => (rRow (wMinor w)).any fun r => r.op == op && ((r.checks w).first == none)
  | .br op _ => (bRow (wClass w) (wMinor w)).any fun r => r.op == op && ((r.checks w lit).first == none)
  | .sp op f => (sRow (wClass w) (wMinor w)).any fun r =>
      r.op f == op && !r.priv e w && ((r.checks e w).first == none)
  | .en op _ => (eRow (wClass w) (wMinor w)).any fun r => r.op == op && ((r.checks e w).first == none)
  | .ba op _ => (aRow (wClass w) (wMinor w)).any fun r =>
      r.form (wBkind w) == some op && ((r.checks w lit).first == none)
  | _ => false

/-- R61 for the fields of a matrix instruction. -/
def Code.matrixOk (c : Code) : Bool :=
  match c with
  | .mx op f => mxOp 0 (mwMop c.mword) == some op && f.ok
  | .md op f => mxOp 1 (mwMop c.mword) == some op && f.ok op
  | .mc op f => mxOp 2 (mwMop c.mword) == some op && f.ok op
  | .mq op f => mxOp 3 (mwMop c.mword) == some op && f.ok op
  | .ms op _ => mxOp 4 (mwMop c.mword) == some op
  | _ => false

/-- A decoded word is an instruction for the issuing group; a word without a literal holds 0 in the literal's place. -/
def Code.wf (e : DecEnv) (c : Code) : Bool :=
  if c.isMatrix then c.matrixOk else c.groupOk e && (c.literal.isSome || c.litField == 0)

end Sys2Proof
end

