-- ==== Sys2Proof/Decode.lean ====
section
/-! DEFINITION. Decoding: total on any words and bytes, rejecting by name; then the encoder. -/

namespace Sys2Proof

/-- Why a word is no instruction (R56, R61): ILLENC with its subcode, PRIV, SYSENC, MXENC, or a stream that ends
inside the word. -/
inductive Fate where
  | ill (sub : Nat)
  | priv
  | sysenc
  | mxenc
  | short
deriving DecidableEq, Repr

/-- The formats a class accepts (R52), by FMT code. -/
def classFmts (cls : BitVec 4) : List Nat :=
  match cls.toNat with
  | 0 => [0, 1] | 1 => [3, 4] | 2 => [0] | 3 => [0] | 4 => [2, 1] | 5 => [2] | 6 => [2, 6] | 7 => [5, 2] | 8 => [0]
  | 9 => [3, 4] | 10 => [5] | 11 => [5, 4] | 12 => [4] | _ => []

/-- A word whose checks are made: the instruction, or the fate of the first check that fails. -/
def checked (sys : Bool) (c : Checks) (x : Option Code) : Except Fate Code :=
  match c.first with
  | some sub => .error (if sys then .sysenc else .ill sub)
  | none => match x with
    | some i => .ok i
    | none => .error (.ill 0x05)

/-- The group word `w` with its literal `lit`, decoded for an issuing group (R56 steps 1 to 11). -/
def decodeCode (e : DecEnv) (w lit : DWord) : Except Fate Code :=
  let cls := wClass w
  let fmt := (wFmt w).toNat
  let minor := wMinor w
  if 13 ≤ cls.toNat then .error (.ill 0x01)
  else if !(classFmts cls).contains fmt then .error (.ill 0x02)
  else if fmt ≤ 1 then
    match vRow cls (fmt == 1) minor with
    | none => .error (.ill 0x03)
    | some r => checked false (r.checks e (fmt == 1) w lit) ((VF.ofWord w lit).map (.v r.op))
  else if fmt == 2 then
    if cls == 5 then
      match rRow minor with
      | none => .error (.ill 0x03)
      | some r => checked false (r.checks w) ((RTF.ofWord w lit).map (.rt r.op))
    else
      match mRow cls minor with
      | none => .error (.ill 0x03)
      | some r => checked false (r.checks e w lit) ((MAF.ofWord w lit).map (.ma r.op))
  else if fmt == 3 then
    match bRow cls minor with
    | none => .error (.ill 0x03)
    | some r => checked false (r.checks w lit) (some (.br r.op (BRF.ofWord w lit)))
  else if fmt == 4 then
    match sRow cls minor with
    | none => .error (.ill 0x03)
    | some r =>
      if r.priv e w then .error .priv
      else checked (cls == 12) (r.checks e w) (some (.sp (r.op (SPF.ofWord w)) (SPF.ofWord w)))
  else if fmt == 5 then
    match eRow cls minor with
    | none => .error (.ill 0x03)
    | some r => checked false (r.checks e w) ((ENF.ofWord w).map (.en r.op))
  else
    match aRow cls minor with
    | none => .error (.ill 0x03)
    | some r => checked false (r.checks w lit) ((r.form (wBkind w)).map fun op => .ba op (BAF.ofWord w lit))

/-- The operands a group word's fields name, as far as steps 1 to 3 of R56 let them be known (R74). -/
def wordOpnds (e : DecEnv) (w : DWord) : Opnds :=
  let cls := wClass w
  let minor := wMinor w
  let no : Opnds := { d := .none, a := .none, b := .none, c := .none }
  if !(classFmts cls).contains (wFmt w).toNat then no
  else match (wFmt w).toNat with
  | 0 => ((vRow cls false minor).map (·.opnds e false w)).getD no
  | 1 => ((vRow cls true minor).map (·.opnds e true w)).getD no
  | 2 => if cls == 5 then ((rRow minor).map (·.opnds w)).getD no else ((mRow cls minor).map (·.opnds e w)).getD no
  | 3 => ((bRow cls minor).map (·.opnds w)).getD no
  | 4 => ((sRow cls minor).map (·.opnds w)).getD no
  | 5 => ((eRow cls minor).map (·.opnds e w)).getD no
  | 6 => ((aRow cls minor).map (·.opnds w)).getD no
  | _ => no

/-- The matrix word `w`, decoded; none is MXENC (R61). -/
def decodeMatrix (w : QWord) : Option Code :=
  if !mwReservedOk w then none
  else match mxOp (mwMf w) (mwMop w) with
  | none => none
  | some op =>
    match (mwMf w).toNat with
    | 0 => (MXF.ofWord w).bind fun f => if f.ok then some (.mx op f) else none
    | 1 => (MDF.ofWord w).bind fun f => if f.ok op then some (.md op f) else none
    | 2 => if (MCF.ofWord w).ok op then some (.mc op (MCF.ofWord w)) else none
    | 3 => if (MQF.ofWord w).ok op then some (.mq op (MQF.ofWord w)) else none
    | _ => some (.ms op (MSF.ofWord w))

/-- The little-endian value of bytes (R4). -/
def leNat : List Byte → Nat
  | [] => 0
  | b :: bs => b.toNat + 256 * leNat bs

/-- The `n` little-endian bytes of a value. -/
def leBytes : Nat → Nat → List Byte
  | 0, _ => []
  | n + 1, v => BitVec.ofNat 8 v :: leBytes n (v / 256)

/-- The next instruction of a group stream of bytes, and its size (R33): a word, and its literal where L = 1. -/
def decodeBytes (e : DecEnv) (bs : List Byte) : Except Fate (Code × Nat) :=
  if bs.length < 8 then .error .short
  else
    let w := BitVec.ofNat 64 (leNat (bs.take 8))
    if wL w then
      if bs.length < 16 then .error .short
      else (decodeCode e w (BitVec.ofNat 64 (leNat ((bs.drop 8).take 8)))).map (·, 16)
    else (decodeCode e w 0).map (·, 8)

/-- The next instruction of a matrix stream of bytes (R57). -/
def decodeMatrixBytes (bs : List Byte) : Except Fate Code :=
  if bs.length < 16 then .error .short
  else match decodeMatrix (BitVec.ofNat 128 (leNat (bs.take 16))) with
    | some c => .ok c
    | none => .error .mxenc

/-! ## From names to the constructors of the opcode table

A constructor with fields beyond the 245th cannot be built by compiled code, so these two functions are for the
kernel only (Lean's runtime numbers constructors with one byte); the step runs the decoded word itself. -/

noncomputable def vInstr (op : Op) (f : VF) : Option Instr :=
  match op with
  | .addIntVr => some (.addIntVr f)
  | .addIntUr => some (.addIntUr f)
  | .subIntVr => some (.subIntVr f)
  | .subIntUr => some (.subIntUr f)
  | .mulIntVr => some (.mulIntVr f)
  | .mulIntUr => some (.mulIntUr f)
  | .mulhiVr => some (.mulhiVr f)
  | .mulhiUr => some (.mulhiUr f)
  | .madVr => some (.madVr f)
  | .madUr => some (.madUr f)
  | .divIntVr => some (.divIntVr f)
  | .divIntUr => some (.divIntUr f)
  | .remVr => some (.remVr f)
  | .remUr => some (.remUr f)
  | .minIntVr => some (.minIntVr f)
  | .minIntUr => some (.minIntUr f)
  | .maxIntVr => some (.maxIntVr f)
  | .maxIntUr => some (.maxIntUr f)
  | .absIntVr => some (.absIntVr f)
  | .absIntUr => some (.absIntUr f)
  | .negIntVr => some (.negIntVr f)
  | .negIntUr => some (.negIntUr f)
  | .andVr => some (.andVr f)
  | .andUr => some (.andUr f)
  | .orVr => some (.orVr f)
  | .orUr => some (.orUr f)
  | .xorVr => some (.xorVr f)
  | .xorUr => some (.xorUr f)
  | .notVr => some (.notVr f)
  | .notUr => some (.notUr f)
  | .shlVr => some (.shlVr f)
  | .shlUr => some (.shlUr f)
  | .shrVr => some (.shrVr f)
  | .shrUr => some (.shrUr f)
  | .rotVr => some (.rotVr f)
  | .rotUr => some (.rotUr f)
  | .popcVr => some (.popcVr f)
  | .popcUr => some (.popcUr f)
  | .clzVr => some (.clzVr f)
  | .clzUr => some (.clzUr f)
  | .brevVr => some (.brevVr f)
  | .brevUr => some (.brevUr f)
  | .bfeVr => some (.bfeVr f)
  | .bfeUr => some (.bfeUr f)
  | .bfiVr => some (.bfiVr f)
  | .bfiUr => some (.bfiUr f)
  | .cmpIntVr => some (.cmpIntVr f)
  | .cmpIntUr => some (.cmpIntUr f)
  | .selVr => some (.selVr f)
  | .selUr => some (.selUr f)
  | .movVr => some (.movVr f)
  | .movUr => some (.movUr f)
  | .leaVr => some (.leaVr f)
  | .leaUr => some (.leaUr f)
  | .extVr => some (.extVr f)
  | .extUr => some (.extUr f)
  | .dp4Vr => some (.dp4Vr f)
  | .dp4Ur => some (.dp4Ur f)
  | .mset => some (.mset f)
  | .mget => some (.mget f)
  | .mlog => some (.mlog f)
  | .addFloat => some (.addFloat f)
  | .subFloat => some (.subFloat f)
  | .mulFloat => some (.mulFloat f)
  | .fma => some (.fma f)
  | .fms => some (.fms f)
  | .fnma => some (.fnma f)
  | .divFloat => some (.divFloat f)
  | .sqrt => some (.sqrt f)
  | .minFloat => some (.minFloat f)
  | .maxFloat => some (.maxFloat f)
  | .absFloat => some (.absFloat f)
  | .negFloat => some (.negFloat f)
  | .cpys => some (.cpys f)
  | .cmpFloat => some (.cmpFloat f)
  | .fcls => some (.fcls f)
  | .pres => some (.pres f)
  | .cvt => some (.cvt f)
  | .rint => some (.rint f)
  | .rcp => some (.rcp f)
  | .rsqrt => some (.rsqrt f)
  | .exp2 => some (.exp2 f)
  | .log2 => some (.log2 f)
  | .sinpi => some (.sinpi f)
  | .cospi => some (.cospi f)
  | .tanh => some (.tanh f)
  | .sigm => some (.sigm f)
  | .rsum => some (.rsum f)
  | .rmin => some (.rmin f)
  | .rmax => some (.rmax f)
  | .rcnt => some (.rcnt f)
  | .shfl => some (.shfl f)
  | .shup => some (.shup f)
  | .shdn => some (.shdn f)
  | .shxr => some (.shxr f)
  | .shrt => some (.shrt f)
  | .prm2 => some (.prm2 f)
  | .rfal => some (.rfal f)
  | .rfau => some (.rfau f)
  | .insl => some (.insl f)
  | .bprm => some (.bprm f)
  | .zip2 => some (.zip2 f)
  | .zip3 => some (.zip3 f)
  | .zip4 => some (.zip4 f)
  | .unz2 => some (.unz2 f)
  | .unz3 => some (.unz3 f)
  | .unz4 => some (.unz4 f)
  | .pmake => some (.pmake f)
  | .padd => some (.padd f)
  | .pmov => some (.pmov f)
  | .pget => some (.pget f)
  | .fset => some (.fset f)
  | .fget => some (.fget f)
  | .xset => some (.xset f)
  | .xget => some (.xget f)
  | .xid => some (.xid f)
  | .xinv => some (.xinv f)
  | .xprm => some (.xprm f)
  | .scalc => some (.scalc f)
  | .scval => some (.scval f)
  | .scmul => some (.scmul f)
  | .qnt => some (.qnt f)
  | .dqnt => some (.dqnt f)
  | .ndot => some (.ndot f)
  | .namax => some (.namax f)
  | _ => none

noncomputable def spInstr (op : Op) (f : SPF) : Option Instr :=
  match op with
  | .xacq => some (.xacq f)
  | .xrel => some (.xrel f)
  | .donate => some (.donate f)
  | .jmpr => some (.jmpr f)
  | .callr => some (.callr f)
  | .ret => some (.ret f)
  | .join => some (.join f)
  | .exit => some (.exit f)
  | .jmpv => some (.jmpv f)
  | .mact => some (.mact f)
  | .nop => some (.nop f)
  | .yield => some (.yield f)
  | .lcrd => some (.lcrd f)
  | .lcwr => some (.lcwr f)
  | .fjoin => some (.fjoin f)
  | .fleave => some (.fleave f)
  | .fvote => some (.fvote f)
  | .fcnt => some (.fcnt f)
  | .fpend => some (.fpend f)
  | .prioget => some (.prioget f)
  | .prioset => some (.prioset f)
  | .qyield => some (.qyield f)
  | .preq => some (.preq f)
  | .grdget => some (.grdget f)
  | .tret => some (.tret f)
  | .tretR => some (.tretR f)
  | .tretRp => some (.tretRp f)
  | .scall => some (.scall f)
  | .srd => some (.srd f)
  | .swr => some (.swr f)
  | .fwait => some (.fwait f)
  | .frsm => some (.frsm f)
  | .fkill => some (.fkill f)
  | .tdisp => some (.tdisp f)
  | .fvots => some (.fvots f)
  | .tlbinv => some (.tlbinv f)
  | .xprobe => some (.xprobe f)
  | .dirrd => some (.dirrd f)
  | .monrd => some (.monrd f)
  | .stest => some (.stest f)
  | .recctlStatus => some (.recctlStatus f)
  | .recctlMarker => some (.recctlMarker f)
  | .recctlStop => some (.recctlStop f)
  | .elog => some (.elog f)
  | .tstop => some (.tstop f)
  | .tgo => some (.tgo f)
  | _ => none

noncomputable def brInstr (op : Op) (f : BRF) : Option Instr :=
  match op with
  | .bra => some (.bra f)
  | .brt => some (.brt f)
  | .brf => some (.brf f)
  | .bany => some (.bany f)
  | .ball => some (.ball f)
  | .call => some (.call f)
  | .loop => some (.loop f)
  | .ldec => some (.ldec f)
  | .lexit => some (.lexit f)
  | .cbr => some (.cbr f)
  | _ => none

noncomputable def maInstr (op : Op) (f : MAF) : Option Instr :=
  match op with
  | .ld => some (.ld f)
  | .st => some (.st f)
  | .ldu => some (.ldu f)
  | .stu => some (.stu f)
  | .pld => some (.pld f)
  | .pst => some (.pst f)
  | .pchk => some (.pchk f)
  | .pref => some (.pref f)
  | .aadd => some (.aadd f)
  | .amin => some (.amin f)
  | .amax => some (.amax f)
  | .aand => some (.aand f)
  | .aor => some (.aor f)
  | .axor => some (.axor f)
  | .axch => some (.axch f)
  | .acas => some (.acas f)
  | .cgth => some (.cgth f)
  | _ => none

noncomputable def rtInstr (op : Op) (f : RTF) : Option Instr :=
  match op with
  | .pwiden => some (.pwiden f)
  | .pnarrow => some (.pnarrow f)
  | .pwidens => some (.pwidens f)
  | .pnarrows => some (.pnarrows f)
  | _ => none

noncomputable def baInstr (op : Op) (f : BAF) : Option Instr :=
  match op with
  | .binitTeam => some (.binitTeam f)
  | .binitObject => some (.binitObject f)
  | .barriveTeam => some (.barriveTeam f)
  | .barriveObject => some (.barriveObject f)
  | .barrivePaddock => some (.barrivePaddock f)
  | .bwaitTeam => some (.bwaitTeam f)
  | .bwaitObject => some (.bwaitObject f)
  | .bwaitPaddock => some (.bwaitPaddock f)
  | .bsyncTeam => some (.bsyncTeam f)
  | .bsyncPaddock => some (.bsyncPaddock f)
  | .bbytes => some (.bbytes f)
  | .btest => some (.btest f)
  | .bdropTeam => some (.bdropTeam f)
  | .bdropObject => some (.bdropObject f)
  | _ => none

noncomputable def enInstr (op : Op) (f : ENF) : Option Instr :=
  match op with
  | .cpy => some (.cpy f)
  | .cpy2d => some (.cpy2d f)
  | .cfill => some (.cfill f)
  | .ncopy => some (.ncopy f)
  | .cbatch => some (.cbatch f)
  | .cwait => some (.cwait f)
  | .cstat => some (.cstat f)
  | .accld => some (.accld f)
  | .accst => some (.accst f)
  | .accrd => some (.accrd f)
  | .accwr => some (.accwr f)
  | .tset => some (.tset f)
  | .tget => some (.tget f)
  | .collAr => some (.collAr f)
  | .collRs => some (.collRs f)
  | .collAg => some (.collAg f)
  | .collBc => some (.collBc f)
  | .collRd => some (.collRd f)
  | .collBar => some (.collBar f)
  | .halo => some (.halo f)
  | .putr => some (.putr f)
  | .getr => some (.getr f)
  | .clstat => some (.clstat f)
  | .launch => some (.launch f)
  | .depdec => some (.depdec f)
  | .spawn => some (.spawn f)
  | .sflush => some (.sflush f)
  | _ => none

noncomputable def mxInstr (op : Op) (f : MXF) : Option Instr :=
  match op with
  | .mma => some (.mma f)
  | .mms => some (.mms f)
  | .mmat => some (.mmat f)
  | _ => none

noncomputable def mdInstr (op : Op) (f : MDF) : Option Instr :=
  match op with
  | .mdrn => some (.mdrn f)
  | .mdrz => some (.mdrz f)
  | .mldc => some (.mldc f)
  | .mzero => some (.mzero f)
  | _ => none

noncomputable def mcInstr (op : Op) (f : MCF) : Option Instr :=
  match op with
  | .mjmp => some (.mjmp f)
  | .mbnz => some (.mbnz f)
  | .mdjnz => some (.mdjnz f)
  | .mblt => some (.mblt f)
  | _ => none

noncomputable def mqInstr (op : Op) (f : MQF) : Option Instr :=
  match op with
  | .mqset => some (.mqset f)
  | .mqadd => some (.mqadd f)
  | .mqsub => some (.mqsub f)
  | .mqmul => some (.mqmul f)
  | .mqshl => some (.mqshl f)
  | .mqand => some (.mqand f)
  | .mqld => some (.mqld f)
  | _ => none

noncomputable def msInstr (op : Op) (f : MSF) : Option Instr :=
  match op with
  | .msync => some (.msync f)
  | .mend => some (.mend f)
  | _ => none

/-- The constructor a decoded word stands for. -/
noncomputable def Code.instr : Code → Option Instr
  | .v op f => vInstr op f
  | .ma op f => maInstr op f
  | .rt op f => rtInstr op f
  | .br op f => brInstr op f
  | .sp op f => spInstr op f
  | .en op f => enInstr op f
  | .ba op f => baInstr op f
  | .mx op f => mxInstr op f
  | .md op f => mdInstr op f
  | .mc op f => mcInstr op f
  | .mq op f => mqInstr op f
  | .ms op f => msInstr op f

/-- The decoded word of a constructor; an event is no word. -/
def Instr.code : Instr → Option Code
  | .addIntVr f => some (.v .addIntVr f)
  | .addIntUr f => some (.v .addIntUr f)
  | .subIntVr f => some (.v .subIntVr f)
  | .subIntUr f => some (.v .subIntUr f)
  | .mulIntVr f => some (.v .mulIntVr f)
  | .mulIntUr f => some (.v .mulIntUr f)
  | .mulhiVr f => some (.v .mulhiVr f)
  | .mulhiUr f => some (.v .mulhiUr f)
  | .madVr f => some (.v .madVr f)
  | .madUr f => some (.v .madUr f)
  | .divIntVr f => some (.v .divIntVr f)
  | .divIntUr f => some (.v .divIntUr f)
  | .remVr f => some (.v .remVr f)
  | .remUr f => some (.v .remUr f)
  | .minIntVr f => some (.v .minIntVr f)
  | .minIntUr f => some (.v .minIntUr f)
  | .maxIntVr f => some (.v .maxIntVr f)
  | .maxIntUr f => some (.v .maxIntUr f)
  | .absIntVr f => some (.v .absIntVr f)
  | .absIntUr f => some (.v .absIntUr f)
  | .negIntVr f => some (.v .negIntVr f)
  | .negIntUr f => some (.v .negIntUr f)
  | .andVr f => some (.v .andVr f)
  | .andUr f => some (.v .andUr f)
  | .orVr f => some (.v .orVr f)
  | .orUr f => some (.v .orUr f)
  | .xorVr f => some (.v .xorVr f)
  | .xorUr f => some (.v .xorUr f)
  | .notVr f => some (.v .notVr f)
  | .notUr f => some (.v .notUr f)
  | .shlVr f => some (.v .shlVr f)
  | .shlUr f => some (.v .shlUr f)
  | .shrVr f => some (.v .shrVr f)
  | .shrUr f => some (.v .shrUr f)
  | .rotVr f => some (.v .rotVr f)
  | .rotUr f => some (.v .rotUr f)
  | .popcVr f => some (.v .popcVr f)
  | .popcUr f => some (.v .popcUr f)
  | .clzVr f => some (.v .clzVr f)
  | .clzUr f => some (.v .clzUr f)
  | .brevVr f => some (.v .brevVr f)
  | .brevUr f => some (.v .brevUr f)
  | .bfeVr f => some (.v .bfeVr f)
  | .bfeUr f => some (.v .bfeUr f)
  | .bfiVr f => some (.v .bfiVr f)
  | .bfiUr f => some (.v .bfiUr f)
  | .cmpIntVr f => some (.v .cmpIntVr f)
  | .cmpIntUr f => some (.v .cmpIntUr f)
  | .selVr f => some (.v .selVr f)
  | .selUr f => some (.v .selUr f)
  | .movVr f => some (.v .movVr f)
  | .movUr f => some (.v .movUr f)
  | .leaVr f => some (.v .leaVr f)
  | .leaUr f => some (.v .leaUr f)
  | .extVr f => some (.v .extVr f)
  | .extUr f => some (.v .extUr f)
  | .dp4Vr f => some (.v .dp4Vr f)
  | .dp4Ur f => some (.v .dp4Ur f)
  | .mset f => some (.v .mset f)
  | .mget f => some (.v .mget f)
  | .mlog f => some (.v .mlog f)
  | .xacq f => some (.sp .xacq f)
  | .xrel f => some (.sp .xrel f)
  | .donate f => some (.sp .donate f)
  | .bra f => some (.br .bra f)
  | .brt f => some (.br .brt f)
  | .brf f => some (.br .brf f)
  | .bany f => some (.br .bany f)
  | .ball f => some (.br .ball f)
  | .call f => some (.br .call f)
  | .loop f => some (.br .loop f)
  | .ldec f => some (.br .ldec f)
  | .lexit f => some (.br .lexit f)
  | .jmpr f => some (.sp .jmpr f)
  | .callr f => some (.sp .callr f)
  | .ret f => some (.sp .ret f)
  | .join f => some (.sp .join f)
  | .exit f => some (.sp .exit f)
  | .jmpv f => some (.sp .jmpv f)
  | .mact f => some (.sp .mact f)
  | .nop f => some (.sp .nop f)
  | .yield f => some (.sp .yield f)
  | .lcrd f => some (.sp .lcrd f)
  | .lcwr f => some (.sp .lcwr f)
  | .addFloat f => some (.v .addFloat f)
  | .subFloat f => some (.v .subFloat f)
  | .mulFloat f => some (.v .mulFloat f)
  | .fma f => some (.v .fma f)
  | .fms f => some (.v .fms f)
  | .fnma f => some (.v .fnma f)
  | .divFloat f => some (.v .divFloat f)
  | .sqrt f => some (.v .sqrt f)
  | .minFloat f => some (.v .minFloat f)
  | .maxFloat f => some (.v .maxFloat f)
  | .absFloat f => some (.v .absFloat f)
  | .negFloat f => some (.v .negFloat f)
  | .cpys f => some (.v .cpys f)
  | .cmpFloat f => some (.v .cmpFloat f)
  | .fcls f => some (.v .fcls f)
  | .pres f => some (.v .pres f)
  | .cvt f => some (.v .cvt f)
  | .rint f => some (.v .rint f)
  | .rcp f => some (.v .rcp f)
  | .rsqrt f => some (.v .rsqrt f)
  | .exp2 f => some (.v .exp2 f)
  | .log2 f => some (.v .log2 f)
  | .sinpi f => some (.v .sinpi f)
  | .cospi f => some (.v .cospi f)
  | .tanh f => some (.v .tanh f)
  | .sigm f => some (.v .sigm f)
  | .rsum f => some (.v .rsum f)
  | .rmin f => some (.v .rmin f)
  | .rmax f => some (.v .rmax f)
  | .rcnt f => some (.v .rcnt f)
  | .shfl f => some (.v .shfl f)
  | .shup f => some (.v .shup f)
  | .shdn f => some (.v .shdn f)
  | .shxr f => some (.v .shxr f)
  | .shrt f => some (.v .shrt f)
  | .prm2 f => some (.v .prm2 f)
  | .rfal f => some (.v .rfal f)
  | .rfau f => some (.v .rfau f)
  | .insl f => some (.v .insl f)
  | .bprm f => some (.v .bprm f)
  | .zip2 f => some (.v .zip2 f)
  | .zip3 f => some (.v .zip3 f)
  | .zip4 f => some (.v .zip4 f)
  | .unz2 f => some (.v .unz2 f)
  | .unz3 f => some (.v .unz3 f)
  | .unz4 f => some (.v .unz4 f)
  | .ld f => some (.ma .ld f)
  | .st f => some (.ma .st f)
  | .ldu f => some (.ma .ldu f)
  | .stu f => some (.ma .stu f)
  | .pld f => some (.ma .pld f)
  | .pst f => some (.ma .pst f)
  | .pchk f => some (.ma .pchk f)
  | .pref f => some (.ma .pref f)
  | .pmake f => some (.v .pmake f)
  | .padd f => some (.v .padd f)
  | .pmov f => some (.v .pmov f)
  | .pget f => some (.v .pget f)
  | .pwiden f => some (.rt .pwiden f)
  | .pnarrow f => some (.rt .pnarrow f)
  | .pwidens f => some (.rt .pwidens f)
  | .pnarrows f => some (.rt .pnarrows f)
  | .aadd f => some (.ma .aadd f)
  | .amin f => some (.ma .amin f)
  | .amax f => some (.ma .amax f)
  | .aand f => some (.ma .aand f)
  | .aor f => some (.ma .aor f)
  | .axor f => some (.ma .axor f)
  | .axch f => some (.ma .axch f)
  | .acas f => some (.ma .acas f)
  | .binitTeam f => some (.ba .binitTeam f)
  | .binitObject f => some (.ba .binitObject f)
  | .barriveTeam f => some (.ba .barriveTeam f)
  | .barriveObject f => some (.ba .barriveObject f)
  | .barrivePaddock f => some (.ba .barrivePaddock f)
  | .bwaitTeam f => some (.ba .bwaitTeam f)
  | .bwaitObject f => some (.ba .bwaitObject f)
  | .bwaitPaddock f => some (.ba .bwaitPaddock f)
  | .bsyncTeam f => some (.ba .bsyncTeam f)
  | .bsyncPaddock f => some (.ba .bsyncPaddock f)
  | .bbytes f => some (.ba .bbytes f)
  | .btest f => some (.ba .btest f)
  | .bdropTeam f => some (.ba .bdropTeam f)
  | .bdropObject f => some (.ba .bdropObject f)
  | .cpy f => some (.en .cpy f)
  | .cpy2d f => some (.en .cpy2d f)
  | .cfill f => some (.en .cfill f)
  | .cgth f => some (.ma .cgth f)
  | .ncopy f => some (.en .ncopy f)
  | .cbatch f => some (.en .cbatch f)
  | .cwait f => some (.en .cwait f)
  | .cstat f => some (.en .cstat f)
  | .accld f => some (.en .accld f)
  | .accst f => some (.en .accst f)
  | .accrd f => some (.en .accrd f)
  | .accwr f => some (.en .accwr f)
  | .fset f => some (.v .fset f)
  | .fget f => some (.v .fget f)
  | .xset f => some (.v .xset f)
  | .xget f => some (.v .xget f)
  | .xid f => some (.v .xid f)
  | .xinv f => some (.v .xinv f)
  | .xprm f => some (.v .xprm f)
  | .scalc f => some (.v .scalc f)
  | .scval f => some (.v .scval f)
  | .scmul f => some (.v .scmul f)
  | .qnt f => some (.v .qnt f)
  | .dqnt f => some (.v .dqnt f)
  | .ndot f => some (.v .ndot f)
  | .namax f => some (.v .namax f)
  | .cbr f => some (.br .cbr f)
  | .fjoin f => some (.sp .fjoin f)
  | .fleave f => some (.sp .fleave f)
  | .fvote f => some (.sp .fvote f)
  | .fcnt f => some (.sp .fcnt f)
  | .fpend f => some (.sp .fpend f)
  | .tset f => some (.en .tset f)
  | .tget f => some (.en .tget f)
  | .collAr f => some (.en .collAr f)
  | .collRs f => some (.en .collRs f)
  | .collAg f => some (.en .collAg f)
  | .collBc f => some (.en .collBc f)
  | .collRd f => some (.en .collRd f)
  | .collBar f => some (.en .collBar f)
  | .halo f => some (.en .halo f)
  | .putr f => some (.en .putr f)
  | .getr f => some (.en .getr f)
  | .clstat f => some (.en .clstat f)
  | .launch f => some (.en .launch f)
  | .depdec f => some (.en .depdec f)
  | .spawn f => some (.en .spawn f)
  | .sflush f => some (.en .sflush f)
  | .prioget f => some (.sp .prioget f)
  | .prioset f => some (.sp .prioset f)
  | .qyield f => some (.sp .qyield f)
  | .preq f => some (.sp .preq f)
  | .grdget f => some (.sp .grdget f)
  | .tret f => some (.sp .tret f)
  | .tretR f => some (.sp .tretR f)
  | .tretRp f => some (.sp .tretRp f)
  | .scall f => some (.sp .scall f)
  | .srd f => some (.sp .srd f)
  | .swr f => some (.sp .swr f)
  | .fwait f => some (.sp .fwait f)
  | .frsm f => some (.sp .frsm f)
  | .fkill f => some (.sp .fkill f)
  | .tdisp f => some (.sp .tdisp f)
  | .fvots f => some (.sp .fvots f)
  | .tlbinv f => some (.sp .tlbinv f)
  | .xprobe f => some (.sp .xprobe f)
  | .dirrd f => some (.sp .dirrd f)
  | .monrd f => some (.sp .monrd f)
  | .stest f => some (.sp .stest f)
  | .recctlStatus f => some (.sp .recctlStatus f)
  | .recctlMarker f => some (.sp .recctlMarker f)
  | .recctlStop f => some (.sp .recctlStop f)
  | .elog f => some (.sp .elog f)
  | .tstop f => some (.sp .tstop f)
  | .tgo f => some (.sp .tgo f)
  | .mma f => some (.mx .mma f)
  | .mms f => some (.mx .mms f)
  | .mmat f => some (.mx .mmat f)
  | .mdrn f => some (.md .mdrn f)
  | .mdrz f => some (.md .mdrz f)
  | .mldc f => some (.md .mldc f)
  | .mzero f => some (.md .mzero f)
  | .mjmp f => some (.mc .mjmp f)
  | .mbnz f => some (.mc .mbnz f)
  | .mdjnz f => some (.mc .mdjnz f)
  | .mblt f => some (.mc .mblt f)
  | .mqset f => some (.mq .mqset f)
  | .mqadd f => some (.mq .mqadd f)
  | .mqsub f => some (.mq .mqsub f)
  | .mqmul f => some (.mq .mqmul f)
  | .mqshl f => some (.mq .mqshl f)
  | .mqand f => some (.mq .mqand f)
  | .mqld f => some (.mq .mqld f)
  | .msync f => some (.ms .msync f)
  | .mend f => some (.ms .mend f)
  | _ => none

/-- A well-formed instruction word for the issuing group. -/
def Instr.wf (e : DecEnv) (i : Instr) : Bool := i.code.any (·.wf e)

/-- The group word with its literal, decoded to a constructor. -/
noncomputable def decode (e : DecEnv) (w lit : DWord) : Option Instr :=
  match decodeCode e w lit with
  | .ok c => c.instr
  | .error _ => none

/-- The matrix word, decoded to a constructor. -/
noncomputable def decodeMx (w : QWord) : Option Instr := (decodeMatrix w).bind Code.instr

/-! ## The encoder -/

/-- The bytes of a decoded word, as the streams hold them (R33, R57). -/
def Code.bytes (c : Code) : List Byte :=
  if c.isMatrix then leBytes 16 c.mword.toNat
  else leBytes 8 c.word.toNat ++ (match c.literal with | some l => leBytes 8 l.toNat | none => [])

/-- The bytes of an instruction; an event has none. -/
def encode (i : Instr) : List Byte := (i.code.map Code.bytes).getD []

/-! ## The opcode table's numbering -/

/-- The environment of the table's question: the most privileged reader, with valid formats in f0-f7. -/
def tableEnv (user : Bool) : DecEnv :=
  { user, diag := true, fs := Vector.replicate 8 0x00078341#32 }

/-- The code the decoder reads from an instruction whose bits are `w`, the first word lowest; a two-word instruction
is a matrix word where it is a legal one, and else a group word with its literal. -/
def decodeTableCode (nbits w : Nat) : Option Code :=
  let group : Option Code :=
    match decodeCode (tableEnv false) (BitVec.ofNat 64 w) (BitVec.ofNat 64 (w / 2 ^ 64)) with
    | .ok c => some c
    | .error _ => match decodeCode (tableEnv true) (BitVec.ofNat 64 w) (BitVec.ofNat 64 (w / 2 ^ 64)) with
      | .ok c => some c
      | .error _ => none
  if nbits ≤ 64 then group
  else match decodeMatrix (BitVec.ofNat 128 w) with
    | some c => some c
    | none => group

/-- The instruction the decoder reads from bits numbered as the opcode table numbers them. -/
noncomputable def decodeTableWord (nbits w : Nat) : Option Instr := (decodeTableCode nbits w).bind Code.instr

end Sys2Proof
end

