-- ==== Sys2Proof/Machine/Lines.lean ====
section
/-! DEFINITION. The bytes of the pod, the L1 slices and the directory (R24, R25, R221, R222, R237-R247). -/

namespace Sys2Proof.Machine
open Sys2Proof

/-! ## Lists of pairs -/

/-- The value under a key in a list of pairs. -/
def lookupD {α : Type} (l : List (Nat × α)) (k : Nat) (d : α) : α := ((l.find? fun e => e.1 == k).map (·.2)).getD d

/-- The list with the value under a key replaced or added. -/
def insertK {α : Type} (l : List (Nat × α)) (k : Nat) (v : α) : List (Nat × α) :=
  if l.any (fun e => e.1 == k) then l.map fun e => if e.1 == k then (k, v) else e else l ++ [(k, v)]

/-! ## Bytes (R4, R24) -/

/-- The byte at an address of a canonical list; an unlisted byte reads 0 (log 3). -/
def cellGet : List Host.Cell → Nat → Byte
  | [], _ => 0
  | c :: cs, a => if c.1 == a then c.2 else cellGet cs a

/-- The list with the byte at `a` written; canonical if the list was. -/
def cellPut : List Host.Cell → Nat → Byte → List Host.Cell
  | [], a, v => if v == 0 then [] else [(a, v)]
  | c :: cs, a, v =>
    if a < c.1 then (if v == 0 then c :: cs else (a, v) :: c :: cs)
    else if a == c.1 then (if v == 0 then cs else (a, v) :: cs)
    else c :: cellPut cs a v

/-- The canonical form: addresses strictly rising from `lo` on, no byte equal to what an unlisted address reads as. -/
def cellsFrom : Nat → List Host.Cell → Bool
  | _, [] => true
  | lo, c :: cs => lo ≤ c.1 && c.2 != 0 && cellsFrom (c.1 + 1) cs

/-- The canonical form of memory. -/
def Memory.wf (cs : List Host.Cell) : Bool := cellsFrom 0 cs

/-- `n` bytes from `a`. -/
def cellsRead (cs : List Host.Cell) (a : Nat) : Nat → List Byte
  | 0 => []
  | n + 1 => cellGet cs a :: cellsRead cs (a + 1) n

/-- Bytes written from `a` on. -/
def cellsWrite (cs : List Host.Cell) (a : Nat) : List Byte → List Host.Cell
  | [] => cs
  | b :: bs => cellsWrite (cellPut cs a b) (a + 1) bs

/-- Bytes `a` to `a+n-1` cleared. -/
def cellsClear (cs : List Host.Cell) (a n : Nat) : List Host.Cell := cs.filter fun c => c.1 < a || a + n ≤ c.1

/-! ## The physical address space (R25) -/

/-- The package of a physical address. -/
def paPkg (pa : Nat) : Nat := pa / 2 ^ 43

/-- PA[42:0]. -/
def paOff (pa : Nat) : Nat := pa % 2 ^ 43

/-- I/O space (R25). -/
def isIo (pa : Nat) : Bool := 0x70000000000 ≤ paOff pa

/-- DDR-5 (R25). -/
def isDdr (pa : Nat) : Bool := 0x10000000000 ≤ paOff pa && paOff pa < 0x50000000000

/-- The CXL window. -/
def isCxl (pa : Nat) : Bool := 0x50000000000 ≤ paOff pa && paOff pa < 0x70000000000

/-! ## Lines of the L1 slices (R222) -/

def MemSys.line? (m : MemSys) (c ln : Nat) : Option Line := m.lines.find? fun l => l.clus == c && l.line == ln
def MemSys.dropLine (m : MemSys) (c ln : Nat) : MemSys :=
  { m with lines := m.lines.filter fun l => !(l.clus == c && l.line == ln) }
def MemSys.putLine (m : MemSys) (l : Line) : MemSys :=
  let m' := m.dropLine l.clus l.line
  { m' with lines := m'.lines ++ [l] }

/-- The 128 bytes of a line at home. -/
def MemSys.homeData (m : MemSys) (ln : Nat) : LineData := BitVec.ofNat 1024 (leNat (cellsRead m.cells (ln * 128) 128))

/-- Byte `k` of a line image. -/
def lineByte (d : LineData) (k : Nat) : Byte := bits d (8 * k) 8

/-- The bytes of `data` that `mask` picks, merged into a list of cells from `a` on. -/
def mergeCells (a : Nat) (data : LineData) (mask : BitVec 128) (cs : List Host.Cell) : List Host.Cell :=
  (List.range 128).foldl (fun cs k => if bit mask k then cellPut cs (a + k) (lineByte data k) else cs) cs

/-! ## The directory (R241, R242) -/

def MemSys.dirOf (m : MemSys) (ln : Nat) : Dir := (m.dir.find? fun d => d.line == ln).getD { line := ln }
/-- An entry stored; one that says nothing is not kept. -/
def MemSys.putDir (m : MemSys) (d : Dir) : MemSys :=
  let rest := m.dir.filter fun e => e.line != d.line
  { m with dir := if d == { line := d.line } then rest else rest ++ [d] }

/-- A sharer pointer: package [13:5], package-wide cluster [4:0]. -/
def sharerPtr (pkg clus : Nat) : Nat := pkg % 512 * 32 + clus % 32

/-- The coarse bits of a pointer, for a line homed in package `home` (R242). -/
def coarseBits (home p : Nat) : BitVec 96 :=
  if p / 32 == home then 1#96 <<< (p % 32) else 1#96 <<< (32 + p / 32 / 8)

/-- A cluster added as a sharer (R242). -/
def Dir.addSharer (d : Dir) (p : Nat) : Dir :=
  let p0 := (bits d.sharers 0 14).toNat
  let p1 := (bits d.sharers 14 14).toNat
  let home := paPkg (d.line * 128)
  if d.mode == 0 then { d with st := .shr, mode := 1, sharers := BitVec.ofNat 96 p }
  else if d.mode == 1 then
    if p0 == p then { d with st := .shr } else { d with st := .shr, mode := 2, sharers := BitVec.ofNat 96 (p0 + p * 2 ^ 14) }
  else if d.mode == 2 then
    if p0 == p || p1 == p then { d with st := .shr }
    else { d with st := .shr, mode := 3, sharers := coarseBits home p0 ||| coarseBits home p1 ||| coarseBits home p }
  else { d with st := .shr, sharers := d.sharers ||| coarseBits home p }

/-- The entry of an owned line (R242). -/
def Dir.owned (d : Dir) (p : Nat) : Dir := { d with st := .own, mode := 1, sharers := BitVec.ofNat 96 p }

/-- The entry of a line without a tracked copy. -/
def Dir.cleared (d : Dir) : Dir := { d with st := if d.st == .poison then .poison else .inv, mode := 0, sharers := 0 }

/-- A cluster of another package owns the line: its data must come back before anything else (R242). -/
def MemSys.ownedAway (m : MemSys) (me ln : Nat) : Bool :=
  let d := m.dirOf ln
  d.st == .own && (bits d.sharers 5 9).toNat != me

/-- The line is poisoned (R246). -/
def MemSys.poisoned (m : MemSys) (ln : Nat) : Bool := (m.dirOf ln).st == .poison

/-! ## Write-back, recall, invalidation -/

/-- The halves of a CXL line that a write modified (R247). -/
def MemSys.dirtyHalves (m : MemSys) (ln : Nat) (mask : BitVec 128) : MemSys :=
  if !isCxl (ln * 128) then m
  else
    let up (m : MemSys) (h : Nat) : MemSys :=
      if bits mask (64 * h) 64 == 0 then m
      else { m with
        cxl := insertK m.cxl (ln * 2 + h) .m
        cxlDirty := insertK m.cxlDirty (ln * 2 + h) (lookupD m.cxlDirty (ln * 2 + h) 0 ||| bits mask (64 * h) 64) }
    up (up m 0) 1

/-- A write-back reaches home: its bytes and its release record (R237, R245). -/
def MemSys.writeBytes (m : MemSys) (ln : Nat) (data : LineData) (mask : BitVec 128) (rel : Option (Nat × Scope)) : MemSys :=
  if mask == 0 then m
  else ({ m with cells := mergeCells (ln * 128) data mask m.cells }.putDir { m.dirOf ln with rel }).dirtyHalves ln mask

/-- A message between packages noted, to be sent at the end of the step. -/
def MemSys.tell (m : MemSys) (x : HomeMsg) : MemSys := { m with outbox := m.outbox ++ [x] }

/-- The entry names copies outside the home package (R242). -/
def Dir.far (d : Dir) : Bool :=
  let away (k : Nat) : Bool := (bits d.sharers (14 * k + 5) 9).toNat != paPkg (d.line * 128)
  if d.mode == 3 then bits d.sharers 32 64 != 0 else d.mode != 0 && (away 0 || (d.mode == 2 && away 1))

/-- Shared copies in other packages are probed before an access that needs the line alone (R242). -/
def MemSys.probeFar (m : MemSys) (ln : Nat) : MemSys :=
  let d := m.dirOf ln
  if d.st == .shr && d.far then m.tell (.probe d) else m

/-- A line whose owner lies outside its home package, and which no cluster here holds. -/
def MemSys.ownedFar (m : MemSys) (ln : Nat) : Bool :=
  let d := m.dirOf ln
  d.st == .own && d.far && !m.lines.any fun l => l.line == ln && l.st == .tm

/-- A TM line's data written back. -/
def MemSys.backTm (m : MemSys) (l : Line) : MemSys :=
  (m.writeBytes l.line l.data (BitVec.allOnes 128) l.rel).tell
    (.writeBack { line := l.line, data := l.data, mask := BitVec.allOnes 128, rel := l.rel } l.clus)

/-- A tracked copy leaves its cluster, a TM one with its data (R242, R245). -/
def MemSys.leaveTracked (m : MemSys) (l : Line) : MemSys := ((if l.st == .tm then m.backTm l else m).dropLine l.clus l.line)

/-- The TM copies of a line in clusters other than `keep` recalled (R245). -/
def MemSys.recallTm (m : MemSys) (ln : Nat) (keep : Option Nat) : MemSys :=
  (m.lines.filter fun l => l.line == ln && l.st == .tm && some l.clus != keep).foldl (fun m l =>
    let m := m.leaveTracked l
    m.putDir (m.dirOf ln).cleared) m

/-- Every tracked copy of a line in clusters other than `keep` recalled or invalidated (R242). -/
def MemSys.dropTracked (m : MemSys) (ln : Nat) (keep : Option Nat) : MemSys :=
  (m.lines.filter fun l => l.line == ln && (l.st == .tm || l.st == .ts) && some l.clus != keep).foldl
    MemSys.leaveTracked (m.probeFar ln)

/-- Bytes kept until the copy of an owner in another package, which is recalled, has come home (R245). -/
def MemSys.defer (m : MemSys) (d : DirtyBytes) : MemSys := { m with deferred := m.deferred ++ [d] }.tell (.recall d.line)

/-- Dirty bytes of an untracked copy applied at home: the tracked copies are recalled first, so that none of them is
stale (R222, R245). -/
def MemSys.applyDirty (m : MemSys) (ln : Nat) (data : LineData) (mask : BitVec 128) (rel : Option (Nat × Scope)) : MemSys :=
  if m.ownedFar ln then m.defer { line := ln, data, mask, rel }
  else
    let m := m.dropTracked ln none
    (m.putDir (m.dirOf ln).cleared).writeBytes ln data mask rel

/-- The bytes that waited for the owner of line `ln`, applied over its copy in order of arrival (R245). -/
def MemSys.applyDeferred (m : MemSys) (ln : Nat) : MemSys :=
  (m.deferred.filter fun d => d.line == ln).foldl (fun m d => m.applyDirty ln d.data d.mask d.rel)
    { m with deferred := m.deferred.filter fun d => d.line != ln }

/-- The dirty bytes of a copy written back: a TM line's whole, a UD line's marked bytes (R222). -/
def MemSys.writeBack (m : MemSys) (l : Line) : MemSys :=
  match l.st with
  | .tm => m.backTm l
  | .ud => (m.applyDirty l.line l.data l.dirty l.rel).tell (.writeBack { line := l.line, data := l.data, mask := l.dirty, rel := l.rel } l.clus)
  | _ => m

/-- A copy written back and dropped. -/
def MemSys.flush (m : MemSys) (l : Line) : MemSys := (m.writeBack l).dropLine l.clus l.line

/-- Both halves of a CXL line fetched where they are missing, for a copy or for ownership (R247); what DDR-5 or the pool returns is
there to be recorded (R441; log 59). -/
def MemSys.fetchHalves (m : MemSys) (ln : Nat) (own : Bool) : MemSys :=
  if isDdr (ln * 128) then { m with fetched := m.fetched ++ [ln] }
  else if !isCxl (ln * 128) then m
  else
    let up (m : MemSys) (h : Nat) : MemSys :=
      let c := lookupD m.cxl (ln * 2 + h) .i
      let c' := if own then (if c == .m then .m else .e) else if c == .i then .s else c
      { m with cxl := insertK m.cxl (ln * 2 + h) c', fetched := if c == .i && !m.fetched.contains ln then m.fetched ++ [ln] else m.fetched }
    up (up m 0) 1

/-- The home's side of a request (R222, R242): recalls and invalidations, then the directory. -/
def MemSys.atHome (m : MemSys) (pkg c ln : Nat) (keep : Option Nat) (kind : ReqKind) : MemSys :=
  let m := m.fetchHalves ln (kind == .owned)
  let m := if pkg == paPkg (ln * 128) then m else m.tell (.request c ln kind)
  match kind with
  | .untracked => m.recallTm ln keep
  | .shared => let m := m.recallTm ln keep; m.putDir ((m.dirOf ln).addSharer (sharerPtr pkg c))
  | .owned => let m := m.dropTracked ln keep; m.putDir ((m.dirOf ln).owned (sharerPtr pkg c))

/-- A fill installed in the cluster's slice, in the state its kind gives (R222). -/
def MemSys.install (m : MemSys) (c ln : Nat) (kind : ReqKind) : MemSys × Line :=
  let l : Line :=
    { clus := c, line := ln, data := m.homeData ln, dirty := 0, rel := (m.dirOf ln).rel,
      st := match kind with | .untracked => .uc | .shared => .ts | .owned => .tm }
  (m.putLine l, l)

/-- A fill, whole. -/
def MemSys.fill (m : MemSys) (pkg c ln : Nat) (kind : ReqKind) : MemSys × Line :=
  (m.atHome pkg c ln (some c) kind).install c ln kind

/-- The line a load uses (R222): a tracked access first writes back and drops an untracked copy. -/
def MemSys.forLoad (m : MemSys) (pkg c ln : Nat) (tracked : Bool) : MemSys × Line :=
  match m.line? c ln with
  | none => m.fill pkg c ln (if tracked then .shared else .untracked)
  | some l =>
    if tracked && (l.st == .uc || l.st == .ud) then (m.flush l).fill pkg c ln .shared else (m, l)

/-- Ownership of a line the cluster holds TS: the copy is current (R242). -/
def MemSys.upgrade (m : MemSys) (pkg c : Nat) (l : Line) : MemSys × Line :=
  let m := m.atHome pkg c l.line (some c) .owned
  (m.putLine { l with st := .tm }, { l with st := .tm })

/-- The line a store writes (R222), not yet written. -/
def MemSys.forStore (m : MemSys) (pkg c ln : Nat) (tracked : Bool) : MemSys × Line :=
  match m.line? c ln with
  | none => m.fill pkg c ln (if tracked then .owned else .untracked)
  | some l =>
    match l.st with
    | .tm => (m, l)
    | .ts => m.upgrade pkg c l
    | _ => if tracked then (m.flush l).fill pkg c ln .owned else (m, l)

/-- Bytes `k` to `k+n-1` of a line image replaced by those of the number `v`. -/
def putLineBytes (d : LineData) (k n v : Nat) : LineData :=
  let msk : LineData := BitVec.ofNat 1024 (2 ^ (8 * n) - 1) <<< (8 * k)
  (d &&& ~~~msk) ||| ((BitVec.ofNat 1024 (v % 2 ^ (8 * n))) <<< (8 * k))

/-- A line with bytes written and its release record set: none after a plain store (R237). -/
def Line.write (l : Line) (k n v : Nat) (rel : Option (Nat × Scope)) : Line :=
  { l with data := putLineBytes l.data k n v, dirty := l.dirty ||| (BitVec.ofNat 128 (2 ^ n - 1) <<< k), rel,
           st := if l.st == .tm || l.st == .ts then .tm else .ud }

/-- A line evicted from its slice; an owner is cleared (R242). -/
def MemSys.evict (m : MemSys) (l : Line) : MemSys :=
  let m1 := m.flush l
  if l.st == .tm then m1.putDir (m1.dirOf l.line).cleared else m1

/-- Poison cleared from lines that one instruction, command or hardware write covers whole, at home (R438). -/
def MemSys.unpoison (m : MemSys) (lns : List Nat) : MemSys :=
  lns.foldl (fun m ln => if m.poisoned ln then m.putDir { m.dirOf ln with st := .inv } else m) m

/-- The line made ready for an atomic at home (R254): the issuing cluster's untracked copy written back and dropped, every
tracked copy recalled or invalidated. -/
def MemSys.forHome (m : MemSys) (c ln : Nat) : MemSys :=
  let m := match m.line? c ln with
    | some l => m.flush l
    | none => m
  let m := (m.fetchHalves ln true).dropTracked ln none
  m.putDir (m.dirOf ln).cleared

/-- A byte as a read performed at home finds it, a TM copy being recalled (R221). -/
def MemSys.homeByte (m : MemSys) (pa : Nat) : Byte :=
  match m.lines.find? fun l => l.line == pa / 128 && l.st == .tm with
  | some l => lineByte l.data (pa % 128)
  | none => cellGet m.cells pa

/-- `n` bytes read at home, as a number. -/
def MemSys.homeNat (m : MemSys) (pa n : Nat) : Nat := leNat ((List.range n).map fun k => m.homeByte (pa + k))

/-- The bytes of line `ln` among the `n` from `pa` on. -/
def lineMask (ln pa n : Nat) : BitVec 128 := BitVec.ofNat 128 ((List.range 128).foldl (fun x k => if pa ≤ ln * 128 + k && ln * 128 + k < pa + n then x + 2 ^ k else x) 0)

/-- The lines that `n` bytes from `pa` on touch. -/
def linesOf (pa n : Nat) : List Nat := (List.range (if n == 0 then 0 else (pa + n - 1) / 128 - pa / 128 + 1)).map (pa / 128 + ·)

/-- Lines read at their homes for a reader without a copy: what DDR-5 or the pool returns is there to be recorded (R441, R455). -/
def MemSys.homeRead (m : MemSys) (lns : List Nat) : MemSys := lns.foldl (fun m ln => m.fetchHalves ln false) m

/-- The line image that bytes `pa` to `pa+n-1` of the number `v` make. -/
def lineImage (ln pa v : Nat) : LineData := BitVec.ofNat 1024 (v * 2 ^ (8 * (pa - ln * 128)) / 2 ^ (8 * (ln * 128 - pa)))

/-- One line of such a store: no copy stays tracked, and the release record is the store's; where another package's cluster owns the line,
the bytes wait for its copy (R237, R242, R245). -/
def MemSys.homeLine (m : MemSys) (ln pa n v : Nat) (rel : Option (Nat × Scope)) : MemSys :=
  if m.ownedFar ln then m.defer { line := ln, data := lineImage ln pa v, mask := lineMask ln pa n, rel }
  else
    let m := m.dropTracked ln none
    (m.putDir { (m.dirOf ln).cleared with rel }).dirtyHalves ln (lineMask ln pa n)

/-- `n` bytes written at home by a store of the hardware (R391, R420). -/
def MemSys.homeWrite (m : MemSys) (pa n v : Nat) (rel : Option (Nat × Scope)) : MemSys :=
  let lns := linesOf pa n
  let far := lns.filter m.ownedFar
  let m1 := lns.foldl (fun m ln => m.homeLine ln pa n v rel) m
  { m1 with cells :=
      if far.isEmpty then cellsWrite m1.cells pa (leBytes n v)
      else (leBytes n v).zipIdx.foldl (fun cs b => if far.contains ((pa + b.2) / 128) then cs else cellPut cs (pa + b.2) b.1) m1.cells }

end Sys2Proof.Machine
end

