-- ==== Sys2Proof/Machine/Ops.lean ====
section
/-! DEFINITION. The named operations over the state that every meaning uses: access to groups and teams, the advance of
a split, division and reconvergence (R143-R148, R157), stalls, records of faults (R418-R420), and the taking of a
user-level trap (R72-R77, R421). -/

namespace Sys2Proof.Machine
open Sys2Proof

/-! ## Defaults for indices that name nothing -/

/-- A group that has ended, holding nothing. -/
def Group.dead : Group :=
  { team := 0, gidx := 0, slot := 0, quarter := 0, role := 0, consumer := false, slim := 63, vlim := 63, evlim := 63,
    ext := false, xwait := false, live := 0, present := 0, ended := true, regs := Regs.zero,
    sets := Vector.replicate 4 {}, stack := [], loops := [], issueNo := 0, win := [], out := [], trap := TrapRegs.zero,
    handler := none, trapReq := none, held := false, folds := Vector.replicate 4 {}, ra := none,
    batches := {}, retype := none, invs := [], homes := [], host := 0, lent := 0, routines := [], inRoutine := false, resume := [], dstack := [] }

/-- A header of one producer group. -/
def Header.dead : Header :=
  { va := 0, entry := 0, traph := 0, matrix := false, mxentry := 0, sptab := 0, spcount := 0, groups := 1, scratch := 0,
    const := 0, roles := [] }

/-- A team barrier at team creation, awaiting `memb` (R257). -/
def Bar.fresh (memb : Word) : Bar :=
  { memb, extra := 0, arrv := 0, ph := 0, arrp := Vector.replicate 32 none, wph := Vector.replicate 33 0, gather := [], past := [] }

/-- The identity index table (R314). -/
def xtIdentity : Vector (BitVec 8) 128 := Vector.ofFn fun i => BitVec.ofNat 8 i.val

/-- A team that has ended. -/
def Team.dead : Team :=
  { grid := 0, tid := 0, core := 0, st := .ended, hdr := Header.dead, user := true, ctx := 0, prio := 0, prio0 := 0,
    at16 := false, paddock := none, spawnRec := none, bars := Vector.replicate 16 (Bar.fresh 0), don := [],
    xq := [], xfree := 0, xt := Vector.replicate 4 xtIdentity, scratch := [], seq := none, qexp := false,
    preq := false, tstop := false, mchk := false, collWords := [], colls := [], collDone := 0,
    collStat := 0, threads := [], held := false, ready := 0, raised := false, placedAt := 0, qstart := 0, imaged := false, order := {} }

/-- A grid that has retired. -/
def Grid.dead : Grid :=
  { tcb := 0, ctx := 0, user := true, hdr := Header.dead, gx := 0, gy := 0, gz := 0, prio := 0, padt := 0, padx := false,
    pin := none, clmask := 0, paramw := 0, param := 0, pt := false, ev := false, nspawn := 0, succs := [],
    ovf := 0, novf := 0, ctxa := 0, count := 0, phase := .over, cause := 0, cap := 15, clusters := [], service := false,
    held := false, tcbWords := [] }

/-- A context descriptor that is not enabled (R414). -/
def Ctx.dead : Ctx :=
  { cfg := 0, root := 0, fqbase := 0, fqsize := 0, fqpos := 0, svctcb := 0, quantum := 0, spawnt := 0, opened := [],
    exc := Vector.replicate 5 0 }

/-! ## Access -/

def State.group (s : State) (g : Nat) : Group := s.groups.getD g Group.dead
def State.setGroup (s : State) (g : Nat) (x : Group) : State := { s with groups := s.groups.set g x }
def State.modGroup (s : State) (g : Nat) (f : Group → Group) : State := s.setGroup g (f (s.group g))
def State.team (s : State) (t : Nat) : Team := s.teams.getD t Team.dead
def State.setTeam (s : State) (t : Nat) (x : Team) : State := { s with teams := s.teams.set t x }
def State.modTeam (s : State) (t : Nat) (f : Team → Team) : State := s.setTeam t (f (s.team t))
def State.grid (s : State) (k : Nat) : Grid := s.grids.getD k Grid.dead
def State.setGrid (s : State) (k : Nat) (x : Grid) : State := { s with grids := s.grids.set k x }
def State.modGrid (s : State) (k : Nat) (f : Grid → Grid) : State := s.setGrid k (f (s.grid k))
def State.ctx (s : State) (c : Nat) : Ctx := lookupD s.pkg.ctxs c Ctx.dead
def State.setCtx (s : State) (c : Nat) (x : Ctx) : State :=
  { s with pkg := { s.pkg with ctxs := insertK s.pkg.ctxs c x } }
def State.modCtx (s : State) (c : Nat) (f : Ctx → Ctx) : State := s.setCtx c (f (s.ctx c))

/-- The group that issues, its split, its team and its grid. -/
def State.cg (s : State) : Group := s.group s.cur.g
def State.cset (s : State) : LaneSet := s.cg.set s.cur.e
def State.ct (s : State) : Team := s.team s.cg.team
def State.modCg (s : State) (f : Group → Group) : State := s.modGroup s.cur.g f
def State.modCt (s : State) (f : Team → Team) : State := s.modTeam s.cg.team f

/-- The active lanes of the instruction being issued (R36). -/
def State.act (s : State) (msk : BitVec 3) : Word := s.cg.active s.cur.e msk

/-- The groups of a team that were formed with it, by index in the state. -/
def State.teamGroups (s : State) (t : Nat) : List Nat :=
  (List.range s.groups.length).filter fun g => (s.group g).team == t && (s.group g).homes.isEmpty

/-- A team's groups that have not ended. -/
def State.liveGroups (s : State) (t : Nat) : List Nat := (s.teamGroups t).filter fun g => !(s.group g).ended

/-- The fresh groups of a team (R151). -/
def State.freshGroups (s : State) (t : Nat) : List Nat :=
  (List.range s.groups.length).filter fun g => (s.group g).team == t && !(s.group g).homes.isEmpty && !(s.group g).ended

/-- The group whose folds and batches group `g` uses: a fresh group its host's (R337; DESIGN CHOICE, log 80). -/
def State.hostOf (s : State) (g : Nat) : Nat := if (s.group g).homes.isEmpty then g else (s.group g).host
/-- That group, of the issuing one. -/
def State.ownerNo (s : State) : Nat := s.hostOf s.cur.g
def State.owner (s : State) : Group := s.group s.ownerNo

/-- Which group of team `t` has team-relative index `i`. -/
def State.groupAt (s : State) (t i : Nat) : Option Nat := (s.teamGroups t).find? fun g => (s.group g).gidx == i

/-- The teams of a grid. -/
def State.gridTeams (s : State) (k : Nat) : List Nat :=
  (List.range s.teams.length).filter fun t => (s.team t).grid == k

/-- CORELOC of a package-wide core (R14). -/
def State.coreloc (s : State) (core : Nat) : Word := BitVec.ofNat 32 (s.pkg.num.toNat * 256 + core)

/-- Package-wide cluster of a core (R14). -/
def clusterOf (core : Nat) : Nat := core / 8

/-- The privileged level of the issuing group (R410). -/
def State.isS (s : State) : Bool := !s.ct.user

/-- What the checks of R56 read of a group. -/
def State.decEnv (s : State) (g : Nat) : DecEnv :=
  { user := (s.team (s.group g).team).user, diag := bit (s.ctx (s.team (s.group g).team).ctx).cfg 61,
    fs := (s.group g).regs.f }

/-! ## The advance of a split (R143, R157) -/

/-- The address after the instruction being issued. -/
def State.afterPc (s : State) : DWord := s.cur.pc + BitVec.ofNat 64 s.cur.size

/-- The end check of R157 for the instruction at `a`: the next address, the loop stack and the counters, and the records
popped. -/
def endCheck (a : DWord) : List LoopRec → Vector Word 3 → DWord → DWord × List LoopRec × Vector Word 3 × List LoopRec
  | [], lc, next => (next, [], lc, [])
  | r :: rs, lc, next =>
    if r.stop != a then (next, r :: rs, lc, [])
    else if (vecAt lc r.n 0).toNat ≤ 1 then
      let (n, l, c, p) := endCheck a rs (vecPut lc r.n 0) next
      (n, l, c, r :: p)
    else (r.start, r :: rs, vecPut lc r.n (vecAt lc r.n 0 - 1), [])

/-- A quarter of the package, as the loop buffers are kept (R159). -/
def State.quarterKey (s : State) (g : Nat) : Nat := (s.team (s.group g).team).core * 4 + (s.group g).quarter

/-- The end instruction of a loop, as a quarter has captured it for a context, has a literal (R159). -/
def MemSys.endLiteral (m : MemSys) (q ctx : Nat) (r : LoopRec) : Bool :=
  m.lbuf.any fun e => e.1 == q && e.2.1 == ctx && e.2.2.1 == r.stop.toNat && wL e.2.2.2

/-- A word at `va` lies in the body of a loop, the literal of the end instruction with it where that has one (R159). -/
def MemSys.covers (m : MemSys) (q ctx : Nat) (r : LoopRec) (va : Nat) : Bool :=
  r.start.toNat ≤ va && (va ≤ r.stop.toNat || (va == r.stop.toNat + 8 && m.endLiteral q ctx r))

/-- Some group of a quarter and context is in a loop whose body holds the word at `va`. -/
def State.inLoop (s : State) (q ctx va : Nat) : Bool :=
  (List.range s.groups.length).any fun g =>
    s.quarterKey g == q && (s.team (s.group g).team).ctx == ctx && !(s.group g).ended && (s.group g).loops.any fun r => s.mem.covers q ctx r va

/-- The captures of popped loop records are served no longer, but for words of loops that still run (R159). -/
def State.dropCaptures (s : State) (g : Nat) (popped : List LoopRec) : State :=
  if popped.isEmpty then s
  else { s with mem := { s.mem with lbuf := s.mem.lbuf.filter fun e =>
    !(e.1 == s.quarterKey g && e.2.1 == (s.team (s.group g).team).ctx && popped.any (fun r => s.mem.covers e.1 e.2.1 r e.2.2.1) &&
      !s.inLoop e.1 e.2.1 e.2.2.1) } }

/-- A JOIN set's rejoin set brought up to date; once it is complete the set goes on after the JOIN, with the end check of the JOIN's
address (R146, R157; log 20). -/
def Group.joinDone (g : Group) (l : LaneSet) : Group × LaneSet :=
  let rj := l.rj &&& g.live
  if l.st != .join then (g, l)
  else if rj &&& ~~~l.lanes == 0 then
    let r := endCheck l.pc g.loops g.regs.lc (l.pc + 8)
    ({ g with loops := r.2.1, regs := { g.regs with lc := r.2.2.1 } },
      { l with rj := 0, st := .ready, pc := r.1, age := 0, stalled := false })
  else (g, { l with rj })

/-- What waits in the stack is DEFER where it could issue (R138). -/
def LaneSet.stacked (l : LaneSet) : LaneSet := if l.st == .ready then { l with st := .defer } else l

/-- The completed JOIN sets of the entries. -/
def Group.joinEntries (g : Group) : Group :=
  [0, 1, 2, 3].foldl (fun g e => let r := g.joinDone (g.set e); r.1.putSet e r.2) g

/-- The completed JOIN sets of the stack. -/
def Group.joinStacked (g : Group) : Group :=
  let r := g.stack.foldl (fun (a : Group × List LaneSet) l => let r := a.1.joinDone l; (r.1, a.2 ++ [r.2.stacked])) (g, [])
  { r.1 with stack := r.2 }

/-- A lane set runs a trap handler (R72). -/
def Group.handles (g : Group) (l : LaneSet) : Bool := g.handler.any fun h => h.lanes &&& l.lanes != 0

/-- Whether entry `e` may merge under R145: READY, with lanes, and not about to trap. -/
def Group.mergeable (g : Group) (e : Nat) : Bool :=
  (g.set e).st == .ready && (g.set e).lanes != 0 && !(g.trapReq.any fun r => r.entry == e)

/-- Two READY splits at one PC as one (R145); what either has done of an instruction in which it stands stays done. -/
def LaneSet.union (a b : LaneSet) : LaneSet :=
  { a with lanes := a.lanes ||| b.lanes, age := max a.age b.age, waits := a.waits ++ b.waits, stalled := false,
           cand := if b.cand.isSome then a.cand else none, served := a.served ||| b.served, fsnap := none, asks := none }

/-- Entries `i` and `j` merged where R145 lets them. A split of the user trap handler merges with none outside it
(DESIGN CHOICE, log 77). -/
def Group.mergePair (g : Group) (i j : Nat) : Group :=
  if g.mergeable i && g.mergeable j && (g.set i).pc == (g.set j).pc && g.handles (g.set i) == g.handles (g.set j) then
    (g.putSet i ((g.set i).union (g.set j))).putSet j {}
  else g

/-- READY splits at equal addresses merged, lower entries kept. -/
def Group.mergeReady (g : Group) : Group :=
  [(0, 1), (0, 2), (0, 3), (1, 2), (1, 3), (2, 3)].foldl (fun g p => g.mergePair p.1 p.2) g

/-- A READY split joins the JOIN set `j` at its PC (R145); the set goes on once what either waits for has returned (R162). -/
def LaneSet.joinedBy (j l : LaneSet) : LaneSet := { j with lanes := j.lanes ||| l.lanes, waits := j.waits ++ l.waits }

/-- A READY split that stands at the PC of a JOIN set in an entry joins it (R145). -/
def Group.joinEntry (g : Group) (e j : Nat) : Group :=
  if e != j && g.mergeable e && (g.set j).st == .join && (g.set j).pc == (g.set e).pc && g.handles (g.set e) == g.handles (g.set j) then
    (g.putSet j ((g.set j).joinedBy (g.set e))).putSet e {}
  else g

/-- A READY split that stands at the PC of a JOIN set in the stack joins it. -/
def Group.joinStack (g : Group) (e : Nat) : Group :=
  if g.mergeable e && g.stack.any (fun l => l.st == .join && l.pc == (g.set e).pc && g.handles l == g.handles (g.set e)) then
    { g with stack := g.stack.map fun (l : LaneSet) =>
        if l.st == SetSt.join && l.pc == (g.set e).pc && g.handles l == g.handles (g.set e) then l.joinedBy (g.set e) else l }.putSet e {}
  else g

/-- One round of the merges of R145 and R146. -/
def Group.settleOnce (g : Group) : Group :=
  let g1 := g.mergeReady
  let g2 := [(0, 1), (0, 2), (0, 3), (1, 0), (1, 2), (1, 3), (2, 0), (2, 1), (2, 3), (3, 0), (3, 1), (3, 2)].foldl
    (fun g p => g.joinEntry p.1 p.2) g1
  ((List.range 4).foldl (fun g e => g.joinStack e) g2).joinEntries.joinStacked

/-- All merges made. -/
def Group.settle (g : Group) : Group := g.settleOnce.settleOnce.settleOnce.settleOnce

/-- The captures of the loops of `old` that group `g` has no longer are served no longer (R159). -/
def State.dropGone (s : State) (g : Nat) (old : List LoopRec) : State :=
  s.dropCaptures g (old.filter fun r => !(s.group g).loops.contains r)

/-- Group `g` becomes `x` with all merges made. -/
def State.settleAt (s : State) (g : Nat) (x : Group) : State := (s.setGroup g x.settle).dropGone g x.loops

/-- The issue of one instruction counted (R121, R347), and window entries out of sight dropped. -/
def Group.counted (g : Group) : Group :=
  { g with issueNo := g.issueNo + 1, win := g.win.filter fun e => g.issueNo + 1 ≤ e.n + 7,
           ra := g.ra.map fun r => { r with issued := r.issued + 1 } }

/-- A lane set after it issued: at `pc`, its age reset, waiting for what is outstanding when Y is set (R162). -/
def LaneSet.moved (l : LaneSet) (g : Group) (y : Bool) (pc : DWord) : LaneSet :=
  if l.lanes == 0 then {}
  else { l with pc, age := 0, waits := if y then g.out.map (·.n) else [], stalled := false, served := 0, blocked := none, fsnap := none, asks := none }

/-- The split that issued goes on at the next instruction, after the end check (R143, R157). -/
def State.advance (s : State) (y : Bool) : State :=
  let g := s.cg
  let r := endCheck s.cur.pc g.loops g.regs.lc s.afterPc
  let g1 := { g with loops := r.2.1, regs := { g.regs with lc := r.2.2.1 } }
  (s.settleAt s.cur.g (g1.putSet s.cur.e ((g.set s.cur.e).moved g y r.1)).counted).dropCaptures s.cur.g r.2.2.2

/-- An effect on the issuing group, then the advance. -/
def State.issue (s : State) (y : Bool) (f : Group → Group) : State := (s.modCg f).advance y

/-- A stall at a team barrier, with what it waits for (R258, R260). -/
def State.stallAt (s : State) (m : Word) (b : Blk) : State :=
  s.modCg fun g => g.putSet s.cur.e { g.set s.cur.e with stalled := true, served := m, blocked := some b }

/-- The issuing split stays at its instruction, which has had no effect yet and issues again later. -/
def State.stall (s : State) : State := s.modCg fun g => g.putSet s.cur.e { g.set s.cur.e with stalled := true }

/-- The group in run-ahead stalls at the instruction being issued until the result of its vote arrives (R77, R217, R347). -/
def State.stallAhead (s : State) : State :=
  s.stall.modCg fun g => { g with ra := g.ra.map fun r => { r with halted := true } }

/-- The split waits, as at a switch mark, for results that are outstanding now, to complete its instruction then; `w` are the flags
so far (R110, R116, R162). -/
def State.await (s : State) (ns : List Nat) (w : Word) : State :=
  s.modCg fun g => g.putSet s.cur.e { g.set s.cur.e with waits := ns, fsnap := some w }

/-- A stall that remembers what the instruction has done: lanes served, or that its first part is done. -/
def State.stallWith (s : State) (m : Word) : State :=
  s.modCg fun g => g.putSet s.cur.e { g.set s.cur.e with stalled := true, served := m }

/-! ## Division (R143) -/

/-- The first free entry of the split table. -/
def Group.freeEntry (g : Group) : Option Nat := (List.range 4).find? fun e => (g.set e).st == .empty

/-- A new lane set: into a free entry, or onto the stack, a READY one in state DEFER (R143). -/
def Group.addSet (g : Group) (l : LaneSet) : Group :=
  if l.lanes == 0 then g
  else match g.freeEntry with
    | some e => g.putSet e l
    | none => { g with stack := g.stack ++ [l.stacked] }

/-- A new lane set of lanes that go to `pc`; it inherits nothing but its lanes (R143). -/
def newSet (cand : Option Nat) (lanes : Word) (pc : DWord) : LaneSet := { lanes, pc, st := .ready, cand }

/-- The issuing split divided: `fall` lanes go on at `fallPc`, and each target takes its lanes, in order (R143); under CPT each
resulting lane set is a candidate since `cpt` (R151). -/
def Group.divide (g : Group) (e : Nat) (y : Bool) (cpt : Option Nat) (fall : Word) (fallPc : DWord) (ts : List (DWord × Word)) : Group :=
  let l := (g.set e).moved g y fallPc
  if fall != 0 then
    ts.foldl (fun g t => g.addSet (newSet cpt t.2 t.1)) (g.putSet e { l with lanes := fall, cand := cpt })
  else match ts with
    | [] => g.putSet e {}
    | t :: rest => rest.foldl (fun g t => g.addSet (newSet cpt t.2 t.1)) (g.putSet e { l with lanes := t.2, pc := t.1, cand := cpt })

/-! ## Events to the control node, halts (R421, R449) -/

/-- The event queue of R449: its base and its positions, by their place in I/O space. -/
abbrev eqBaseReg : Nat := 0x31020
abbrev eqPosReg : Nat := 0x31028

/-- A register of the package by its offset in I/O space (R446). -/
def Pkg.reg (p : Pkg) (o : Nat) : DWord := lookupD p.regs o 0
def Pkg.setReg (p : Pkg) (o : Nat) (v : DWord) : Pkg := { p with regs := insertK p.regs o v }

/-- EQPOS after a word was written at WIDX: the oldest unread word is lost when the ring is full (R449). -/
def eqAdvance (pos : DWord) : DWord :=
  let widx : BitVec 12 := bits pos 0 12 + 1
  let ridx : BitVec 12 := bits pos 16 12
  let ovf : BitVec 32 := bits pos 32 32
  if widx == ridx then (if ovf == BitVec.allOnes 32 then ovf else ovf + 1) ++ 0#4 ++ (ridx + 1) ++ 0#4 ++ widx
  else ovf ++ 0#4 ++ ridx ++ 0#4 ++ widx

/-- An event word sent to the control node and appended to the event queue (R449). -/
def State.postEvent (s : State) (w : DWord) : State :=
  let p := s.pkg
  let base := (p.reg eqBaseReg).toNat
  let s1 := { s with pkg := { p with events := p.events ++ [w] } }
  if base == 0 then s1
  else
    let pos := p.reg eqPosReg
    { s1 with
      pkg := s1.pkg.setReg eqPosReg (eqAdvance pos)
      mem := s1.mem.homeWrite (base + 8 * (bits pos 0 12).toNat) 8 w.toNat none }

/-- An event word: type, subject and time (R449). -/
def State.event (s : State) (type subject : Nat) : State :=
  s.postEvent (BitVec.ofNat 8 type ++ BitVec.ofNat 8 subject ++ BitVec.ofNat 48 s.pkg.timens)

/-- A team stops issuing, and its quantum stands still (R421, R427). -/
def Team.stop (t : Team) (now : Nat) : Team := if t.tstop then t else { t with tstop := true, qstart := now - t.qstart }
/-- The stop undone. -/
def Team.go (t : Team) (now : Nat) : Team := if t.tstop then { t with tstop := false, qstart := now - t.qstart } else t

/-- A context halted on the package: its teams stop as under TSTOP, HALT is set, event 0x40 goes out (R421). -/
def State.haltContext (s : State) (c : Nat) : State :=
  ({ s with teams := s.teams.map fun (t : Team) => if t.ctx == c then t.stop s.pkg.timens else t }.modCtx c
    fun x => { x with cfg := x.cfg ||| (1#64 <<< 62) }).event 0x40 c

/-! ## The record buffer (R441) -/

/-- The bytes that an entry takes. -/
def recBytes (payload : List Byte) : Nat := 16 + (payload.length + 15) / 16 * 16

/-- An entry appended to the record buffer; a buffer that is full ends the recording. -/
def State.record (s : State) (src port : Nat) (payload : List Byte) : State :=
  if !s.pkg.recording then s
  else
    let used := (s.pkg.recs.map fun r => recBytes r.2).foldl (· + ·) 0
    let n := recBytes payload
    if used + n > (s.pkg.reg 0x31018).toNat then { s with pkg := { s.pkg with recording := false, recOvr := true } }.event 0x43 0
    else
      let h : QWord := 0#32 ++ BitVec.ofNat 16 payload.length ++ BitVec.ofNat 8 port ++ BitVec.ofNat 8 src ++
        BitVec.ofNat 64 (s.pkg.cycles - s.pkg.recStart)
      { s with
        pkg := { s.pkg with recs := s.pkg.recs ++ [(h, payload)] }
        mem := s.mem.homeWrite ((s.pkg.reg 0x31010).toNat + used) n (h.toNat + leNat payload * 2 ^ 128) none }

/-! ## Fault records (R418-R420) -/

/-- A record of no unit, to be filled in. -/
def FaultRec.blank : FaultRec :=
  { code := 0, sub := 0, scope := .team, ctx := 0, team := 0, group := 0, gidx := 0, lanes := 0, pc := 0, va := 0,
    tcb := 0, info := 0, core := 0, flags := 0, extra := [], info32 := [], unit := 0 }

/-- A record about group `g`. -/
def State.groupRec (s : State) (g code sub : Nat) (scope : RecScope) (pc info : DWord) : FaultRec :=
  let t := s.team (s.group g).team
  { FaultRec.blank with
      code, sub, scope, ctx := t.ctx, team := (s.group g).team, group := g, gidx := (s.group g).gidx, pc, info,
      tcb := (s.grid t.grid).tcb, core := s.coreloc t.core }

/-- A record about team `t`. -/
def State.teamRec (s : State) (t code sub : Nat) (scope : RecScope) (pc info : DWord) : FaultRec :=
  let x := s.team t
  { FaultRec.blank with
      code, sub, scope, ctx := x.ctx, team := t, pc, info, tcb := (s.grid x.grid).tcb, core := s.coreloc x.core }

/-- A fault record raised, to be posted (R420). -/
def State.raise (s : State) (r : FaultRec) : State := { s with faults := s.faults ++ [r] }

/-! ## Exceptions of elements (R108, R111) -/

/-- The flags of elements ORed into FPFLAGS and counted, the counting put off in run-ahead (R108, R111). -/
def State.raiseFl (s : State) (g : Nat) (fls : List Fl) : State :=
  if fls.all (· == 0) then s
  else
    let s1 := s.modGroup g fun x =>
      { x.orFlags (joinFl fls) with ra := x.ra.map fun r => { r with exc := r.exc ++ fls.filter (· != 0) } }
    if (s.group g).ra.isSome then s1
    else s1.modCtx (s.team (s.group g).team).ctx fun c => { c with exc := addExc c.exc fls }

/-- The result of instruction `n` of group `g` delivered (R121, R163); one older than the run-ahead of its group belongs to
the state that a rollback restores, too (R350). -/
def State.deliverTo (s : State) (g n : Nat) (t : Bool) (ws : List RegW) (fls : List Fl) : State :=
  let old := (s.group g).ra.any fun r => n < r.startNo
  if old then
    let s1 := s.modGroup g fun x =>
      { (x.deliver n t ws).orFlags (joinFl fls) with
        ra := x.ra.map fun r =>
          let y := ({ x with regs := r.regs }.deliver n t ws).orFlags (joinFl fls)
          { r with regs := y.regs } }
    s1.modCtx (s.team (s.group g).team).ctx fun c => { c with exc := addExc c.exc fls }
  else (s.modGroup g fun x => x.deliver n t ws).raiseFl g fls

/-! ## The user-level trap (R72-R77, R154, R421) -/

/-- The kind code of an operand (R74); 0 for what lies outside its range. -/
def opndKind (o : Opnd) : Nat :=
  if o.outOfRange then 0
  else match o with
    | .none | .num .. => 0
    | .vec _ n _ _ => if n == 2 then 2 else if n == 4 then 3 else 1
    | .uni _ n => if n == 2 then 5 else 4
    | .ptr _ => 6
    | .msk _ => 7
    | .imm => 8
    | .lit => 9
    | .lc _ => 10

/-- TRAPIMM of a word (R73).  Of two short immediates, in SB and in SC, it is SC's (DESIGN CHOICE, log 92). -/
def trapImm (e : DecEnv) (w lit : DWord) : DWord :=
  let o := wordOpnds e w
  if wL w then lit
  else if o.c == .imm then
    (if wFmt w == 6 then (wSc w).setWidth 64 else (wSc w).signExtend 64)
  else if o.b == .imm then (wSb w).signExtend 64
  else if o.a == .imm then (wSa w).signExtend 64
  else 0

/-- TRAPCAUSE (R74). -/
def trapCause (e : DecEnv) (w : DWord) (cause sub : Nat) : Word :=
  let o := wordOpnds e w
  0#3 ++ b1 (wL w) ++ BitVec.ofNat 4 (opndKind o.c) ++ BitVec.ofNat 4 (opndKind o.b) ++ BitVec.ofNat 4 (opndKind o.a) ++
    BitVec.ofNat 8 sub ++ BitVec.ofNat 8 cause

/-- The number that TRAPDST shows: that of DST, 0 where DST names fN or xN (R73, R317). -/
def trapDstNo (e : DecEnv) (w : DWord) : BitVec 7 :=
  match (wordOpnds e w).d with
  | .num .. => if (wFmt w).toNat ≤ 1 then 0 else wDst w
  | _ => wDst w

/-- TRAPDST (R73). -/
def trapDst (e : DecEnv) (w : DWord) : Word :=
  0#19 ++ b1 (wT w) ++ BitVec.ofNat 4 (opndKind (wordOpnds e w).d) ++ 0#1 ++ trapDstNo e w

/-- A trap requested of a group: it waits for the group's outstanding results (R72).  One taken while a handler runs is
TRAPNEST, one without a handler NOHANDLER (R76); at S both halt the context (R421). -/
def State.trapGroup (s : State) (g : Nat) (r : TrapReq) : State :=
  let x := s.group g
  let t := s.team x.team
  let e := s.decEnv g
  let nested := x.handler.isSome || x.trapReq.isSome
  if nested || t.hdr.traph == 0 then
    if !t.user then s.haltContext t.ctx
    else
      let rec0 := s.groupRec g (if nested then 0x08 else 0x09) 0 .group r.pc 0
      let extra := leBytes 8 r.pc.toNat ++ leBytes 8 (trapCause e r.word r.cause r.sub).toNat ++ leBytes 8 r.word.toNat ++
        leBytes 8 (trapDst e r.word).toNat ++ leBytes 8 (trapImm e r.word r.lit).toNat
      (s.modGroup g fun x => { x with held := true }).raise
        { rec0 with flags := 4, extra := if nested then extra else [] }
  else s.modGroup g fun x => { x with trapReq := some { r with waits := x.out.map (·.n) } }

/-- The trap request of the instruction being issued. -/
def State.trapReq (s : State) (cause sub : Nat) : TrapReq :=
  { entry := s.cur.e, cause, sub, word := s.cur.word, lit := s.cur.lit, pc := s.cur.pc, waits := [], info := none,
    seqTeam := none }

/-! ## Fresh groups dissolve (R152-R154) -/

/-- The lane sets of a group that hold lanes. -/
def Group.laneSets (g : Group) : List LaneSet := (g.sets.toList ++ g.stack).filter fun l => l.lanes != 0

/-- The home and lane of a virtual lane of a fresh group whose thread has gone home already: the home group stays, at no physical
lane. -/
def goneLane (h : Nat × Nat) : Nat × Nat := (h.1, 32 + h.2 % 32)

/-- The lanes of a fresh group's lane set that came from home group `h`, as lanes of that group. -/
def homeLanes (homes : List (Nat × Nat)) (h : Nat) (lanes : Word) : Word :=
  maskOf fun p => (List.range homes.length).any fun i => bit lanes i && homes.getD i (0, 0) == (h, p)

/-- The home groups of a fresh group, ascending. -/
def homesOf (homes : List (Nat × Nat)) : List Nat := sortBy (fun a b => a ≤ b) (homes.map (·.1)).dedup

/-- A mask over virtual lanes of the fresh group moved to home group `h`, over the old bits of its other lanes. -/
def moveMask (homes : List (Nat × Nat)) (h : Nat) (old new : Word) : Word :=
  let mine := homeLanes homes h ones32
  (old &&& ~~~mine) ||| homeLanes homes h new

/-- A vector register's lanes moved back to home group `h`. -/
def moveVreg (homes : List (Nat × Nat)) (h : Nat) (old new : VReg) : VReg :=
  vregOf fun p => match (List.range homes.length).find? (fun i => homes.getD i (0, 0) == (h, p)) with
    | some i => (laneOf new i).toNat
    | none => (laneOf old p).toNat

/-- Writes of an outstanding result as home group `h` receives them: vector and mask registers only (R152). -/
def moveWrite (homes : List (Nat × Nat)) (h : Nat) : RegW → List RegW
  | .v r val lanes bm => [.v r (moveVreg homes h (Vector.replicate 32 0) val) (homeLanes homes h lanes) bm]
  | .m r val bm => [.m r (homeLanes homes h val) (homeLanes homes h bm)]
  | _ => []

/-- The writes that no younger write of the group has overtaken (R163). -/
def Group.current (f : Group) (n : Nat) (ws : List RegW) : List RegW := ws.filter fun w => f.regs.lastNo w ≤ n

/-- The results on their way in fresh group `f`, as home group `h`, which has issued `no` instructions, goes on waiting for them (R152,
R163). One home group counts their exceptions (R111). -/
def Group.handOver (f : Group) (h no : Nat) (counts : Bool) : List Pend :=
  f.out.zipIdx.map fun p =>
    { p.1 with n := no + p.2, ws := (f.current p.1.n p.1.ws).flatMap (moveWrite f.homes h), twin := p.1.twin || !counts }

/-- The results that a lane set of fresh group `f` waits for, by their numbers in the home group. -/
def Group.handWaits (f : Group) (no : Nat) (ns : List Nat) : List Nat :=
  (f.out.zipIdx.filter fun p => ns.contains p.1.n).map fun p => no + p.2

/-- A lane set of fresh group `f` as home group `h`, which has issued `no` instructions, takes it back: its PC stays (R153). -/
def Group.handSet (f : Group) (h no : Nat) (l : LaneSet) : LaneSet :=
  { l with lanes := homeLanes f.homes h l.lanes, rj := 0, waits := f.handWaits no l.waits, cand := none, stalled := false,
           served := 0, blocked := none, fsnap := none }

/-- The threads of fresh group `f` return to home group `h`: registers, flags, lane sets and what is outstanding. -/
def Group.takeBack (f : Group) (h : Nat) (counts : Bool) (x : Group) : Group :=
  let mine := homeLanes f.homes h ones32
  let x1 := { x with
    regs := { x.regs with
      v := Vector.ofFn fun r => moveVreg f.homes h (vecAt x.regs.v r.val (Vector.replicate 32 0))
        (vecAt f.regs.v r.val (Vector.replicate 32 0))
      m := Vector.ofFn fun r => moveMask f.homes h (vecAt x.regs.m r.val 0) (vecAt f.regs.m r.val 0)
      fpflags := x.regs.fpflags ||| f.regs.fpflags
      status := x.regs.status ||| (f.regs.status &&& 0x1C#32) }
    lent := x.lent &&& ~~~mine
    live := (x.live &&& ~~~mine) ||| homeLanes f.homes h f.live
    out := x.out ++ f.handOver h x.issueNo counts
    issueNo := x.issueNo + f.out.length }
  f.laneSets.foldl (fun y l => y.addSet (f.handSet h x.issueNo l)) x1

/-- The threads of fresh group `f` returned to their home groups, one after another; `k` finishes each. -/
def State.takeHome (s : State) (f : Group) (k : Nat → Group → Group) : State :=
  let hs := homesOf f.homes
  hs.foldl (fun s h => s.modGroup h fun y => k h (f.takeBack h (hs.head? == some h) y)) s

/-- A fresh group that has dissolved or ended. -/
def Group.gone (f : Group) : Group := { Group.dead with team := f.team, homes := f.homes }

/-- A fresh group dissolves: each thread returns to its home group (R153).  The forwarding window of the fresh group is lost
(DESIGN CHOICE, log 78). -/
def State.dissolve (s : State) (f : Nat) : State :=
  (s.takeHome (s.group f) fun _ y => y.settle).setGroup f (s.group f).gone

/-- A lane set put into an entry, the one of highest index making room on the stack, with the entry (R137). -/
def Group.placeSet (g : Group) (l : LaneSet) : Group × Nat :=
  match g.freeEntry with
  | some e => (g.putSet e l, e)
  | none => ({ g with stack := g.stack ++ [(g.set 3).stacked] }.putSet 3 l, 3)

/-- A user trap of a fresh group: it dissolves, and each home group that receives threads of the trapping split takes
the trap with them as its trapping split, the threads of the other splits held (R154). -/
def State.dissolveTrap (s : State) (cause sub : Nat) : State :=
  let x := s.cg
  let l := s.cset
  let r := s.trapReq cause sub
  let s1 := (s.takeHome (x.putSet s.cur.e {}) fun _ y => y).setGroup s.cur.g x.gone
  (homesOf x.homes).foldl (fun s h =>
    let mine := x.handSet h (s.group h).issueNo { l with waits := [] }
    if mine.lanes == 0 then s
    else
      let p := (s.group h).placeSet mine
      (s.setGroup h p.1).trapGroup h { r with entry := p.2 }) s1

/-- The instruction being issued takes a user-level trap and has no effect (R72).  In run-ahead it waits for the vote
first (R77). -/
def State.userTrap (s : State) (cause sub : Nat) : State :=
  if s.cg.ra.isSome then s.stallAhead
  else if !s.cg.homes.isEmpty then s.dissolveTrap cause sub
  else s.trapGroup s.cur.g (s.trapReq cause sub)

/-! ## Lane faults (R149, R215, R418-R421) -/

/-- One lane's fault: the lane, the code and the figures its record shows. -/
structure LaneFault where
  lane : Nat
  code : Nat
  sub : Nat := 0
  elem : DWord
  va : DWord
  info : DWord
  flags : BitVec 8
deriving DecidableEq, Repr

/-- The lanes concerned. -/
def faultLanes (fs : List LaneFault) : Word := maskOf fun i => fs.any (·.lane == i)

/-- What makes one cause: the code; the record shows the subcode of its lowest lane (R215, R418). -/
def LaneFault.cause (f : LaneFault) : Nat := f.code

/-- The distinct causes, in the order of their first lanes (R215). -/
def faultCauses : List LaneFault → List Nat
  | [] => []
  | f :: fs => f.cause :: (faultCauses fs).filter (· != f.cause)

/-- The records of lane faults, one for each cause, the lowest lane first. -/
def State.laneRecs (s : State) (g : Nat) (pc : DWord) (fs : List LaneFault) : List FaultRec :=
  (faultCauses fs).filterMap fun k =>
    let mine := fs.filter fun f => f.cause == k
    mine.head?.map fun f =>
      { s.groupRec g f.code f.sub .lanes pc f.info with
          lanes := faultLanes mine, va := f.va, flags := f.flags,
          info32 := mine.map fun x => { lane := x.lane, elem := x.elem, va := x.va } }

/-- Lanes `m` of entry `e` parked as a FAULT set at `pc` (R149); the other lanes stay. -/
def Group.parkFault (g : Group) (e : Nat) (pc : DWord) (m : Word) : Group :=
  let l := g.set e
  let x1 := g.putSet e (if l.lanes &&& ~~~m == 0 then {} else { l with lanes := l.lanes &&& ~~~m })
  x1.addSet { l with lanes := l.lanes &&& m, pc, st := .fault, rj := 0, waits := [], stalled := false, served := 0, fsnap := none }

/-- Lanes of group `g`'s entry `e` parked, one FAULT set for each cause, with their records (R149, R215, R420). -/
def State.park (s : State) (g e : Nat) (pc : DWord) (fs : List LaneFault) : State :=
  let recs := s.laneRecs g pc fs
  let s1 := s.modGroup g fun x =>
    (faultCauses fs).foldl (fun x k => x.parkFault e pc (faultLanes (fs.filter fun f => f.cause == k))) x
  { s1 with faults := s1.faults ++ recs }

/-- Lanes that return to group `g` parked, one FAULT set for each cause, with their records (R149, R153, R215). -/
def State.parkBack (s : State) (g : Nat) (pc : DWord) (fs : List LaneFault) : State :=
  let recs := s.laneRecs g pc fs
  let s1 := s.modGroup g fun x =>
    (faultCauses fs).foldl (fun x k => x.addSet { lanes := faultLanes (fs.filter fun f => f.cause == k), pc, st := .fault }) x
  { s1 with faults := s1.faults ++ recs }

/-- Lane faults of the instruction being issued.  In run-ahead it stalls (R77); at S the group's own handler takes them
(R421); a fresh group's faulting threads go home first (R149, R153), and are no members of it any more (DESIGN CHOICE, log 97); else they
are parked, and `k` goes on. -/
def State.laneFaults (s : State) (fs : List LaneFault) (k : State → State) : State :=
  match fs with
  | [] => k s
  | f :: _ =>
    if s.cg.ra.isSome then s.stallAhead
    else if s.isS then s.userTrap (0x80 + f.code) f.sub
    else if !s.cg.homes.isEmpty then
      let x := s.cg
      let pc := s.cur.pc
      let m := faultLanes fs
      -- the faulting threads return to their home groups as FAULT sets (R149, R153)
      let rest : Group := { x with
        live := x.live &&& ~~~m
        homes := x.homes.zipIdx.map fun q => if bit m q.2 then goneLane q.1 else q.1
        sets := vecPut x.sets s.cur.e
          (if s.cset.lanes &&& ~~~m == 0 then {} else { s.cset with lanes := s.cset.lanes &&& ~~~m }) }
      -- what they take along: their lanes of the registers and of what is outstanding, no flags
      let one : Group := { x with
        sets := Vector.replicate 4 {}, stack := [], out := x.out.map fun p => { p with fls := [] }
        regs := { x.regs with fpflags := 0, status := 0 }
        live := m, homes := x.homes.zipIdx.map fun q => if bit m q.2 then q.1 else goneLane q.1 }
      let faultsOf (h : Nat) : List LaneFault := fs.filterMap fun f =>
        match x.homes[f.lane]? with
        | some (h', p) => if h' == h then some { f with lane := p } else none
        | none => none
      let s1 := (homesOf x.homes).foldl (fun s h =>
        if homeLanes x.homes h m == 0 then s
        else (s.modGroup h (one.takeBack h false)).parkBack h pc (faultsOf h)) (s.setGroup s.cur.g rest)
      -- with its last thread gone the fresh group ends; its flags and STATUS go to every home group (R152, R191)
      if rest.live == 0 then s1.dissolve s.cur.g
      else if s.cset.lanes &&& ~~~m == 0 then s1 else k s1
    else
      let s1 := s.park s.cur.g s.cur.e s.cur.pc fs
      if s.cset.lanes &&& ~~~(faultLanes fs) == 0 then s1 else k s1

/-- Every active lane faults with one code and no address: PRIV, SYSENC, SYSCALL (R420). -/
def State.faultSplit (s : State) (code : Nat) (info : DWord) (lanes : Word) : State :=
  s.laneFaults ((lanesOf lanes).map fun i => { lane := i, code, elem := 0, va := 0, info, flags := 0 })
    fun s => s.advance false

/-- A refused class 12 operation (R421). -/
def State.ctxop (s : State) : State := s.userTrap 0xC1 0

/-! ## Whole-group issue (R148), stalls in run-ahead (R347), dissolution (R153) -/

/-- A form that R347 holds back in run-ahead: the group stalls at it. -/
def State.unlessAhead (s : State) (k : State → State) : State := if s.cg.ra.isSome then s.stallAhead else k s

/-- A form that dissolves a fresh group and then issues in the home groups (R153). -/
def State.unlessFresh (s : State) (k : State → State) : State :=
  if s.cg.homes.isEmpty then k s else s.dissolve s.cur.g

/-- The issuing split parks in BAR at its address, merging with the BAR set there (R148). -/
def Group.parkBar (g : Group) (e : Nat) : Group :=
  let l := g.set e
  let other := (List.range 4).find? fun j => j != e && (g.set j).st == .bar && (g.set j).pc == l.pc
  let inStack := g.stack.any fun x => x.st == .bar && x.pc == l.pc
  match other with
  | some j => (g.putSet j { g.set j with lanes := (g.set j).lanes ||| l.lanes }).putSet e {}
  | none =>
    if inStack then
      { g with stack := g.stack.map fun (x : LaneSet) => if x.st == SetSt.bar && x.pc == l.pc then { x with lanes := x.lanes ||| l.lanes } else x
        }.putSet e {}
    else g.putSet e { l with st := .bar }

/-- A BAR set that holds every live lane becomes READY, to issue once for the group (R148). -/
def Group.barReady (g : Group) : Group :=
  let f (l : LaneSet) : LaneSet := if l.st == .bar && l.lanes == g.live then { l with st := .ready, stalled := false } else l
  { g with sets := vecMap f g.sets, stack := g.stack.map fun l => (f l).stacked }

/-- Some lane cannot arrive at the barrier where the issuing split stands (R148): a live lane is parked in JOIN, or in BAR
elsewhere, and no other lane set is READY or DEFER. -/
def Group.barLost (g : Group) (e : Nat) : Bool :=
  let l := g.set e
  let others := (((List.range 4).filter (· != e)).map g.set ++ g.stack).filter fun x => x.lanes != 0
  g.lent == 0 && others.any (fun x => x.st == .join || (x.st == .bar && x.pc != l.pc)) &&
  !others.any (fun x => x.st == .ready || x.st == .defer)

/-- A team-barrier instruction: it issues when the group is one lane set; else the split parks, or the group traps
BARLOST (R148, R259). -/
def State.whole (s : State) (k : State → State) : State :=
  if s.cset.lanes == s.cg.live then k s
  else if s.cg.barLost s.cur.e then s.userTrap 0x07 0
  else s.modCg fun g => (g.parkBar s.cur.e).barReady

/-- A write to v64-v127. -/
def RegW.toExt : RegW → Bool
  | .v r .. => r ≥ 64
  | _ => false

/-- The outstanding results to v64-v127 (R116). -/
def Group.extPending (g : Group) : List Nat := (g.out.filter fun p => p.ws.any RegW.toExt).map (·.n)

/-- The block given up: its contents are lost, what is still on its way to it too (R116, R117). -/
def Group.dropExt (g : Group) : Group :=
  { g with ext := false, out := g.out.map fun p => { p with ws := p.ws.filter fun w => !w.toExt } }

/-- Register writes that must be in the banks before an arrival is counted: results with T = 0 that are on their way, those of a
retyping and of a DONATE among them (R304). -/
def Group.bankPending (g : Group) : Bool := g.out.any fun p => !p.t && (!p.ready || !p.ws.isEmpty)

/-- A form that arrives on a team barrier: its arrival is counted once the group's register writes are in the banks (R304). -/
def State.whenBanked (s : State) (k : State → State) : State := if s.cg.bankPending then s.stall else k s

/-- The common frame of the barrier forms: no run-ahead, no fresh group, the whole group (R118, R148, R153, R347). -/
def State.barrierForm (s : State) (k : State → State) : State :=
  s.unlessAhead fun s => s.unlessFresh fun s => s.whole k

/-- A next state. -/
abbrev ok (s : State) : Host.Outcome State Fault Refusal := .next s

end Sys2Proof.Machine
end

