-- ==== Sys2Proof/Machine/Acc.lean ====
section
/-! DEFINITION. The accumulator store (R290) and its entries as the accumulator forms read and write them (R282). -/

namespace Sys2Proof.Machine
open Sys2Proof

/-- An entry after reset (R286). -/
abbrev accReset : DWord := 0x80000000#64

/-- The bits of an entry that are not reserved; the reserved ones stay zero (R7, R290; log 84). -/
abbrev accBits : DWord := 0x3DFF_FFFF_FFFF_FFFF#64

/-- The fields of an entry. -/
def accValue (e : DWord) : Word := bits e 0 32
def accCount (e : DWord) : Nat := (bits e 32 24).toNat
def accCsat (e : DWord) : Bool := bit e 61

/-- The flags NX UF OF DZ IV of an entry, as FPFLAGS orders them; DZ is not held. -/
def accFl (e : DWord) : Fl := BitVec.ofBool (bit e 60) ++ BitVec.ofBool (bit e 59) ++ BitVec.ofBool (bit e 58) ++ 0#1 ++ BitVec.ofBool (bit e 56)

/-- An entry from its fields; the reserved bits are zero. -/
def accEntry (csat : Bool) (fl : Fl) (count : Nat) (value : Word) : DWord :=
  0#2 ++ BitVec.ofBool csat ++ BitVec.ofBool (bit fl 4) ++ BitVec.ofBool (bit fl 3) ++ BitVec.ofBool (bit fl 2) ++ 0#1 ++
    BitVec.ofBool (bit fl 0) ++ BitVec.ofNat 24 count ++ value

/-- VALUE as a matrix word reads it: an absent code as −0 (R290). -/
def accRead (e : DWord) : Word := if accValue e == ones32 then 0x80000000#32 else accValue e

/-- An entry of the store by row·64 + column; one that is not listed holds its reset value. -/
def accGet : List (Nat × DWord) → Nat → DWord
  | [], _ => accReset
  | c :: cs, k => if c.1 == k then c.2 else accGet cs k

/-- The list with an entry written: keys rising, and no entry at its reset value. -/
def accPut : List (Nat × DWord) → Nat → DWord → List (Nat × DWord)
  | [], k, v => if v == accReset then [] else [(k, v)]
  | c :: cs, k, v =>
    if k < c.1 then (if v == accReset then c :: cs else (k, v) :: c :: cs)
    else if k == c.1 then (if v == accReset then cs else (k, v) :: cs)
    else c :: accPut cs k v

/-- Entry (r, c) of a sequencer's store. -/
def Seq.entry (q : Seq) (r c : Nat) : DWord := accGet q.acc (r * 64 + c)
def Seq.setEntry (q : Seq) (r c : Nat) (v : DWord) : Seq := { q with acc := accPut q.acc (r * 64 + c) v }

/-- An entry as an accumulator form of type `t` reads it (R282). -/
def accForm (t : Ty) (e : DWord) : Nat :=
  match t with
  | .f32 => if accCount e == 0 then 0xFFFFFFFF else (accValue e).toNat
  | .n32 => accCount e
  | _ => e.toNat

/-- The entry that a write of code `x` of type `t` makes (R282). -/
def accOfForm (t : Ty) (x : Nat) : DWord :=
  match t with
  | .f32 => if x == 0xFFFFFFFF then accReset else accEntry false 0 1 (BitVec.ofNat 32 x)
  | _ => BitVec.ofNat 64 x &&& accBits

/-- A position register: row and column; none where R282 refuses it. -/
def accPos (p : Word) : Option (Nat × Nat) :=
  if p &&& ~~~0x3F01FF#32 == 0 then some ((bits p 0 9).toNat, (bits p 16 6).toNat) else none

/-- A shape register: rows and columns. -/
def accShape (p : Word) : Option (Nat × Nat) :=
  let r := (bits p 0 10).toNat
  let c := (bits p 16 7).toNat
  if p &&& ~~~0x7F03FF#32 == 0 && 1 ≤ r && r ≤ 512 && 1 ≤ c && c ≤ 64 then some (r, c) else none

/-- The sequencer of a team, if it holds the engine. -/
def State.seqOf (s : State) (t : Nat) : Option Seq := (s.team t).seq

/-- The sequencer of a team changed. -/
def State.modSeq (s : State) (t : Nat) (f : Seq → Seq) : State := s.modTeam t fun x => { x with seq := x.seq.map f }

end Sys2Proof.Machine
end

