-- ==== Sys2Proof/Machine/Order.lean ====
section
/-! DEFINITION. What team barriers order among the groups and the matrix sequencer of a team (R262), and what is undefined where they do
not: accumulator entries (R283) and the registers that a matrix word reads (R305). -/

namespace Sys2Proof.Machine
open Sys2Proof

/-! ## Clocks (R262) -/

/-- Two clocks joined. -/
def Clock.join (a b : Clock) : Clock := b.foldl (fun a e => insertK a e.1 (max (lookupD a e.1 0) e.2)) a

/-- The matrix sequencer as a party of its team. -/
abbrev seqParty : Nat := 32

/-- What party `p` knows. -/
def Order.clock (o : Order) (p : Nat) : Clock := lookupD o.clocks p []

/-- Below which number party `p` knows the events of party `q`. -/
def Order.knows (o : Order) (p q : Nat) : Nat := lookupD (o.clock p) q 0

/-- Party `p` learns what a clock holds. -/
def Order.learn (o : Order) (p : Nat) (c : Clock) : Order := { o with clocks := insertK o.clocks p ((o.clock p).join c) }

def Team.bar (t : Team) (b : Nat) : Bar := vecAt t.bars b (Bar.fresh 0)
def Team.setBar (t : Team) (b : Nat) (x : Bar) : Team := { t with bars := vecPut t.bars b x }

/-- Under this number a clock keeps the arrivals of the sequencer itself that a phase counts (R305). -/
abbrev seqOwn : Nat := 33

/-- An arrival of party `p`, whose events so far have numbers below `n`, brings what it knows to the current phase of barrier `b` (R262); only
the sequencer's own is known as such (R305). -/
def Team.brings (t : Team) (b p n : Nat) : Team :=
  let o := t.order.learn p [(p, n)]
  let x := t.bar b
  let own : Clock := if p == seqParty then [(seqOwn, n)] else []
  { t.setBar b { x with gather := (x.gather.join ((o.clock p).filter fun e => e.1 != seqOwn)).join own } with order := o }

/-- Uses of the accumulator store that the sequencer knows cannot conflict any more (R283). -/
def Order.pruned (o : Order) : Order :=
  { o with uses := o.uses.filter fun (u : AccUse) => match u.stamp with
      | some n => o.knows seqParty u.gidx ≤ n
      | none => true }

/-- Party `p` may consume a phase (R258). -/
def Bar.passable (x : Bar) (i : Nat) : Bool := (x.ph - vecAt x.wph i 0).toNat ≥ 1

/-- Party `i` consumes a phase. -/
def Bar.consume (x : Bar) (i : Nat) : Bar := { x with wph := vecPut x.wph i (vecAt x.wph i 0 + 1) }

/-- Party `i` consumes a phase of barrier `b` and learns what its arrivals brought (R258, R262). -/
def Team.consume (t : Team) (b i : Nat) : Team :=
  let x := t.bar b
  let o := t.order.learn i (((x.past.find? fun e => e.1 == vecAt x.wph i 0).map (·.2)).getD [])
  { t.setBar b (x.consume i) with order := if i == seqParty then o.pruned else o }

/-! ## Happens-before (R231, R262, R305) -/

/-- Some matrix team is there, so that what happens before what decides a value. -/
def State.hbOn (s : State) : Bool := s.teams.any fun t => t.hdr.matrix && t.st != .ended

abbrev groupParty (g : Nat) : Nat := 2 * g
abbrev mxParty (t : Nat) : Nat := 2 * t + 1

def Hb.clock (h : Hb) (p : Nat) : Clock := lookupD h.clocks p []
def Hb.learn (h : Hb) (p : Nat) (c : Clock) : Hb := { h with clocks := insertK h.clocks p ((h.clock p).join c) }
def Hb.gather (h : Hb) (k : Meeting) : Clock := ((h.gathers.find? fun e => e.1 == k).map (·.2)).getD []

/-- Below which number the arrivals of party `q` are known to party `p`. -/
def Hb.knows (h : Hb) (p q : Nat) : Nat := lookupD (h.clock p) q 0

/-- An arrival of party `p`, its `n`-th event: what it knows is brought to the current phase of `k` (R262). -/
def Hb.arrive (h : Hb) (k : Meeting) (p n : Nat) : Hb :=
  let h1 := h.learn p [(p, n)]
  { h1 with gathers := h1.gathers.filter (fun e => e.1 != k) ++ [(k, (h.gather k).join (h1.clock p))] }

/-- Phase `n` of `k` is complete. -/
def Hb.phase (h : Hb) (k : Meeting) (n : Nat) : Hb :=
  { h with gathers := h.gathers.filter (fun e => e.1 != k), pasts := h.pasts.filter (fun e => !(e.1 == k && e.2.1 == n)) ++ [(k, n, h.gather k)] }

/-- Party `p` has waited for phase `n` of `k`: every arrival counted in it happens before (R262). -/
def Hb.consume (h : Hb) (k : Meeting) (n p : Nat) : Hb :=
  match h.pasts.find? fun e => e.1 == k && e.2.1 == n with
  | some e => h.learn p e.2.2
  | none => h

/-- The arrivals counted so far discarded. -/
def Hb.discard (h : Hb) (k : Meeting) : Hb := { h with gathers := h.gathers.filter fun e => e.1 != k }

/-- `k` begins anew: its phases are numbered from the start again. -/
def Hb.renew (h : Hb) (k : Meeting) : Hb := { h.discard k with pasts := h.pasts.filter fun e => e.1 != k }

/-- Two ranges of bytes meet. -/
def Place.meets (p : Place) (n : Nat) (q : Place) (m : Nat) : Bool :=
  match p, q with
  | .pad t o, .pad u k => t == u && o < k + m && k < o + n
  | .mem a, .mem b => a < b + m && b < a + n
  | _, _ => false

/-- Bytes written: no acquire of them reads from an older release. -/
def Hb.drop (h : Hb) (p : Place) (n : Nat) : Hb := { h with rels := h.rels.filter fun r => !r.place.meets r.bytes p n }

/-- A SYN store of party `x`, a release (R231). -/
def Hb.release (h : Hb) (p : Place) (n : Nat) (rel : Option (Nat × Scope)) (x : Nat) : Hb :=
  { h.drop p n with rels := (h.drop p n).rels ++ [{ place := p, bytes := n, rel, clock := h.clock x }] }

/-- A SYN atomic: it carries on the release sequence of the bytes it writes (R231). -/
def Hb.releaseOn (h : Hb) (p : Place) (n : Nat) (rel : Option (Nat × Scope)) (x : Nat) : Hb :=
  let older := (h.rels.filter fun r => r.place.meets r.bytes p n).foldl (fun c r => c.join r.clock) (h.clock x)
  { h.drop p n with rels := (h.drop p n).rels ++ [{ place := p, bytes := n, rel, clock := older }] }

/-- A SYN load or atomic of party `x`, an acquire: it learns what the releases it reads from and matches knew (R231, R237); `ok` says which
records match. -/
def Hb.acquire (h : Hb) (p : Place) (n x : Nat) (ok : Option (Nat × Scope) → Bool) : Hb :=
  (h.rels.filter fun r => r.place.meets r.bytes p n && ok r.rel).foldl (fun h r => h.learn x r.clock) h

/-- Happens-before changed, while it decides a value. -/
def State.modHb (s : State) (f : Hb → Hb) : State := { s with hb := if s.hbOn then f s.hb else s.hb }

/-! ## Entries of the accumulator store (R283, R306) -/

/-- The block of 16 × 16 entries in which an entry lies. -/
def accBlock (r c : Nat) : Nat := r / 16 * 4 + c / 16

/-- The blocks of a tile (R291). -/
def tileBlocks (trow : BitVec 5) (tcol : BitVec 2) : List Nat :=
  [4 * trow.toNat + tcol.toNat, 4 * (trow.toNat + 1) + tcol.toNat]

/-- An undefined entry: value, count and flags are free, the reserved bits zero (R283, R305; log 4). -/
def undefEntry (tick k : Nat) : DWord := Config.undef tick k &&& accBits

/-- The entries in `cells`, by row·64 + column, become undefined. -/
def Seq.openCells (q : Seq) (tick : Nat) (cells : List Nat) : Seq :=
  { q with acc := cells.foldl (fun a k => accPut a k (undefEntry tick k)) q.acc }

/-- A matrix word has touched blocks: the touch is not over before any arrival so far, except before those at which `stamp` says so. -/
def Order.touched (o : Order) (bs : List Nat) (stamp : Option Nat) : Order :=
  { o with blocks := bs.foldl (fun l b => insertK l b stamp) o.blocks }

/-- Every touch so far is over before the next arrival (R302, R306). -/
def Order.synced (o : Order) : Order :=
  { o with blocks := o.blocks.map fun b => (b.1, some (b.2.getD o.arrivals)) }

/-- An accumulator form of a party that knows of `known` arrivals of the sequencer is not ordered after the last matrix word that touched an
entry (R283). -/
def Order.formClash (o : Order) (known r c : Nat) : Bool :=
  match o.blocks.find? fun b => b.1 == accBlock r c with
  | some (_, some n) => known ≤ n
  | some (_, none) => true
  | none => false

/-- The use reaches an entry. -/
def AccUse.has (u : AccUse) (r c : Nat) : Bool := u.rows.contains r && u.col ≤ c && c < u.col + u.cols

/-- What the sequencer does is not ordered after the use. -/
def Order.unordered (o : Order) (u : AccUse) : Bool :=
  match u.stamp with
  | some n => o.knows seqParty u.gidx ≤ n
  | none => true

/-- A matrix word is not ordered after an accumulator form that touched an entry (R283). -/
def Order.wordClash (o : Order) (r c : Nat) : Bool := o.uses.any fun u => u.has r c && o.unordered u

/-- The entries that an accumulator form touches and that it is not ordered with, by row·64 + column. -/
def Order.formOpen (o : Order) (known : Nat) (rows : List Nat) (col cols : Nat) : List Nat :=
  if o.blocks.isEmpty then []
  else rows.flatMap fun r => ((List.range cols).filter fun j => o.formClash known r (col + j)).map fun j => r * 64 + col + j

/-- The numbers of a group's commands that a CWAIT has found complete: batches up to `n` (R276, R283). -/
def Order.waited (o : Order) (g issue : Nat) (n : Word) : Order :=
  { o with uses := o.uses.map fun (u : AccUse) => match u.stamp, u.batch with
      | none, some m => if u.gidx == g && (n - m).toNat < 2 ^ 31 then { u with stamp := some issue } else u
      | _, _ => u }

/-- The uses of a group's commands that no batch has closed are closed into batch `n` (R276). -/
def Order.closed (o : Order) (g : Nat) (n : Word) : Order :=
  { o with uses := o.uses.map fun (u : AccUse) =>
      if u.gidx == g && u.stamp.isNone && u.batch.isNone then { u with batch := some n } else u }

/-! ## Registers that a matrix word reads (R305) -/

/-- The issue number of a group's last write to vector register `r` with T = 0; 0 before any. -/
def Group.lastWrite (g : Group) (r : Nat) : Nat :=
  (g.out.filter fun p => !p.t && p.ws.any fun w => w.same (.v r (Vector.replicate 32 0) 0 0)).foldl
    (fun n p => max n p.n) (vecAt g.regs.vNo r 0)

/-- No write to registers `r` to `r+n-1` of a group since its event `since`. -/
def Group.unwritten (g : Group) (since r n : Nat) : Bool :=
  (List.range n).all fun k => g.lastWrite (r + k) == 0 || g.lastWrite (r + k) < since

/-- The last writes of group `g` to registers `r` to `r+n-1` came before an arrival of it that happens before what the sequencer of its team does
now (R305). -/
def State.settledRegs (s : State) (g r n : Nat) : Bool :=
  (s.group g).unwritten (s.hb.knows (mxParty (s.group g).team) (groupParty g)) r n

/-- A matrix word has overwritten blocks whole: what came of older reads is gone. -/
def Order.overwritten (o : Order) (bs : List Nat) : Order :=
  { o with reads := (o.reads.map fun (x : MxRead) => { x with blocks := x.blocks.filter fun b => !bs.contains b }).filter fun x => !x.blocks.isEmpty }

/-- The entries of a block. -/
def blockCells (b : Nat) : List Nat :=
  (List.range 16).flatMap fun i => (List.range 16).map fun j => (b / 4 * 16 + i) * 64 + b % 4 * 16 + j

/-- The reads of the team's matrix words looked at again (R305): where a group has written one of the registers without having consumed a
phase that counts a later arrival of the sequencer, the entries that came of it are undefined; a group that has waited may write again. -/
def State.checkReads (s : State) (t : Nat) : State :=
  let x := s.team t
  if x.order.reads.isEmpty || x.st != .resident then s
  else
    let waiting (r : MxRead) : Bool := x.order.knows r.gidx seqOwn ≤ r.stamp
    let broken (r : MxRead) : Bool := match s.groupAt t r.gidx with
      | some g => r.regs.any fun p => !(s.group g).unwritten r.since p.1 p.2
      | none => false
    let bad := (x.order.reads.filter fun r => waiting r && broken r).flatMap (·.blocks)
    let s1 := s.modTeam t fun y => { y with order := { y.order with reads := y.order.reads.filter fun r => waiting r && !broken r } }
    s1.modSeq t fun q => q.openCells s.tick (bad.dedup.flatMap blockCells)

end Sys2Proof.Machine
end

