-- ==== Sys2Proof/Machine/Life.lean ====
section
/-! DEFINITION. What ends and releases: team barriers and their phases (R257-R259), donations (R117), paddock barriers
(R266), fold messages (R341, R342), run-ahead undone and confirmed (R349, R350), and lanes, groups and teams that end
(R139). -/

namespace Sys2Proof.Machine
open Sys2Proof

/-! ## Team barriers (R257, R258) -/

/-- The bits set in a word. -/
def popc (w : Word) : Nat := ((List.range 32).filter fun i => bit w i).length

/-- The phase is complete (R257). -/
def Bar.complete (b : Bar) : Bool := popc b.memb + b.extra.toNat ≤ b.arrv

/-- A donation of a completed phase carried out (R117). -/
def State.donate (s : State) (t : Nat) (d : Donation) : State :=
  let x := s.group d.donor
  let r := s.groupAt t d.recipient.toNat
  let void := x.evlim < 64 || d.recipient.toNat ≥ (s.team t).hdr.groups || d.recipient.toNat == x.gidx ||
    (match r with | none => true | some r => (s.group r).evlim ≥ 64 || (s.group r).ended)
  -- sD is written now, in the state that a rollback of younger run-ahead restores too
  let fill (v : Word) (s : State) : State :=
    (s.modGroup d.donor fun g => { g with out := g.out.filter fun p => p.n != d.n || p.ready }).deliverTo d.donor d.n false
      [.s d.dst v ones32] []
  if void then fill 0 s
  else
    let s1 := if x.ext then s.modTeam t fun tm => { tm with xfree := tm.xfree + 1 } else s
    let s2 := fill 1 (s1.modGroup d.donor fun g => { g.dropExt with evlim := 63 })
    match r with
    | some r => s2.modGroup r fun g => { g with evlim := x.evlim }
    | none => s2

/-- CheckComplete of barrier `b` of team `t` (R257): PH goes up, the count returns to 0, what the arrivals brought is kept for the waits
(R262), donations are carried out in ascending donor index. -/
def State.checkBar (s : State) (t b : Nat) : State :=
  let x := (s.team t).bar b
  if x.complete then
    let ds := (s.team t).don.filter fun d => d.bar == b && d.phase == x.ph
    let s1 := (s.modHb fun h => h.phase (.bar t b) x.ph.toNat).modTeam t fun tm =>
      { tm.setBar b { x with ph := x.ph + 1, arrv := 0, gather := [], past := x.past ++ [(x.ph, x.gather)] } with don := tm.don.filter fun d => !(d.bar == b && d.phase == x.ph) }
    (sortBy (fun a c => (s.group a.donor).gidx ≤ (s.group c.donor).gidx) ds).foldl (fun s d => s.donate t d) s1
  else s

/-- The issue number of a team's group `i`. -/
def State.issueOf (s : State) (t i : Nat) : Nat :=
  match s.groupAt t i with
  | some g => (s.group g).issueNo
  | none => 0

/-- The arrival of team-relative group `i` at a team barrier, for what happens before what (R262). -/
def State.hbArrive (s : State) (t b i n : Nat) : State :=
  match s.groupAt t i with
  | some g => s.modHb fun h => h.arrive (.bar t b) (groupParty g) n
  | none => s

/-- One arrival of team-relative group `i` (R258, R262). -/
def State.arrive (s : State) (t b i : Nat) : State :=
  let n := s.issueOf t i
  ((s.hbArrive t b i n).modTeam t fun tm =>
    let y := tm.brings b i n
    let x := y.bar b
    y.setBar b { x with arrv := x.arrv + 1, arrp := vecPut x.arrp i (some x.ph) }).checkBar t b

/-- An arrival of the matrix sequencer, a party outside MEMB (R258, R262). -/
def State.arriveSeq (s : State) (t b : Nat) : State :=
  ((s.modHb fun h => h.arrive (.bar t b) (mxParty t) ((s.team t).order.arrivals + 1)).modTeam t fun tm =>
    let n := tm.order.arrivals + 1
    let y := { tm with order := { tm.order with arrivals := n } }.brings b seqParty n
    y.setBar b { y.bar b with arrv := (y.bar b).arrv + 1 }).checkBar t b

/-- Group `i` has arrived in the current phase already (R258). -/
def Bar.arrived (x : Bar) (i : Nat) : Bool := bit x.memb i && vecAt x.arrp i none == some x.ph

/-- BDROP of group `i` (R258): for what it orders it is an arrival in the current phase (R262). -/
def State.dropBar (s : State) (t b i : Nat) : State :=
  if !bit ((s.team t).bar b).memb i then s
  else
    let n := s.issueOf t i
    ((s.hbArrive t b i n).modTeam t fun tm =>
      let y := tm.brings b i n
      let x := y.bar b
      y.setBar b { x with arrv := if vecAt x.arrp i none == some x.ph then x.arrv - 1 else x.arrv,
                          memb := x.memb &&& ~~~(1#32 <<< i) }).checkBar t b

/-! ## Paddock barriers (R266) -/

def State.paddock (s : State) (k : Nat) : Paddock :=
  s.paddocks.getD k { grid := 0, teams := [], clus0 := 0, clus1 := none, bars := Vector.replicate 4 {} }

def State.modPBar (s : State) (k b : Nat) (f : PBar → PBar) : State :=
  let p := s.paddock k
  { s with paddocks := s.paddocks.set k { p with bars := vecPut p.bars b (f (vecAt p.bars b {})) } }

/-- Team `t` has arrived: every group of it that has not ended has arrived in this phase. -/
def State.teamArrived (s : State) (x : PBar) (t : Nat) : Bool :=
  (s.teamGroups t).all fun g => (s.group g).ended || x.arrp.any fun e => e.1 == g && e.2 == x.ph

/-- The local phase of a die half: every live team of the half has arrived. -/
def State.halfArrived (s : State) (k b : Nat) (second : Bool) : Bool :=
  let p := s.paddock k
  let c := if second then p.clus1 else some p.clus0
  p.teams.all fun t =>
    (s.team t).st == .ended || some (clusterOf (s.team t).core) != c || s.teamArrived (vecAt p.bars b {}) t

/-- A completed phase of a paddock barrier. -/
def PBar.next (x : PBar) : PBar := { x with ph := x.ph + 1, local0 := false, local1 := false }

/-- A phase of a paddock barrier completes (R262, R266). -/
def State.nextPad (s : State) (k b : Nat) : State :=
  let n := (vecAt (s.paddock k).bars b {}).ph.toNat
  (s.modPBar k b PBar.next).modHb fun h => h.phase (.pad k b) n

/-- Local phases checked; a paddock on one cluster has an empty cross-die phase. -/
def State.checkPaddock (s : State) (k b : Nat) : State :=
  let p := s.paddock k
  if p.teams.all fun t => (s.team t).st == .ended then s
  else
    let l0 := s.halfArrived k b false
    match p.clus1 with
    | none => if l0 then s.nextPad k b else s
    | some _ => s.modPBar k b fun x => { x with local0 := x.local0 || l0, local1 := x.local1 || s.halfArrived k b true }

/-- The arrival of group `g`. -/
def State.arrivePaddock (s : State) (k b g : Nat) : State :=
  ((s.modPBar k b fun x => { x with arrp := insertK x.arrp g x.ph }).modHb fun h =>
    h.arrive (.pad k b) (groupParty g) (s.group g).issueNo).checkPaddock k b

/-! ## Messages and folds (R341, R342) -/

/-- A message sent. -/
def State.send (s : State) (m : Msg) : State := { s with msgs := s.msgs ++ [m] }

/-- The key of a group (R341): CORELOC[16:0] × 64 + slot. -/
def State.foldKey (s : State) (g : Nat) : Nat :=
  (s.coreloc (s.team (s.group g).team).core).toNat % 2 ^ 17 * 64 + (s.group g).slot

def Group.fold (g : Group) (k : Nat) : FoldSlot := vecAt g.folds k {}
def Group.setFold (g : Group) (k : Nat) (f : FoldSlot) : Group := { g with folds := vecPut g.folds k f }

/-- The slot holds a formed fold. -/
def FoldSlot.valid (f : FoldSlot) : Bool := bit f.id 31
/-- The fold's id. -/
def FoldSlot.fid (f : FoldSlot) : Nat := (bits f.id 0 12).toNat

/-- The join of a slot that waits for fold `id`, withdrawn (R341): a leave follows it to the root, unless the fold has formed without
it and refuses it. -/
def State.withdraw (s : State) (g k id key : Nat) : State :=
  let formed := s.pkg.folds.any fun f => f.id == id && f.formed
  let counted := s.msgs.any fun m => match m with | .formed g' k' _ _ => g' == g && k' == k | _ => false
  if formed && !counted then
    { s with msgs := s.msgs.filter fun m => match m with
        | .join i x _ => !(i == id && x == key)
        | .refused g' k' _ => !(g' == g && k' == k)
        | _ => true }
  else s.send (.leave id key)

/-- The leaves of a group that ends, for every slot it holds or has a join waiting in (R341, R342). -/
def State.leaveAll (s : State) (g : Nat) : State :=
  (List.range 4).foldl (fun s k =>
    let f := (s.group g).fold k
    let s1 := if f.valid then s.send (.leave f.fid f.key)
      else match f.joining with
        | some id => s.withdraw g k id f.key
        | none => s
    s1.modGroup g fun x => x.setFold k {}) s

/-! ## Run-ahead (R346-R350) -/

/-- The group rolled back to its CBR (R350, steps 1 to 5): STATUS keeps VOTEMIX (R344). -/
def Group.rollback (g : Group) : Group :=
  match g.ra with
  | none => g
  | some r =>
    { g with
      regs := { r.regs with status := (r.regs.status &&& ~~~0x10#32) ||| (g.regs.status &&& 0x10#32) }
      sets := r.sets, stack := r.stack, loops := r.loops, win := [], issueNo := r.startNo
      out := g.out.filter fun p => p.n < r.startNo
      ra := none }

/-- Rolled back, the group waits at its CBR with its contribution counted and PEND set (R355). -/
def Group.rollbackWaiting (g : Group) : Group :=
  match g.ra with
  | none => g
  | some r =>
    let x := g.rollback
    (x.setFold r.slot { x.fold r.slot with wait := some r.cbr }).putSet r.cbr.entry
      { x.set r.cbr.entry with stalled := true, served := 1 }

/-! ## Lanes, groups and teams that end (R139) -/

/-- A team whose last group has ended (R139): its donations are gone and its sequencer is abandoned (R286); its
scratchpad and store stay for the commands that still complete (R284). -/
def Team.finish (t : Team) : Team :=
  { t with st := .ended, don := [], xq := [], seq := t.seq.map (fun q => { q with st := .ended }), preq := false, qexp := false }

/-- Whether every group of a team has ended. -/
def State.teamDone (s : State) (t : Nat) : Bool := (s.teamGroups t).all fun g => (s.group g).ended

/-- The team ends if its last group has; its paddock's barriers are looked at again (R266). -/
def State.endTeam (s : State) (t : Nat) : State :=
  let pb (s : State) : State :=
    match (s.team t).paddock with
    | some k => (List.range 4).foldl (fun s b => s.checkPaddock k b) s
    | none => s
  if (s.team t).st != .ended && s.teamDone t then pb (s.modTeam t Team.finish) else pb s

/-- A group with no live lane, lending none, ends: its block returns to the reservation, it leaves every barrier and
fold, its donation is cancelled (R114, R117, R139, R259, R342).  A fresh group whose last thread has ended gives its home groups
what a dissolution gives them (DESIGN CHOICE, log 79). -/
def State.endGroup (s : State) (g : Nat) : State :=
  let x := s.group g
  if x.ended || x.live != 0 || x.lent != 0 then s
  else if !x.homes.isEmpty then s.dissolve g
  else
    let s1 := (s.leaveAll g).setGroup g { x with
      ended := true, ext := false, xwait := false, sets := Vector.replicate 4 {}, stack := [], ra := none, trapReq := none,
      handler := none, folds := Vector.replicate 4 {}, win := [] }
    let s2 := s1.modTeam x.team fun t =>
      { t with xfree := if x.ext then t.xfree + 1 else t.xfree, xq := t.xq.filter (· != g),
               don := t.don.filter fun d => d.donor != g }
    ((List.range 16).foldl (fun s b => s.dropBar x.team b x.gidx) s2).endTeam x.team

/-- Lanes that leave the user trap handler; with the last one the held splits are released (R75). -/
def Group.leaveHandler (g : Group) (m : Word) : Group :=
  { g with handler := (g.handler.map fun (h : Handler) => { h with lanes := h.lanes &&& ~~~m }).filter fun h => h.lanes != 0 }

/-- Lanes taken from every lane set and rejoin set of a group (R139). -/
def Group.removeLanes (g : Group) (m : Word) : Group :=
  let f (l : LaneSet) : LaneSet := if l.lanes &&& ~~~m == 0 then {} else { l with lanes := l.lanes &&& ~~~m, rj := l.rj &&& ~~~m }
  (({ g with live := g.live &&& ~~~m, sets := vecMap f g.sets,
             stack := (g.stack.map f).filter fun l => l.lanes != 0 }.leaveHandler m).settle).barReady

/-- The virtual lanes of fresh group `f` whose threads come from lanes `m` of home group `h` (R150). -/
def Group.virtualOf (f : Group) (h : Nat) (m : Word) : Word :=
  maskOf fun i => match f.homes[i]? with
    | some q => q.1 == h && q.2 < 32 && bit m q.2
    | none => false

/-- Threads of home group `h` that are lent to fresh groups end there (R153, R185); a fresh group without a live lane dissolves. -/
def State.endLent (s : State) (h : Nat) (m : Word) : State :=
  (s.freshGroups (s.group h).team).foldl (fun s f =>
    let v := (s.group f).virtualOf h m &&& (s.group f).live
    if v == 0 then s
    else ((s.modGroup f fun x => x.removeLanes v).dropGone f (s.group f).loops).endGroup f) s

/-- Lanes of a group end or are killed (R139); a lent lane ends in its home group too (R153). -/
def State.endLanes (s : State) (g : Nat) (m : Word) : State :=
  let x := s.group g
  let s1 := (s.modGroup g fun x => x.removeLanes m).dropGone g x.loops
  let s2 := (homesOf x.homes).foldl (fun s h =>
    let mine := homeLanes x.homes h m
    ((s.modGroup h fun y => { y.removeLanes mine with lent := y.lent &&& ~~~mine }).dropGone h (s.group h).loops).endGroup h) s1
  s2.endGroup g

/-- Lanes killed by the privileged handler: run-ahead is rolled back first (R355); those lent to fresh groups end there, too (R153, R185). -/
def State.killLanes (s : State) (g : Nat) (m : Word) : State :=
  let s1 := s.modGroup g Group.rollbackWaiting
  let x := s1.group g
  let s2 := if x.lent &&& m == 0 then s1
    else (s1.endLent g m).modGroup g fun y => { y with lent := x.lent &&& ~~~m, live := x.live }
  s2.endLanes g m

end Sys2Proof.Machine
end

