-- ==== Sys2Proof/Machine/Memory.lean ====
section
/-! DEFINITION. Memory as the machine reaches it: what is installed (R25), translation
(R429-R432), the scratchpad windows (R213), and instruction words (R33, R159). -/

namespace Sys2Proof.Machine
open Sys2Proof

/-! ## What is installed (R25) -/

/-- Whether memory or I/O space is installed at a physical address (R25); what a peer installs is not known here, and its
whole DDR-5 range counts as installed (log 13). -/
def State.installed (s : State) (pa : Nat) : Bool :=
  let o := paOff pa
  if o < 0x8000000000 then true
  else if o < 0x10000000000 then false
  else if o < 0x50000000000 then
    paPkg pa != s.pkg.num.toNat || o - 0x10000000000 < s.pkg.ddrcap.toNat * 2 ^ 30
  else if o < 0x70000000000 then o - 0x50000000000 < Config.cxlGrant
  else true

/-- Where page tables may lie: this package's HBM range or the installed part of its DDR-5 range (R431). -/
def State.tableOk (s : State) (pa : Nat) : Bool :=
  let o := paOff pa
  paPkg pa == s.pkg.num.toNat &&
    (o < 0x8000000000 || (0x10000000000 ≤ o && o < 0x10000000000 + s.pkg.ddrcap.toNat * 2 ^ 30))

/-- `n` bytes written at home by a store of the hardware (R391, R420). -/
def State.homePut (s : State) (pa n v : Nat) (rel : Option (Nat × Scope)) : State :=
  { s with mem := s.mem.homeWrite pa n v rel, hb := s.hb.drop (.mem pa) n }

/-! ## Translation (R429-R432) -/

/-- What an access is to the walk. -/
inductive AKind where
  | load | store | fetch
deriving DecidableEq, Repr

/-- A fault of the walk: code, subcode, INFO. -/
structure XFault where
  code : Nat
  sub : Nat
  info : DWord
deriving DecidableEq, Repr

/-- A leaf as a walk finds it: the page's base and size, the entry and its address. -/
structure Leaf where
  base : Nat
  size : Nat
  leaf : DWord
  ea : Nat
deriving DecidableEq, Repr

/-- Index of a level (R429). -/
def vaIndex (va level : Nat) : Nat := va / 2 ^ (12 + 9 * level) % 512

/-- PTE fields (R430). -/
def pteT (e : DWord) : Nat := (bits e 62 2).toNat
def pteAddr (e : DWord) : Nat := (bits e 12 40).toNat * 4096
def pteDup (e : DWord) : Nat := (bits e 60 2).toNat
def ptePart (e : DWord) : Nat := (bits e 52 4).toNat
def pteMem (e : DWord) : Nat := (bits e 8 2).toNat

/-- Page size of a leaf (R429). -/
def leafSize (level : Nat) (sz64 : Bool) : Nat :=
  match level with
  | 2 => 2 ^ 30 | 1 => 2 ^ 21 | _ => if sz64 then 2 ^ 16 else 4096

/-- The walk down to the leaf (R431), `fuel` levels at most; entries are read at home.  The level where it stopped and the
last entry come with the answer (R434). -/
def State.walkFrom (s : State) (va : Nat) : Nat → Nat → Nat → (Except XFault Leaf) × Nat × DWord
  | 0, level, _ => (.error ⟨0x01, 0x02, 0⟩, level, 0)
  | fuel + 1, level, ea =>
    let e : DWord := BitVec.ofNat 64 (s.mem.homeNat ea 8)
    let bad (sub : Nat) (ea : Nat) (e : DWord) : (Except XFault Leaf) × Nat × DWord :=
      (.error ⟨0x01, sub, BitVec.ofNat 64 ea⟩, level, e)
    if s.mem.poisoned (ea / 128) then (.error ⟨0x07, 0, BitVec.ofNat 64 ea⟩, level, e)
    else if pteT e == 0 then bad 0x01 ea e
    else if pteT e == 3 || bits e 0 8 != 0 then bad 0x02 ea e
    else if pteT e == 1 then
      if level == 0 || bits e 52 10 != 0 || bits e 8 4 != 0 then bad 0x02 ea e
      else if !s.tableOk (pteAddr e) then bad 0x04 ea e
      else s.walkFrom va fuel (level - 1) (pteAddr e + 8 * vaIndex va (level - 1))
    else
      let sz := level == 0 && bit e 56
      let ea' := if sz then ea - ea % 128 else ea
      let e' : DWord := if sz then BitVec.ofNat 64 (s.mem.homeNat ea' 8) else e
      if sz && (pteT e' != 2 || !bit e' 56 || bits e' 12 4 != 0) then bad 0x02 ea' e'
      else
        let size := leafSize level sz
        if level ≥ 3 || (level ≥ 1 && bit e' 56) || pteAddr e' % size != 0 || pteDup e' ≥ 2 || pteMem e' ≥ 2 ||
            (pteMem e' == 1 && bit e' 59) then bad 0x02 ea' e'
        else (.ok { base := va - va % size, size, leaf := e', ea := ea' }, level, e')

/-- The walk of context `c` for `va`. -/
def State.walk (s : State) (c va : Nat) : (Except XFault Leaf) × Nat × DWord :=
  s.walkFrom va 5 4 ((s.ctx c).root.toNat + 8 * vaIndex va 4)

/-- The firmware's region at the base of DDR-5, which tasks cannot map (R452). -/
def isFirmware (pa : Nat) : Bool := 0x10000000000 ≤ paOff pa && paOff pa < 0x10004000000

/-- The checks of R431 on a leaf; I/O space is reached through pages with MEM = 1 only (R25, R410; DEDUCED, log 82). -/
def State.leafCheck (s : State) (c : Nat) (user : Bool) (k : AKind) (va : Nat) (l : Leaf) : Option XFault :=
  let pa := pteAddr l.leaf + va % l.size
  let x (sub : Nat) : Option XFault := some ⟨0x01, sub, BitVec.ofNat 64 l.ea⟩
  let w (sub : Nat) : Option XFault := some ⟨0x02, sub, l.leaf⟩
  if isIo pa && pteMem l.leaf == 0 then x 0x02
  else if !s.installed pa || isFirmware pa then x 0x03
  else if !bit (bits (s.ctx c).cfg 16 16) (ptePart l.leaf) then x 0x05
  else if user && !bit l.leaf 59 then w 0x03
  else if k == .fetch && !bit l.leaf 57 then w 0x04
  else if k == .store && pteDup l.leaf == 1 then w 0x02
  else if k == .store && !bit l.leaf 58 then w 0x01
  else none

/-- A cached translation that covers `va` (R432). -/
def MemSys.cachedLeaf (m : MemSys) (core c va : Nat) : Option Leaf :=
  (m.tlb.find? fun t => t.core == core && t.ctx == c && t.base ≤ va && va < t.base + t.size).map fun t =>
    { base := t.base, size := t.size, leaf := t.leaf, ea := t.ea }

/-- The translation of `va` for an access: the leaf, or the fault.  A cached translation is used while it is there. -/
def State.lookup (s : State) (core c : Nat) (user : Bool) (k : AKind) (va : Nat) : Except XFault Leaf :=
  let r : Except XFault Leaf := match s.mem.cachedLeaf core c va with
    | some l => .ok l
    | none => (s.walk c va).1
  match r with
  | .error f => .error f
  | .ok l => match s.leafCheck c user k va l with
    | some f => .error f
    | none => .ok l

/-- The physical address that a leaf gives. -/
def Leaf.pa (l : Leaf) (va : Nat) : Nat := pteAddr l.leaf + va % l.size

/-- The addresses of the entries that a walk reads, from the one at `ea` of level `level` on (R431). -/
def State.walkPath (s : State) (va : Nat) : Nat → Nat → Nat → List Nat
  | 0, _, _ => []
  | fuel + 1, level, ea =>
    let e : DWord := BitVec.ofNat 64 (s.mem.homeNat ea 8)
    ea :: (if pteT e == 1 && level != 0 then s.walkPath va fuel (level - 1) (pteAddr e + 8 * vaIndex va (level - 1)) else [])

/-- What the walker has read for a translation that was not cached is there to be recorded (R441, R455). -/
def State.walkRead (s : State) (core c : Nat) (l : Leaf) : State :=
  if s.mem.tlb.any fun t => t.core == core && t.ctx == c && t.base == l.base && t.size == l.size then s
  else { s with mem := s.mem.homeRead ((s.walkPath l.base 5 4 ((s.ctx c).root.toNat + 8 * vaIndex l.base 4)).map (· / 128)) }

/-- The use of a leaf: A, and D for a write, set at home by the walker's SYN POD atomic, which leaves its release record, and the translation
kept (R237, R432); its page is known to lie in its partition (R243). -/
def State.useLeaf (s0 : State) (core c : Nat) (k : AKind) (l : Leaf) : State :=
  let s := s0.walkRead core c l
  let want : DWord := l.leaf ||| 0x800#64 ||| (if k == .store then 0x400#64 else 0)
  let m1 := if want == l.leaf then s.mem
    else s.mem.homeWrite l.ea 8 ((BitVec.ofNat 64 (s.mem.homeNat l.ea 8) ||| (want &&& 0xC00#64)).toNat)
      (some ((s.coreloc core).toNat % 2 ^ 17, .pod))
  let keep := m1.tlb.filter fun t => !(t.core == core && t.ctx == c && t.base == l.base && t.size == l.size)
  let parts := m1.pageParts.filter fun p => !(p.1 == pteAddr l.leaf && p.2.1 == l.size)
  { s with mem := { m1 with
      tlb := keep ++ [{ core, ctx := c, base := l.base, size := l.size, leaf := want, ea := l.ea }]
      pageParts := parts ++ [(pteAddr l.leaf, l.size, ptePart l.leaf)] } }

/-- Memory read at home through the translation of a context at S, as the hardware does for a task (R412, R461): one
value of `n` bytes. -/
def State.readS (s : State) (core c va n : Nat) : Except XFault Nat :=
  match s.lookup core c false .load va with
  | .error f => .error f
  | .ok l =>
    match (linesOf (l.pa va) n).find? s.mem.poisoned with
    | some ln => .error ⟨0x07, 0, BitVec.ofNat 64 (max (l.pa va) (ln * 128))⟩
    | none => .ok (s.mem.homeNat (l.pa va) n)

/-- Consecutive values of `n` bytes. -/
def State.readsS (s : State) (core c n : Nat) : Nat → Nat → Except XFault (List Nat)
  | 0, _ => .ok []
  | k + 1, va => match s.readS core c va n with
    | .error f => .error f
    | .ok v => match s.readsS core c n k (va + n) with
      | .error f => .error f
      | .ok vs => .ok (v :: vs)

/-- Memory written at home at S; a write that covers a poisoned line whole clears it (R438). -/
def State.writeS (s : State) (core c va n v : Nat) : Except XFault State :=
  match s.lookup core c false .store va with
  | .error f => .error f
  | .ok l =>
    let lns := linesOf (l.pa va) n
    match lns.find? fun ln => s.mem.poisoned ln && lineMask ln (l.pa va) n != BitVec.allOnes 128 with
    | some ln => .error ⟨0x07, 0, BitVec.ofNat 64 (ln * 128)⟩
    | none =>
      let s1 := s.useLeaf core c .store l
      .ok (State.homePut { s1 with mem := s1.mem.unpoison lns } (l.pa va) n v none)

/-- The translations that the hardware's accesses to `n` bytes at `va` use at S: their A bits, and D bits for writes (R432); what loads have
read is there to be recorded (R441, R455). -/
def State.touchS (s : State) (core c : Nat) (k : AKind) (va n : Nat) : State :=
  (List.range (if n == 0 then 0 else (va + n - 1) / 4096 - va / 4096 + 1)).foldl (fun s i =>
    let a := max va ((va / 4096 + i) * 4096)
    match s.lookup core c false k a with
    | .ok l =>
      let s1 := s.useLeaf core c k l
      if k == .load then { s1 with mem := s1.mem.homeRead (linesOf (l.pa a) (min (va + n) ((va / 4096 + i + 1) * 4096) - a)) } else s1
    | .error _ => s) s

/-! ## Instruction words (R33, R159) -/

/-- A code byte as a fetch finds it: the copy in the cluster's slice, or home (R221). -/
def MemSys.codeByte (m : MemSys) (clus pa : Nat) : Byte :=
  match m.line? clus (pa / 128) with
  | some l => lineByte l.data (pa % 128)
  | none => m.homeByte pa

/-- The word that the loop buffer of group `g`'s quarter serves at `va` (R159). -/
def State.bufferWord (s : State) (g va : Nat) : Option DWord :=
  (s.mem.lbuf.find? fun e => e.1 == s.quarterKey g && e.2.1 == (s.team (s.group g).team).ctx && e.2.2.1 == va).map (·.2.2.2)

/-- The 64-bit word at `va` as group `g` fetches it: as the loop buffer of its quarter captured it, or from memory; what the fetch faults
on is the same either way (R159). -/
def State.codeWord (s : State) (g : Nat) (va : Nat) : Except XFault DWord :=
  let t := s.team (s.group g).team
  match s.lookup t.core t.ctx t.user .fetch va with
  | .error f => .error f
  | .ok l =>
    if s.mem.poisoned (l.pa va / 128) then .error ⟨0x07, 0, BitVec.ofNat 64 (l.pa va)⟩
    else .ok ((s.bufferWord g va).getD
      (BitVec.ofNat 64 (leNat ((List.range 8).map fun k => s.mem.codeByte (clusterOf t.core) (l.pa va + k)))))

/-- After(a) (R156): the address that follows the instruction at `a`. -/
def State.after (s : State) (g : Nat) (a : DWord) : Except XFault DWord :=
  match s.codeWord g a.toNat with
  | .error f => .error f
  | .ok w => .ok (a + if wL w then 16 else 8)

/-! ## Scratchpad windows (R213) -/

/-- The size of a team's scratchpad in bytes. -/
def Team.padSize (t : Team) : Nat := t.hdr.scratch * 32768

/-- Whether a team is resident. -/
def Team.resident (t : Team) : Bool := t.st == .resident || t.st == .saving || t.st == .restoring

/-- Teams in ascending TEAMID. -/
def State.byTid (s : State) (ts : List Nat) : List Nat := sortBy (fun a b => (s.team a).tid ≤ (s.team b).tid) ts

/-- The place of offset `off` in the concatenated scratchpads of `ts`: a team and its own offset. -/
def State.inWindow (s : State) : List Nat → Nat → Option (Nat × Nat)
  | [], _ => none
  | t :: ts, off => if off < (s.team t).padSize then some (t, off) else s.inWindow ts (off - (s.team t).padSize)

/-- A command reaches scratchpads of other teams: NBR or POOL. -/
def Cmd.far (c : Cmd) : Bool := [c.src, c.dst].any fun p => bits p 101 3 == 2 || bits p 101 3 == 3

/-- Accesses in flight hold the granules of a team that has ended or has been saved: its own commands and collectives, and commands of its grid
that reach other teams' scratchpads (R218, R284). -/
def State.inFlight (s : State) (u : Nat) : Bool :=
  ((s.team u).st == .ended || (s.team u).st == .saved) && (s.team u).hdr.scratch != 0 &&
    ((s.cmds.any fun c => !c.done && (c.team == u || (c.far && (s.team c.team).grid == (s.team u).grid))) ||
     ((s.team u).st == .ended && (s.team u).colls.any fun c => !c.done))

/-- A team's scratchpad is in the windows of its core (R213, R218). -/
def State.hasPad (s : State) (u : Nat) : Bool := (s.team u).resident || s.inFlight u

/-- The byte that an offset of a scratchpad space reaches, for team `t` and the pointer's HOME (R213). -/
def State.padPlace (s : State) (t : Nat) (sp : Space) (home : Nat) (off : Nat) : Option (Nat × Nat) :=
  let x := s.team t
  match sp with
  | .glb => none
  | .loc => if off < 2 ^ 20 && off < x.padSize then some (t, off) else none
  | .nbr =>
    let core := clusterOf x.core * 8 + home % 8
    let ts := (s.gridTeams x.grid).filter fun u => (s.team u).core == core && s.hasPad u
    if off < 2 ^ 20 then s.inWindow (s.byTid ts) off else none
  | .pool =>
    match x.paddock with
    | none => none
    | some k =>
      let p := s.paddock k
      if off ≥ 2 ^ 24 then none
      else
        let clus := if off / 2 ^ 23 == 0 then some p.clus0 else p.clus1
        match clus with
        | none => none
        | some c =>
          let core := c * 8 + off / 2 ^ 20 % 8
          let ts := p.teams.filter fun u => (s.team u).core == core && s.hasPad u
          s.inWindow (s.byTid ts) (off % 2 ^ 20)

/-- `n` bytes of a team's scratchpad, as a number. -/
def State.padNat (s : State) (t off n : Nat) : Nat := leNat (cellsRead (s.team t).scratch off n)

/-- `n` bytes written to a team's scratchpad. -/
def State.padWrite (s : State) (t off n v : Nat) : State :=
  { s.modTeam t fun x => { x with scratch := cellsWrite x.scratch off (leBytes n v) } with hb := s.hb.drop (.pad t off) n }

end Sys2Proof.Machine
end

