-- ==== Sys2Proof/Machine/Flit.lean ====
section
/-! DEFINITION. The flits of a Sward link and the control flits that a port sends (R377, R378, R381). -/

namespace Sys2Proof.Machine
open Sys2Proof

/-! ## Flits (R377, R378) -/

/-- The header as 128 bits. -/
def flitHeader (f : Flit) : QWord :=
  f.seq ++ f.ackseq ++ BitVec.ofBool f.av ++ BitVec.ofBool f.nak ++ f.kind ++ f.cred ++ f.cvc ++ f.vc ++ f.dpkg ++ f.spkg ++ f.plen ++
    f.frag ++ f.rsv

/-- One bit of CRC-32 with the generator polynomial 0x04C1_1DB7, least significant bit first. -/
def crcBit (c : Word) : Word := if bit c 0 then (c >>> 1) ^^^ 0xEDB88320#32 else c >>> 1

/-- One byte of CRC-32. -/
def crcByte (c : Word) (b : Byte) : Word :=
  crcBit (crcBit (crcBit (crcBit (crcBit (crcBit (crcBit (crcBit (c ^^^ b.setWidth 32))))))))

/-- CRC-32 of IEEE 802.3 (R377; log 12). -/
def crc32 (bs : List Byte) : Word := ~~~(bs.foldl crcByte ones32)

/-- Bytes 0 to 239 of a flit. -/
def flitBytes (f : Flit) : List Byte := leBytes 16 (flitHeader f).toNat ++ leBytes 224 f.payload.toNat

/-- Every second byte of a list. -/
def alternate : List Byte → List Byte
  | a :: _ :: rest => a :: alternate rest
  | bs => bs

/-- The 256 bytes of a flit: header and payload, CRC, and the parity of the even-numbered and of the odd-numbered bytes in turn (R377). -/
def flitWire (f : Flit) : List Byte :=
  let bs := flitBytes f ++ leBytes 4 f.crc.toNat
  let even := Config.rsParity (alternate bs)
  let odd := Config.rsParity (alternate (bs.drop 1))
  bs ++ (even.zip odd).flatMap fun p => [p.1, p.2]

/-- Both codewords decode: each of the even-numbered and of the odd-numbered bytes corrects up to three errors (R377). -/
def rsDecodes (hits : List Nat) : Bool :=
  let errs (r : Nat) : List Nat := hits.dedup.filter fun j => j < 256 && j % 2 == r
  let one (es : List Nat) : Bool := es.length ≤ 3 || Config.rsMiss es
  one (errs 0) && one (errs 1)

/-- A flit that is not bad (R377, R378). -/
def flitGood (f : Flit) : Bool :=
  rsDecodes f.hits && f.crc == crc32 (flitBytes f) && f.kind.toNat ≤ 2 && f.vc != 7 && f.plen.toNat ≤ 224 && f.rsv == 0

/-- A flit with its CRC. -/
def flitSealed (f : Flit) : Flit := { f with crc := crc32 (flitBytes f) }

/-- An IDLE flit that carries an acknowledgement, or a NAK, and returns credits of a virtual channel (R379, R380). -/
def ackFlit (me : BitVec 9) (ack : BitVec 12) (nak : Bool) (cvc : BitVec 3) (cred : BitVec 8) : Flit :=
  flitSealed { seq := 0, ackseq := ack, av := true, nak, kind := 0, cred, cvc, vc := 0, dpkg := 0, spkg := me, plen := 0, frag := 0,
                rsv := 0, payload := 0, crc := 0, hits := [] }

/-- A CTRL flit: its code, lane mask and ACKSEQ (R378). -/
def ctrlFlit (me : BitVec 9) (code : Byte) (mask : BitVec 16) (ack : BitVec 12) : Flit :=
  let p : BitVec 1792 := code.setWidth 1792 ||| (mask.setWidth 1792 <<< 8) ||| (ack.setWidth 1792 <<< 24)
  flitSealed { seq := 0, ackseq := ack, av := true, nak := false, kind := 2, cred := 0, cvc := 0, vc := 0, dpkg := 0, spkg := me, plen := 5,
                frag := 0, rsv := 0, payload := p, crc := 0, hits := [] }

/-- The lane on which byte `j` of a flit travels at a width: full, or the surviving half from its first lane (R377). -/
def flitLane (width : BitVec 2) (j : Nat) : Nat :=
  match width.toNat with
  | 1 => j % 8
  | 2 => 8 + j % 8
  | _ => j % 16

/-! ## What a port says of itself -/

/-- The last DATA flit accepted in order. -/
def Port.ackseq (p : Port) : BitVec 12 := p.expected - 1

/-- RETRAIN sent: the first time, or again while it is not answered (R381). -/
def Port.sendRetrain (p : Port) (me : BitVec 9) : Port := { p with out := p.out ++ [ctrlFlit me 1 p.mask p.ackseq] }

end Sys2Proof.Machine
end

