-- ==== Sys2Proof/Machine/Io.lean ====
section
/-! DEFINITION. The I/O space of the package: what its registers read as, and what a merged write of each does (R446, R447,
R451, R452, R455, R248, R249, R338, R382, R414, R415, R449). -/

namespace Sys2Proof.Machine
open Sys2Proof

/-- The registers and table entries of I/O space (R446). -/
inductive IoReg where
  | ident
  | power
  | bootctl
  | ctx (i : Nat)
  | part (i : Nat)
  | region (i : Nat)
  | fold (i : Nat)
  | portstat (n : Nat)
  | portctl (n : Nat)
  | word (o : Nat)
  | hwin (i : Nat)
deriving DecidableEq, Repr

/-- The register that holds the byte at offset `o`, its first byte and its size; none where nothing is listed or only the
chunk slots lie (R446). -/
def ioReg (o : Nat) : Option (IoReg × Nat × Nat) :=
  let e (r : IoReg) (base size : Nat) : Option (IoReg × Nat × Nat) := some (r, base, size)
  if o < 0x100 then e .ident 0 0x100
  else if 0x1000 ≤ o && o < 0x1008 then e .power 0x1000 8
  else if 0x1040 ≤ o && o < 0x1048 then e .bootctl 0x1040 8
  else if 0x10000 ≤ o && o < 0x18000 then e (.ctx ((o - 0x10000) / 128)) (o - o % 128) 128
  else if 0x18000 ≤ o && o < 0x18100 then e (.part ((o - 0x18000) / 16)) (o - o % 16) 16
  else if 0x19000 ≤ o && o < 0x19080 then e (.region ((o - 0x19000) / 8)) (o - o % 8) 8
  else if 0x20000 ≤ o && o < 0x28000 then e (.fold ((o - 0x20000) / 8)) (o - o % 8) 8
  else if 0x30000 ≤ o && o < 0x30300 then
    if o % 64 < 8 then e (.portstat ((o - 0x30000) / 64)) (o - o % 8) 8
    else if o % 64 < 16 then e (.portctl ((o - 0x30000) / 64)) (o - o % 8) 8
    else none
  else if 0x31000 ≤ o && o < 0x31030 then e (.word (o - o % 8)) (o - o % 8) 8
  else if 0x32000 ≤ o && o < 0x32020 then e (.hwin ((o - 0x32000) / 8)) (o - o % 8) 8
  else none

/-! ## Reads -/

/-- The first 16 bytes of the identification block (R447). -/
def Pkg.ident (p : Pkg) : QWord :=
  p.ddrcap ++ 0#23 ++ p.num ++ 0#6 ++ BitVec.ofBool p.recArm ++ BitVec.ofBool p.lock ++ p.svn ++ 0x0007#16 ++ 0x7300#16 ++ 0xB0#8 ++
    BitVec.ofNat 8 (if Config.formModule then 1 else 0) ++ 0#16

/-- The identification block, its public key big-endian (R447). -/
def Pkg.identNat (p : Pkg) : Nat :=
  p.ident.toNat + Config.serial.toNat * 2 ^ 128 + leNat (leBytes 96 Config.identityKey.toNat).reverse * 2 ^ 256

/-- The power registers (R451). -/
def Pkg.power (p : Pkg) : DWord := p.pcap ++ 0#8 ++ p.step ++ p.pnow ++ p.tmax

/-- A context descriptor's 128 bytes (R414). -/
def Ctx.image (c : Ctx) : Nat :=
  c.cfg.toNat + c.root.toNat * 2 ^ 64 + c.fqbase.toNat * 2 ^ 128 + c.fqsize.toNat * 2 ^ 192 + c.fqpos.toNat * 2 ^ 224 +
    c.svctcb.toNat * 2 ^ 256 + c.quantum.toNat * 2 ^ 320 + c.spawnt.toNat * 2 ^ 352

/-- The context table's entry `i`; a descriptor never written reads zero (log 5). -/
def State.ctxAt (s : State) (i : Nat) : Ctx := s.ctx i

/-- PORTSTAT (R382). -/
def Port.stat (p : Port) : DWord :=
  0#32 ++ p.width ++ p.lfail ++ BitVec.ofBool p.train ++ 0#1 ++ p.rplCount

/-- A region entry as it was last written, in force or not yet (R248, R249). -/
def State.regionNow (s : State) (i : Nat) : DWord :=
  ((s.mem.pendingRegions.reverse.find? fun e => e.1 == i).map (·.2)).getD (vecAt s.mem.regions i 0)

/-- The value of a register or entry as a read finds it. -/
def State.ioValue (s : State) : IoReg → Nat
  | .ident => s.pkg.identNat
  | .power => s.pkg.power.toNat
  | .bootctl => (s.pkg.reg 0x1040).toNat
  | .ctx i => (s.ctxAt i).image
  | .part i => (vecAt s.pkg.parts i 0).toNat
  | .region i => (s.regionNow i).toNat
  | .fold i => (lookupD s.pkg.foldTab i 0).toNat
  | .portstat n => (vecAt s.pkg.ports n Port.zero).stat.toNat
  | .portctl _ => 0
  | .word o => (s.pkg.reg o).toNat
  | .hwin i => (s.pkg.reg (0x32000 + 8 * i)).toNat

/-- The chunk slot memory (R446). -/
def isSlot (o : Nat) : Bool := 0x10000000 ≤ o && o < 0x12000000

/-- A byte of I/O space; the image of a chunk in its slot is not laid out by the manual (log 4). -/
def State.ioByte (s : State) (o : Nat) : Byte :=
  match ioReg o with
  | some (r, base, _) => BitVec.ofNat 8 (s.ioValue r / 2 ^ (8 * (o - base)))
  | none =>
    if isSlot o && s.pkg.slots.any (fun e => e.1 == (o - 0x10000000) / 32768) then (Config.device 1 o).setWidth 8 else 0

/-- `n` bytes read at a physical address of I/O space; another package's registers are not known here (log 13). -/
def State.ioNat (s : State) (pa n : Nat) : Nat :=
  if paPkg pa == s.pkg.num.toNat then leNat ((List.range n).map fun k => s.ioByte (paOff pa - 0x70000000000 + k))
  else (Config.undef s.tick pa).toNat % 2 ^ (8 * n)

/-! ## Writes, merged into the entry (R446) -/

/-- Who writes: the control node, or a group of a context (R414). -/
inductive Writer where
  | host
  | group (ctx : Nat)
deriving DecidableEq, Repr

/-- A region entry (R248). -/
def regEn (e : DWord) : Bool := bit e 63
def regMode (e : DWord) : Nat := (bits e 59 4).toNat
def regStack (e : DWord) : Nat := (bits e 56 3).toNat
def regSize (e : DWord) : Nat := (bits e 22 22).toNat
def regBase (e : DWord) : Nat := (bits e 0 22).toNat

/-- Whether two enabled regions share a byte. -/
def regOverlap (a b : DWord) : Bool :=
  regEn a && regEn b && regBase a < regBase b + regSize b && regBase b < regBase a + regSize a

/-- The checks of R248 on a merged entry. -/
def State.regionOk (s : State) (i : Nat) (v : DWord) : Bool :=
  bits v 44 12 == 0 &&
    (!regEn v ||
      (regMode v < 4 && (regMode v != 2 || regStack v % 2 == 0) && (regMode v != 3 || regStack v % 4 == 0) && regSize v != 0 &&
        !(List.range 16).any fun j => j != i && regOverlap v (s.regionNow j)))

/-- A region entry written: the rewrite begins, and the table switches once the requests in flight have drained (R249). -/
def State.regionWrite (s : State) (i : Nat) (v : DWord) : State :=
  { s with mem := { s.mem with rewriting := true, pendingRegions := s.mem.pendingRegions ++ [(i, v)] } }

/-- The checks of R338. -/
def foldOk (v : DWord) : Bool :=
  bits v 48 15 == 0 && bits v 24 8 == 0 && (!bit v 63 || (bits v 0 24 != 0 && (bits v 0 24).toNat ≤ 2 ^ 23))

/-- A fold-table entry written (R338). -/
def State.foldWrite (s : State) (i : Nat) (v : DWord) : State :=
  { s with pkg := { s.pkg with foldTab := insertK s.pkg.foldTab i v } }

/-- Whether a power of two. -/
def isPow2 (n : Nat) : Bool := n != 0 && n == 2 ^ n.log2

/-- A descriptor from its merged image; HALT and FQPOS are not written by software (R414). -/
def Ctx.ofImage (old : Ctx) (v : Nat) : Ctx :=
  let cfg : DWord := BitVec.ofNat 64 v
  { old with
    cfg := (cfg &&& ~~~(1#64 <<< 62)) ||| (old.cfg &&& (1#64 <<< 62)), root := BitVec.ofNat 64 (v / 2 ^ 64)
    fqbase := BitVec.ofNat 64 (v / 2 ^ 128), fqsize := BitVec.ofNat 32 (v / 2 ^ 192)
    svctcb := BitVec.ofNat 64 (v / 2 ^ 256), quantum := BitVec.ofNat 32 (v / 2 ^ 320)
    spawnt := BitVec.ofNat 32 (v / 2 ^ 352) }

/-- The reserved bits of a descriptor image are zero (R414). -/
def ctxReserved (v : Nat) : Bool :=
  let cfg : DWord := BitVec.ofNat 64 v
  bits cfg 48 13 == 0 && bits cfg 4 12 == 0 && v / 2 ^ 384 == 0

/-- The other rules of the table for a descriptor with EN = 1 (R414). -/
def State.ctxRules (s : State) (i : Nat) (c : Ctx) : Bool :=
  let size := c.fqsize.toNat
  c.root.toNat % 4096 == 0 && s.tableOk c.root.toNat && isPow2 size && 16 ≤ size && size ≤ 4096 &&
    c.fqbase.toNat % (1024 * size) == 0 && c.quantum.toNat ≤ 65535 && c.spawnt.toNat ≤ 10 ^ 9 &&
    bit (bits c.cfg 16 16) (bits c.cfg 0 4).toNat &&
    !(s.pkg.ctxs.any fun e => e.1 != i && bit e.2.cfg 63 && bits e.2.cfg 32 16 == bits c.cfg 32 16)

/-- The checks of R414 on a merged descriptor and on its writer. -/
def State.ctxOk (s : State) (wr : Writer) (i v : Nat) : Bool :=
  (match wr with | .host => true | .group c => bit (s.ctx c).cfg 61) &&
    ctxReserved v && (!bit (BitVec.ofNat 64 v) 63 || s.ctxRules i ((s.ctxAt i).ofImage v))

/-- A descriptor written; a context that is created by it starts with its counters at zero (R414, R443). -/
def State.ctxWrite (s : State) (i v : Nat) : State :=
  let old := s.ctxAt i
  let c := old.ofImage v
  s.setCtx i (if bit c.cfg 63 && !bit old.cfg 63 then { c with exc := Vector.replicate 5 0 } else c)

/-- A number of something in the window of package `old`, `per` of them to a window, in that of `new`. -/
def rebase (old new per k : Nat) : Nat := if k / per == old then new * per + k % per else k

/-- The package's own window moved with its number, with everything that is kept by line or address (R447). -/
def State.setPkgNum (s : State) (n : BitVec 9) : State :=
  if s.pkg.lock || n == s.pkg.num then s
  else
    let old := s.pkg.num.toNat
    let keep := s.mem.cells.filter fun c => paPkg c.1 != old && paPkg c.1 != n.toNat
    let cells := (s.mem.cells.filter fun c => paPkg c.1 == old).foldl
      (fun cs c => cellPut cs (n.toNat * 2 ^ 43 + paOff c.1) c.2) keep
    let mv := rebase old n.toNat
    let line := mv (2 ^ 36)
    { s with
      pkg := { s.pkg with num := n }
      mem := { s.mem with
        cells
        lines := (s.mem.lines.filter fun l => l.line / 2 ^ 36 != n.toNat).map fun l => { l with line := line l.line }
        dir := (s.mem.dir.filter fun d => d.line / 2 ^ 36 != n.toNat).map fun d => { d with line := line d.line }
        cxl := (s.mem.cxl.filter fun e => e.1 / 2 ^ 37 != n.toNat).map fun e => (mv (2 ^ 37) e.1, e.2)
        cxlDirty := (s.mem.cxlDirty.filter fun e => e.1 / 2 ^ 37 != n.toNat).map fun e => (mv (2 ^ 37) e.1, e.2)
        pageParts := (s.mem.pageParts.filter fun e => e.1 / 2 ^ 43 != n.toNat).map fun e => (mv (2 ^ 43) e.1, e.2) } }

/-- PCAP written: clamped to the limit of the hedge (R451). -/
def State.setPcap (s : State) (w : BitVec 16) : State :=
  { s with pkg := { s.pkg with pcap := if w.toNat > Config.powerLimit.toNat then Config.powerLimit else w } }

/-- BOOTCTL written: dropped once GO reads 1; GO starts the zeroing of step 4 when training has ended (R455). -/
def State.setBootctl (s : State) (v : DWord) : State :=
  let old := s.pkg.reg 0x1040
  if bit old 0 then s
  else
    let go := bit v 0 && s.pkg.boot == .trained
    let p := s.pkg.setReg 0x1040 ((v &&& 2#64) ||| (if go then 1 else 0))
    { s with pkg := { p with boot := if go then .zeroing else p.boot } }

/-- A requested retrain of a port begins at step 2 with an empty mask: RETRAIN is sent (R382). -/
def State.retrainRequest (s : State) (n : Nat) : State :=
  let q := { vecAt s.pkg.ports n Port.zero with train := true, step := 2, mask := 0, requested := true }
  { s with pkg := { s.pkg with ports := vecPut s.pkg.ports n (q.sendRetrain s.pkg.num) } }

/-- The rules of R446 and R449 for RICKBASE, RICKSIZE, RECBASE, RECSIZE, EQBASE and EQPOS. -/
def Pkg.wordOk (p : Pkg) (o : Nat) (v : DWord) : Bool :=
  let at' (k : Nat) : Nat := if o == k then v.toNat else (p.reg k).toNat
  let inside (base size lo hi : Nat) : Bool := size == 0 || (lo ≤ paOff base && paOff base + size ≤ hi && paPkg base == p.num.toNat)
  if o == 0x31000 || o == 0x31008 then
    at' 0x31000 % 32768 == 0 && inside (at' 0x31000) (at' 0x31008) 0x50000000000 0x70000000000
  else if o == 0x31010 || o == 0x31018 then inside (at' 0x31010) (at' 0x31018) 0x10000000000 0x50000000000
  else if o == eqBaseReg then v.toNat % 32768 == 0 && paOff v.toNat < 0x8000000000 && paPkg v.toNat == p.num.toNat
  else true

/-- A word register written; WIDX is the hardware's (R449). -/
def Pkg.setWord (p : Pkg) (o : Nat) (v : DWord) : Pkg :=
  if !p.wordOk o v then p
  else if o == eqPosReg then p.setReg o ((v &&& 0xFFFFFFFF0FFF0000#64) ||| (p.reg o &&& 0xFFF#64))
  else p.setReg o v

/-- A merged write of an entry: none of its effects, and the refused value with its fault code, where a check of the entry
refuses it (R446). -/
def State.ioPut (s : State) (wr : Writer) (r : IoReg) (v : Nat) : Except (Nat × DWord) State :=
  let w : DWord := BitVec.ofNat 64 v
  match r with
  | .ident => .ok (s.setPkgNum (BitVec.ofNat 9 (v / 2 ^ 80)))
  | .power => .ok (s.setPcap (bits w 48 16))
  | .bootctl => .ok (s.setBootctl w)
  | .ctx i => if s.ctxOk wr i v then .ok (s.ctxWrite i v) else .error (0x17, w)
  | .part i =>
    let q : QWord := BitVec.ofNat 128 v &&& 0xFFFFFFFFFFFFFFFF00000000FFFFFFFF#128
    .ok { s with pkg := { s.pkg with parts := vecPut s.pkg.parts i q } }
  | .region i => if s.regionOk i w then .ok (s.regionWrite i w) else .error (0x15, w)
  | .fold i => if foldOk w then .ok (s.foldWrite i w) else .error (0x16, w)
  | .portstat _ => .ok s
  | .portctl n => .ok (if bit w 0 then s.retrainRequest n else s)
  | .word o => .ok { s with pkg := s.pkg.setWord o w }
  | .hwin i => .ok (if s.pkg.lock then s else { s with pkg := s.pkg.setReg (0x32000 + 8 * i) w })

/-- Bytes merged into the entry that holds offset `o`, and the bytes beyond it; the refused value of a context descriptor is
the word that was written to (R418). -/
def State.ioMerge (s : State) (wr : Writer) (o n v : Nat) : Except (Nat × DWord) State :=
  match ioReg o with
  | none => .ok s
  | some (r, base, size) =>
    let k := o - base
    let old := s.ioValue r
    let m := min n (size - k)
    let new := old - old / 2 ^ (8 * k) % 2 ^ (8 * m) * 2 ^ (8 * k) + v % 2 ^ (8 * m) * 2 ^ (8 * k)
    match s.ioPut wr r new with
    | .ok t => .ok t
    | .error (c, w) => .error (c, if size == 128 then BitVec.ofNat 64 (new / 2 ^ (8 * (k - k % 8))) else w)

/-- Bytes written to I/O space from `o` on, entry by entry; `fuel` entries at most. -/
def State.ioWrite (s : State) (wr : Writer) : Nat → Nat → List Byte → Except (Nat × DWord) State
  | 0, _, _ => .ok s
  | _, _, [] => .ok s
  | fuel + 1, o, b :: bs =>
    let m := match ioReg o with
      | some (_, base, size) => base + size - o
      | none => 1
    match s.ioMerge wr o (min m (bs.length + 1)) (leNat ((b :: bs).take m)) with
    | .error e => .error e
    | .ok t => t.ioWrite wr fuel (o + m) ((b :: bs).drop m)

end Sys2Proof.Machine
end

