-- ==== Sys2Proof/Machine/Access.lean ====
section
/-! DEFINITION. Typed pointers and the elements they reach: the checks of R206, the place of an element (R205, R213), reads and
writes at that place (R207, R210, R214, R221, R222, R237, R348). -/

namespace Sys2Proof.Machine
open Sys2Proof

/-! ## Pointers (R198, R199) -/

/-- A well-formed pointer's fields. -/
structure Ptr where
  home : Nat
  w : Bool
  abs : Bool
  sc : Scope
  cls : Share
  sp : Space
  len : Nat
  ty : Ty
  base : Nat
deriving DecidableEq, Repr

/-- The space of a SPACE code; 4 to 7 are reserved. -/
def spaceOfCode (c : BitVec 3) : Option Space :=
  match c.toNat with
  | 0 => some .glb | 1 => some .loc | 2 => some .pool | 3 => some .nbr | _ => none

/-- The code of a space (R199). -/
def spaceCode : Space → BitVec 3
  | .glb => 0 | .loc => 1 | .pool => 2 | .nbr => 3

/-- The width of BASE in a space. -/
def spaceWidth : Space → Nat
  | .glb => 57 | .loc => 20 | .pool => 24 | .nbr => 20

/-- The scopes that a space allows. -/
def spaceAllows : Space → Scope → Bool
  | .glb, _ => true
  | .loc, s => s == .core
  | .pool, s => s == .clus || s == .pkg
  | .nbr, s => s == .clus

/-- The bytes of an element of a format of 8 bits or more; 1 for a narrow one. -/
def fmtBytes (t : Ty) : Nat :=
  match t with
  | .nf _ => 1
  | t => (codingOf (fun _ => 0) t).w / 8

/-- FMT as a type (R199). -/
def fmtOf (p : QWord) : Option Ty := if bit p 62 then none else tyOfCode (bits p 57 5)

/-- The fields of a pointer that is not malformed (R199). -/
def ptrOf (p : QWord) : Option Ptr :=
  match spaceOfCode (bits p 101 3), shareOfCode (bits p 104 2), scopeOfCode (bits p 106 3), fmtOf p with
  | some sp, some cls, some sc, some ty =>
    let base := (bits p 0 57).toNat
    if spaceAllows sp sc && base < 2 ^ spaceWidth sp && base % fmtBytes ty == 0 then
      some { home := (bits p 111 17).toNat, w := bit p 110, abs := bit p 109, sc, cls, sp, len := (bits p 64 37).toNat, ty, base }
    else none
  | _, _, _, _ => none

/-- V (R198). -/
def ptrV (p : QWord) : Bool := bit p 63

/-- A pointer image with V replaced. -/
def setPtrV (p : QWord) (v : Bool) : QWord := (p &&& ~~~(1#128 <<< 63)) ||| (if v then 1#128 <<< 63 else 0)

/-- A pointer image with BASE and LENGTH replaced. -/
def setPtrRange (p : QWord) (base len : Nat) : QWord := bits p 101 27 ++ BitVec.ofNat 37 len ++ bits p 57 7 ++ BitVec.ofNat 57 base

/-! ## The checks at issue (R206, R207) -/

/-- How many low bits of CORELOC a scope leaves out of its comparison (R206). -/
def scopeShift : Scope → Nat
  | .core => 0 | .clus => 3 | .die => 5 | .pkg => 8 | .pod => 17

/-- Two core locations lie in one instance of a scope (R206, R230). -/
def sameInst (sc : Scope) (a b : Nat) : Bool := a / 2 ^ scopeShift sc == b / 2 ^ scopeShift sc

/-- Permitted pairs of register type and format (R207), under a store's rounding mode. -/
def pairOk (nf : BitVec 3 → Word) (rnd : Rnd) (t f : Ty) : Bool :=
  (t == f || (t != .b128 && f != .b128)) && (rnd != .rto || rtoAccepted nf f t)

/-- CORELOC[16:0] of a group's core. -/
def State.core17 (s : State) (g : Nat) : Nat := (s.coreloc (s.team (s.group g).team).core).toNat % 2 ^ 17

/-- Step `n` of R206 on a pointer of group `g`: the trap's cause and subcode where it fails.  `pair` is step 4; `store` adds steps 7
and 8. -/
def State.ptrStep (s : State) (g : Nat) (p : QWord) (pair : Ty → Bool) (store : Bool) (n : Nat) : Option (Nat × Nat) :=
  match n, ptrOf p with
  | 1, _ => if ptrV p then none else some (0x04, 0x01)
  | 2, none => some (0x04, 0x02)
  | 3, some q => match q.ty with | .nf k => (if nfValid ((s.group g).nf k) then none else some (0x04, 0x03)) | _ => none
  | 4, some q => if pair q.ty then none else some (0x04, 0x04)
  | 5, some q => if sameInst q.sc q.home (s.core17 g) then none else some (0x05, 0x01)
  | 6, some q => if q.sp == .pool && (s.team (s.group g).team).paddock.isNone then some (0x05, 0x02) else none
  | 7, some q => if store && q.cls == .rsh then some (0x06, 0x01) else none
  | 8, some q => if store && !q.w then some (0x06, 0x02) else none
  | _, _ => none

/-- R206: the pointer, or the first failure of its steps. -/
def State.ptrCheck (s : State) (g : Nat) (p : QWord) (pair : Ty → Bool) (store : Bool) : Except (Nat × Nat) Ptr :=
  match [1, 2, 3, 4, 5, 6, 7, 8].findSome? (s.ptrStep g p pair store), ptrOf p with
  | some e, _ => .error e
  | none, some q => .ok q
  | none, none => .error (0x04, 0x02)

/-! ## Elements and where they lie (R82, R205, R213) -/

/-- The byte offset of element `k` from BASE. -/
def Ptr.byteOff (nf : BitVec 3 → Word) (p : Ptr) (k : Nat) : Nat :=
  let w := contW nf p.ty
  if w == 4 then k / 2 else k * (w / 8)

/-- The bytes that hold an element. -/
def Ptr.size (nf : BitVec 3 → Word) (p : Ptr) : Nat :=
  let w := contW nf p.ty
  if w == 4 then 1 else w / 8

/-- The nibble that holds element `k` (R82). -/
def Ptr.nib (nf : BitVec 3 → Word) (p : Ptr) (k : Nat) : Option Bool := if contW nf p.ty == 4 then some (k % 2 == 1) else none

/-- An element in bounds, as an access reaches it; the translation it uses. -/
structure Elem where
  place : Place
  nib : Option Bool
  bytes : Nat
  leaf : Option Leaf
deriving DecidableEq, Repr

/-- What an element number comes to. -/
inductive Where where
  | out
  | bad (x : XFault) (va : Nat)
  | at (e : Elem)
deriving DecidableEq, Repr

/-- The address that a record shows for element `k` (R419). -/
def Ptr.addr (nf : BitVec 3 → Word) (p : Ptr) (k : Int) : DWord :=
  let w := contW nf p.ty
  BitVec.ofInt 64 (p.base + (if w == 4 then k / 2 else k * (w / 8 : Nat)))

/-- In bounds (R205) but for what the window of a scratchpad space says. -/
def Ptr.inLen (p : Ptr) (k : Int) : Bool := 0 ≤ k && k < p.len

/-- The place of element `k` of a pointer used by team `tm` under the formats `nf`: bounds, window, translation (R205, R208, R213,
R214). -/
def State.placeOf (s : State) (nf : BitVec 3 → Word) (tm : Nat) (p : Ptr) (kind : AKind) (k : Int) : Where :=
  let t := s.team tm
  if !p.inLen k then .out
  else
    let n := k.toNat
    let a := p.base + p.byteOff nf n
    let size := p.size nf
    if a + size > 2 ^ spaceWidth p.sp then .out
    else match p.sp with
      | .glb => match s.lookup t.core t.ctx t.user kind a with
        | .error f => .bad f a
        | .ok l => .at { place := .mem (l.pa a), nib := p.nib nf n, bytes := size, leaf := some l }
      | sp => match s.padPlace tm sp p.home a with
        | none => .out
        | some (u, o) => .at { place := .pad u o, nib := p.nib nf n, bytes := size, leaf := none }

/-- The place of element `k` for group `g`. -/
def State.whereIs (s : State) (g : Nat) (p : Ptr) (kind : AKind) (k : Int) : Where :=
  s.placeOf (s.group g).nf (s.group g).team p kind k

/-- Whether an element number is in bounds (R205, R212, R273). -/
def State.inRange (s : State) (nf : BitVec 3 → Word) (tm : Nat) (p : Ptr) (k : Int) : Bool :=
  let a := p.base + p.byteOff nf k.toNat
  p.inLen k && a + p.size nf ≤ 2 ^ spaceWidth p.sp && (p.sp == .glb || (s.padPlace tm p.sp p.home a).isSome)

/-- The same for group `g`. -/
def State.inBounds (s : State) (g : Nat) (p : Ptr) (k : Int) : Bool := s.inRange (s.group g).nf (s.group g).team p k

/-! ## What an access may have to wait for (R242, R249) -/

/-- The bytes of a region entry include a line of this package. -/
def regCovers (e : DWord) (pa : Nat) : Bool :=
  regEn e && regBase e * 2 ^ 21 ≤ paOff pa && paOff pa < (regBase e + regSize e) * 2 ^ 21

/-- A rewrite in progress concerns the line (R249). -/
def State.inRewrite (s : State) (pa : Nat) : Bool :=
  s.mem.rewriting && paPkg pa == s.pkg.num.toNat &&
    s.mem.pendingRegions.any fun e => regCovers e.2 pa || regCovers (vecAt s.mem.regions e.1 0) pa

/-- The access to a place waits: another package's cluster owns the line, or its region is being rewritten. -/
def State.waits (s : State) (p : Place) : Bool :=
  match p with
  | .pad .. => false
  | .mem pa => !isIo pa && (s.mem.ownedAway s.pkg.num.toNat (pa / 128) || s.inRewrite pa || s.pkg.tests.any fun t => t.holds (pa / 128))

/-- The place lies on one of the lines. -/
def Place.onLine (p : Place) (lns : List Nat) : Bool :=
  match p with
  | .pad .. => false
  | .mem pa => lns.contains (pa / 128)

/-- The machine-check fault of a place on a poisoned line (R246, R438). -/
def State.poisonAt (s : State) (p : Place) : Option XFault :=
  match p with
  | .pad .. => none
  | .mem pa => if !isIo pa && s.mem.poisoned (pa / 128) then some ⟨0x07, 0, BitVec.ofNat 64 pa⟩ else none

/-! ## Reads -/

/-- An access is tracked when it is SYN at DIE scope or wider (R222). -/
def tracked (cls : Share) (sc : Scope) : Bool := cls == .syn && sc != .core && sc != .clus

/-- A release record matches an acquire (R230, R237). -/
def relMatches (me : Nat) (sc : Scope) (rel : Option (Nat × Scope)) : Bool :=
  match rel with
  | none => true
  | some (c, rs) => c == me || (sameInst sc me c && sameInst rs me c)

/-- `n` bytes at a place, as an access of class `cls` and scope `sc` from core `core` of this package reads them, and the
release record it finds. -/
def State.readPlace (s : State) (core : Nat) (cls : Share) (sc : Scope) (p : Place) (n : Nat) :
    State × Nat × Option (Nat × Scope) :=
  match p with
  | .pad t o => (s, s.padNat t o n, none)
  | .mem pa =>
    if isIo pa then (s, s.ioNat pa n, none)
    else
      let r := s.mem.forLoad s.pkg.num.toNat (clusterOf core) (pa / 128) (tracked cls sc)
      ({ s with mem := r.1 }, leNat ((List.range n).map fun k => lineByte r.2.data (pa % 128 + k)), r.2.rel)

/-- Whether byte `i` of place `p` is a byte of place `q`, and which. -/
def byteIn (p : Place) (i : Nat) (q : Place) (n : Nat) : Option Nat :=
  match p, q with
  | .pad t o, .pad t' o' => if t == t' && o' ≤ o + i && o + i < o' + n then some (o + i - o') else none
  | .mem a, .mem a' => if a' ≤ a + i && a + i < a' + n then some (a + i - a') else none
  | _, _ => none

/-- A byte after an element write. -/
def EWrite.byte (w : EWrite) (old k : Nat) : Nat :=
  match w.nib with
  | none => w.val / 2 ^ (8 * k) % 256
  | some hi => if hi then old % 16 + w.val % 16 * 16 else old / 16 * 16 + w.val % 16

/-- Bytes with the held stores of the group laid over them, oldest first (R348). -/
def overlay (held : List HeldStore) (p : Place) (n v : Nat) : Nat :=
  leNat ((List.range n).map fun i => BitVec.ofNat 8
    (held.foldl (fun b h => match byteIn p i h.w.place h.w.bytes with
      | some k => h.w.byte b k
      | none => b) (v / 2 ^ (8 * i) % 256)))

/-- The held stores of a group. -/
def Group.held' (g : Group) : List HeldStore := (g.ra.map (·.stores)).getD []

/-- An element's code from its bytes. -/
def codeOf (nib : Option Bool) (v : Nat) : Nat :=
  match nib with
  | none => v
  | some hi => if hi then v / 16 % 16 else v % 16

/-- The translation of an element used (R432). -/
def State.useElem (s : State) (g : Nat) (kind : AKind) (e : Elem) : State :=
  let t := s.team (s.group g).team
  match e.leaf with
  | some l => s.useLeaf t.core t.ctx kind l
  | none => s

/-- One element read by group `g` through pointer `p`: its code.  An acquire whose record does not match sets SCOPEMISS
(R237, R238). -/
def State.readElem (s : State) (g : Nat) (p : Ptr) (e : Elem) : State × Nat :=
  let x := s.group g
  let core := (s.team x.team).core
  let s1 := s.useElem g .load e
  let r := s1.readPlace core p.cls p.sc e.place e.bytes
  let miss := p.cls == .syn && !relMatches (s.core17 g) p.sc r.2.2
  let s2 := if miss then r.1.modGroup g fun x => x.orStatus 8
    else if p.cls == .syn then r.1.modHb fun h => h.acquire e.place e.bytes (groupParty g) (relMatches (s.core17 g) p.sc)
    else r.1
  (s2, codeOf e.nib (overlay x.held' e.place e.bytes r.2.1) % 2 ^ (codingOf x.nf p.ty).w)

/-- Several elements read in order, each with its tag. -/
def State.readElems {α : Type} (s : State) (g : Nat) (p : Ptr) : List (α × Elem) → State × List (α × Nat)
  | [] => (s, [])
  | (a, e) :: es =>
    let r := s.readElem g p e
    let q := r.1.readElems g p es
    (q.1, (a, r.2) :: q.2)

/-! ## Probes to other packages (R242, R243) -/

/-- The partition of a line: the PART field of its page; none for a page that no translation of this package has named
(DESIGN CHOICE, log 83). -/
def State.linePart (s : State) (ln : Nat) : Option Nat :=
  (s.mem.pageParts.find? fun p => p.1 ≤ ln * 128 && ln * 128 < p.1 + p.2.1).map fun p => p.2.2

/-- The sharers of an entry that lie in other packages, a coarse one under the masks of the line's partition (R243). -/
def State.probeTargets (s : State) (d : Dir) : BitVec 96 :=
  let me := s.pkg.num.toNat
  if d.mode == 3 then
    match s.linePart d.line with
    | some p =>
      let e : QWord := vecAt s.pkg.parts p 0
      d.sharers &&& (bits e 64 64 ++ bits e 0 32)
    | none => d.sharers
  else if d.mode == 0 then 0
  else
    let far (k : Nat) : Bool := (bits d.sharers (14 * k + 5) 9).toNat != me
    if far 0 || (d.mode == 2 && far 1) then d.sharers else 0

/-- The probes of a directory entry leave for the clusters of other packages, under the next sequence number (R242, R244, R246). -/
def State.sendProbe (s : State) (d : Dir) : State :=
  let p := s.probeTargets d
  if p == 0 then s
  else { s with out := s.out ++ [.probe d.line s.pkg.cohNo d.mode p], pkg := { s.pkg with cohNo := s.pkg.cohNo + 1 } }

/-- The line is homed in this package. -/
def State.homedHere (s : State) (ln : Nat) : Bool := paPkg (ln * 128) == s.pkg.num.toNat && !isIo (ln * 128)

/-- The owner of a line in another package is sent a recall, once, before the line is used here (R242). -/
def State.recall (s : State) (ln : Nat) : State :=
  if s.homedHere ln && s.mem.ownedAway s.pkg.num.toNat ln && !s.mem.recalls.contains ln then
    let s1 := s.sendProbe (s.mem.dirOf ln)
    { s1 with mem := { s1.mem with recalls := s1.mem.recalls ++ [ln] } }
  else s

/-- A message between packages is sent, where the line is homed in another package, or a copy is held there (R242, R379). -/
def State.sendHome (s : State) (x : HomeMsg) : State :=
  let away (ln : Nat) : Bool := paPkg (ln * 128) != s.pkg.num.toNat && !isIo (ln * 128)
  let next (s : State) (m : Msg) : State := { s with out := s.out ++ [m], pkg := { s.pkg with cohNo := s.pkg.cohNo + 1 } }
  match x with
  | .request clus ln kind =>
    if away ln then next s (.request clus ln { seq := s.pkg.cohNo, kind, part := BitVec.ofNat 4 ((s.linePart ln).getD 0) }) else s
  | .writeBack d clus => if away d.line then next s (.writeBack clus d.line s.pkg.cohNo d.data d.mask d.rel) else s
  | .probe d => if s.homedHere d.line then s.sendProbe d else s
  | .recall ln => s.recall ln

/-- The messages that the step has noted are sent. -/
def State.sendOutbox (s : State) : State :=
  s.mem.outbox.foldl State.sendHome { s with mem := { s.mem with outbox := [] } }

/-- The lines of places are asked back from owners in other packages. -/
def State.recallAll (s : State) (ps : List Place) : State :=
  ps.foldl (fun s p => match p with | .mem pa => s.recall (pa / 128) | .pad .. => s) s

/-- An access that must wait for the lines of these places (R242, R249). -/
def State.stallFor (s : State) (ps : List Place) : State := (s.recallAll ps).stall

/-! ## Slices and directory sets (R26, R239, R240) -/

/-- The slice of a cluster that caches the line: the number of its core there (R239). -/
def sliceCore (ln : Nat) : Nat := (ln % 8) ^^^ (ln / 8 % 8)

/-- The L2 slice, and stack, where a line of this package is homed: 4 KiB interleave, or as an enabled region says (R26, R248). -/
def State.homeSlice (s : State) (ln : Nat) : Nat :=
  let k := paOff (ln * 128) / 4096
  match s.mem.regions.toList.find? fun e => regCovers e (ln * 128) with
  | none => k % 8
  | some e => match regMode e with
    | 1 => regStack e
    | 2 => regStack e + k % 2
    | 3 => regStack e + k % 4
    | _ => k % 8

/-- The directory set of a line: its slice, and one of 131,072 sets there (R240; which one is a free function, log 75). -/
def State.dirSet (s : State) (ln : Nat) : Nat × Nat := (s.homeSlice ln, Config.dirSet ln % 131072)

/-- The ways of a line's directory set that are in service (R239, R240): all sixteen but those a failed test has disabled. -/
def State.dirWays (s : State) (ln : Nat) : Nat := 16 - (s.pkg.badWays.filter fun p => Config.inSet p ln).length

/-- The directory entries of this package's lines that have tracked copies. -/
def State.dirEntries (s : State) : List Dir := s.mem.dir.filter fun d => (d.st == .shr || d.st == .own) && s.homedHere d.line

/-- The entries in the directory set of a line. -/
def State.dirMates (s : State) (ln : Nat) : List Dir := s.dirEntries.filter fun x => s.dirSet x.line == s.dirSet ln

/-- A line without an entry finds every way of its set taken by lines that other packages own: a request for it waits (R240, R242). -/
def State.dirFull (s : State) (ln : Nat) : Bool :=
  let es := s.dirEntries
  16 - s.pkg.badWays.length ≤ es.length && !(es.any fun d => d.line == ln) &&
    s.dirWays ln ≤ ((s.dirMates ln).filter fun d => s.mem.ownedAway s.pkg.num.toNat d.line).length

/-- The owner of a line, or of one whose entry stands in its way, is sent a recall. -/
def State.recallFor (s : State) (ln : Nat) : State :=
  if s.dirFull ln then
    let ms := s.dirMates ln
    (s.recall ln).recall (ms.getD ((Config.device 10 s.tick).toNat % ms.length) { line := ln }).line
  else s.recall ln

/-- Entries of directory sets of more than their ways replaced, `fuel` at most: every tracked copy of a line is recalled first (R240, R242).
Which entry goes is a free choice among those that no other package owns; the owner of one that it does is asked for its copy. -/
def State.dirReplace : Nat → State → State
  | 0, s => s
  | fuel + 1, s =>
    let es := s.dirEntries
    if es.length ≤ 16 - s.pkg.badWays.length then s
    else match es.find? fun d => s.dirWays d.line < (s.dirMates d.line).length with
      | none => s
      | some d =>
        let mates := s.dirMates d.line
        let near := mates.filter fun x => !s.mem.ownedAway s.pkg.num.toNat x.line
        let v (l : List Dir) : Dir := l.getD ((Config.device 10 (4096 * s.tick + fuel)).toNat % l.length) d
        if near.isEmpty then s.recall (v mates).line
        else
          let m := s.mem.dropTracked (v near).line none
          State.dirReplace fuel { s with mem := m.putDir (m.dirOf (v near).line).cleared }

/-- The lines that a slice holds at most: its 4 fixed granules and those of the twenty that are LENT, 256 lines each (R17, R218, R239). -/
def MemSys.sliceLines (m : MemSys) (core : Nat) : Nat :=
  let g := lookupD m.gran core (0, 0)
  (24 - g.1 - g.2) * 256

/-- Lines evicted from the slice of a core until it holds no more than it can; which ones is a free choice (R222, R239). -/
def State.evictOver (s : State) (core : Nat) : State :=
  let mine (m : MemSys) : List Line := m.lines.filter fun l => l.clus == core / 8 && sliceCore l.line == core % 8
  { s with mem := (List.range ((mine s.mem).length - s.mem.sliceLines core)).foldl (fun m i =>
      match (mine m)[(Config.device 11 (8192 * s.tick + i)).toNat % (mine m).length]? with
      | some l => m.evict l
      | none => m) s.mem }

/-- Every slice and directory set within its capacity. -/
def State.fitted (s : State) : State :=
  let s1 := if s.mem.lines.length ≤ 1024 then s else (List.range 256).foldl State.evictOver s
  s1.dirReplace s1.mem.dir.length

/-! ## Writes -/

/-- One element write performed (R210, R221, R237): in a scratchpad, in I/O space, or through the cluster's slice.  The refused
value of an I/O entry is the error. -/
def State.writePlace (s : State) (core : Nat) (wr : Writer) (cls : Share) (sc : Scope) (rel : Option (Nat × Scope)) (w : EWrite) :
    Except (Nat × DWord) State :=
  match w.place with
  | .pad t o =>
    .ok (match w.nib with
      | none => s.padWrite t o w.bytes w.val
      | some _ => s.padWrite t o 1 (w.byte (s.padNat t o 1) 0))
  | .mem pa =>
    if isIo pa then
      if paPkg pa == s.pkg.num.toNat then
        let v := match w.nib with | none => w.val | some _ => w.byte (s.ioNat pa 1) 0
        s.ioWrite wr 17 (paOff pa - 0x70000000000) (leBytes w.bytes v)
      else .ok { s with out := s.out ++ [.store (paPkg pa) pa (leBytes w.bytes w.val)] }
    else
      let r := s.mem.forStore s.pkg.num.toNat (clusterOf core) (pa / 128) (tracked cls sc)
      let k := pa % 128
      let v := match w.nib with | none => w.val | some _ => w.byte (lineByte r.2.data k).toNat 0
      .ok { s with mem := r.1.putLine (r.2.write k w.bytes v rel), hb := s.hb.drop w.place w.bytes }

/-- The release record that a write of group `g` leaves (R237). -/
def State.relOf (s : State) (g : Nat) (p : Ptr) : Option (Nat × Scope) := if p.cls == .syn then some (s.core17 g, p.sc) else none

/-- One element write of group `g` through pointer `p`, its translation used before. -/
def State.writeElem (s : State) (g : Nat) (p : Ptr) (w : EWrite) : Except (Nat × DWord) State :=
  let t := s.team (s.group g).team
  match s.writePlace t.core (.group t.ctx) p.cls p.sc (s.relOf g p) w with
  | .ok s1 => .ok (if p.cls == .syn then s1.modHb fun h => h.release w.place w.bytes (s.relOf g p) (groupParty g) else s1)
  | .error x => .error x

/-- Element writes in order, each with its tag: the state after them, and the refused ones, which have no effect. -/
def State.writeElems {α : Type} (s : State) (g : Nat) (p : Ptr) : List (α × EWrite) → State × List (α × Nat × DWord)
  | [] => (s, [])
  | (a, w) :: ws => match s.writeElem g p w with
    | .ok t => t.writeElems g p ws
    | .error e => let r := s.writeElems g p ws; (r.1, (a, e) :: r.2)

/-- The write of an element. -/
def Elem.write (e : Elem) (code : Nat) : EWrite := { place := e.place, nib := e.nib, bytes := e.bytes, val := code }

/-- The poisoned lines that element writes cover whole (R438). -/
def coveredLines (es : List Elem) : List Nat :=
  let lns := (es.filterMap fun e => match e.place with | .mem pa => some (pa / 128) | _ => none).dedup
  lns.filter fun ln => (List.range 128).all fun k => es.any fun e => (byteIn (.mem (ln * 128)) k e.place e.bytes).isSome

end Sys2Proof.Machine
end

