-- ==== Sys2Proof/Machine/Mem.lean ====
section
/-! DEFINITION. Class 4: loads, stores and the pointer instructions (R200-R217). -/

namespace Sys2Proof.Machine
open Sys2Proof

/-! ## Element numbers (R205) -/

/-- S and J of an MA word (R200). -/
def maSingle (f : MAF) : Bool := bit f.fn 0
def maSub (f : MAF) : Nat := (bits f.fn 1 2).toNat

/-- The offset o. -/
def maOff (f : MAF) : Int := if f.ol then f.lit.toInt else f.off.toInt

/-- The index of a lane as it stands in its register; 0 when the word has none. -/
def Group.maIndex (g : Group) (f : MAF) (L : Nat) : Word :=
  match f.ik with
  | .vec => laneOf (g.vreg f.idx.toNat) L
  | .uni => g.sreg f.idx.toNat
  | .none => 0

/-- The first element number of a lane; none for an index that holds the I32 absent code. -/
def Group.maFirst (g : Group) (f : MAF) (L : Nat) : Option Int :=
  let i := g.maIndex f L
  if i == 0x80000000#32 then none else some (i.toInt + maOff f)

/-- The sub-elements that an instruction selects, with the distance of each from the first element number. -/
def maSubs (nf : BitVec 3 → Word) (f : MAF) : List (Nat × Nat) :=
  if maSingle f then [(maSub f, 0)] else (List.range (elemsOf nf f.ty)).map fun j => (j, j)

/-! ## Classification of a lane's elements (R208, R215) -/

/-- What an access does with one element: absent under ABS, or at a place. -/
abbrev Slot := Nat × Option Elem

/-- A BOUNDS fault of lane `L` at element `k` (R418, R419). -/
def boundsFault (nf : BitVec 3 → Word) (p : Ptr) (L : Nat) (store : Bool) (k : Int) : LaneFault :=
  { lane := L, code := 0x14, elem := BitVec.ofInt 64 k, va := p.addr nf k, info := BitVec.ofInt 64 k,
    flags := if store then 1 else 0 }

/-- A translation, protection or machine-check fault of lane `L` at element `k`. -/
def walkFault (L : Nat) (store : Bool) (k : Int) (va : DWord) (x : XFault) : LaneFault :=
  { lane := L, code := x.code, sub := x.sub, elem := BitVec.ofInt 64 k, va, info := x.info, flags := if store then 1 else 0 }

/-- The elements of one lane in ascending sub-element order, or its first fault; `clear` lists the poisoned lines that the
instruction writes whole (R438). -/
def State.laneSlots (s : State) (g : Nat) (p : Ptr) (store : Bool) (clear : List Nat) (L : Nat) :
    List (Nat × Int) → Except LaneFault (List Slot)
  | [] => .ok []
  | (j, k) :: rest =>
    let nf := (s.group g).nf
    let slot : Except LaneFault Slot := match s.whereIs g p (if store then .store else .load) k with
      | .out => if p.abs then .ok (j, none) else .error (boundsFault nf p L store k)
      | .bad x va => .error (walkFault L store k (BitVec.ofNat 64 va) x)
      | .at e => match s.poisonAt e.place with
        | none => .ok (j, some e)
        | some x =>
          if e.place.onLine clear then .ok (j, some e)
          else .error (walkFault L store k (p.addr nf k) x)
    match slot with
    | .error x => .error x
    | .ok e => match s.laneSlots g p store clear L rest with
      | .error x => .error x
      | .ok es => .ok (e :: es)

/-- The elements of lane `L`, or its fault.  A lane with an absent index has every element out of bounds; the element number
its record shows is not stated and stays free (log 4). -/
def State.laneAcc (s : State) (g : Nat) (p : Ptr) (f : MAF) (store : Bool) (clear : List Nat) (L : Nat) :
    Except LaneFault (List Slot) :=
  let x := s.group g
  match x.maFirst f L with
  | some e => s.laneSlots g p store clear L ((maSubs x.nf f).map fun q => (q.1, e + q.2))
  | none =>
    if p.abs then .ok ((maSubs x.nf f).map fun q => (q.1, none))
    else .error (boundsFault x.nf p L store (Config.undef s.tick L).toInt)

/-- The lanes of an access with their elements. -/
abbrev Lanes := List (Nat × List Slot)

/-- The lanes that go on, and the faults of the others. -/
def State.classify (s : State) (g : Nat) (p : Ptr) (f : MAF) (store : Bool) (clear : List Nat) (ls : List Nat) :
    Lanes × List LaneFault :=
  let rs := ls.map fun L => (L, s.laneAcc g p f store clear L)
  (rs.filterMap fun r => match r.2 with | .ok es => some (r.1, es) | .error _ => none,
   rs.filterMap fun r => match r.2 with | .ok _ => none | .error x => some x)

/-- The elements that an access performs. -/
def Lanes.elems (ls : Lanes) : List Elem := ls.flatMap fun l => l.2.filterMap (·.2)

/-- The same fault for every lane of the issuing split: an access made once for the group (R211). -/
def State.spread (s : State) (fs : List LaneFault) : List LaneFault :=
  match fs with
  | [] => []
  | x :: _ => (lanesOf s.cset.lanes).map fun L => { x with lane := L }

/-! ## What holds an access back -/

/-- An access in run-ahead that R347 holds: a load of I/O space, or a SYN load while a SYN store is held. -/
def State.loadHeld (s : State) (p : Ptr) (es : List Elem) : Bool :=
  s.cg.ra.isSome &&
    ((p.cls == .syn && s.cg.held'.any fun h => h.cls == .syn) ||
      es.any fun e => match e.place with | .mem pa => isIo pa | _ => false)

/-- The store instructions that a group holds (R346). -/
def Group.heldCount (g : Group) : Nat := (g.ra.map (·.held)).getD 0

/-! ## Loads (R209, R211) -/

/-- The code of an element that a load reads as absent (R208). -/
def tailCode (nf : BitVec 3 → Word) (f : Ty) : Nat := ((codingOf nf f).absent).getD 0

/-- The elements of a lane read, converted and gathered: sub-element, code and flags. -/
def State.readSlots (s : State) (g : Nat) (p : Ptr) (t : Ty) : List Slot → State × List (Nat × Nat × Fl)
  | [] => (s, [])
  | (j, none) :: es =>
    let nf := (s.group g).nf
    let r := s.readSlots g p t es
    (r.1, (j, (convert nf t p.ty .rne (tailCode nf p.ty)).1, 0) :: r.2)
  | (j, some e) :: es =>
    let q := s.readElem g p e
    let c := convert (s.group g).nf t p.ty .rne q.2
    let r := q.1.readSlots g p t es
    (r.1, (j, c.1, c.2) :: r.2)

/-- All lanes read, lowest first. -/
def State.readLanes (s : State) (g : Nat) (p : Ptr) (t : Ty) : Lanes → State × List (Nat × List (Nat × Nat × Fl))
  | [] => (s, [])
  | (L, es) :: ls =>
    let q := s.readSlots g p t es
    let r := q.1.readLanes g p t ls
    (r.1, (L, q.2) :: r.2)

/-- A lane value with the elements read in their places. -/
def laneFrom (nf : BitVec 3 → Word) (t : Ty) (es : List (Nat × Nat × Fl)) : Nat :=
  es.foldl (fun v e => elemSet nf t v e.1 e.2.1) 0

/-- The bits of a lane value that a load changes: all in packed mode, one place in single mode (R81). -/
def loadBits (nf : BitVec 3 → Word) (f : MAF) : Nat :=
  if maSingle f then (2 ^ contW nf f.ty - 1) * 2 ^ (maSub f * contW nf f.ty) else fullBits f.ty.regs

/-- The lane value that lane `L` of a load receives. -/
def loadValue (nf : BitVec 3 → Word) (t : Ty) (ls : List (Nat × List (Nat × Nat × Fl))) (L : Nat) : Nat :=
  match ls.find? fun l => l.1 == L with
  | some l => laneFrom nf t l.2
  | none => 0

/-- The mask of the lanes in a list. -/
def lanesMask (ls : List Nat) : Word := maskOf fun i => ls.contains i

/-- LD (R209): an unchecked result. -/
def vecLoad (f : MAF) (s : State) : State :=
  let g := s.cur.g
  let x := s.cg
  match s.ptrCheck g (x.preg f.ptr.toNat) (pairOk x.nf .rne f.ty) false with
  | .error (c, sub) => s.userTrap c sub
  | .ok p =>
    let r := s.classify g p f false [] (lanesOf (s.act f.msk))
    let es := r.1.elems
    if es.any (fun e => s.waits e.place) then s.stallFor (es.map (·.place))
    else if s.loadHeld p es then s.stallAhead
    else s.laneFaults r.2 fun s =>
      let q := s.readLanes g p f.ty r.1
      q.1.issue f.y fun y => y.send false
        (vWrites f.data.toNat f.ty.regs (loadValue y.nf f.ty q.2) (lanesMask (r.1.map (·.1))) (loadBits y.nf f))
        (q.2.flatMap fun l => l.2.map (·.2.2))

/-- A load made once for the group: its lane value goes to `ws` (R204, R211). -/
def uniLoad (f : MAF) (ws : Group → Nat → List RegW) (s : State) : State :=
  let g := s.cur.g
  let x := s.cg
  match s.ptrCheck g (x.preg f.ptr.toNat) (pairOk x.nf .rne f.ty) false with
  | .error (c, sub) => s.userTrap c sub
  | .ok p =>
    let r := s.classify g p f false [] [0]
    let es := r.1.elems
    if es.any (fun e => s.waits e.place) then s.stallFor (es.map (·.place))
    else if s.loadHeld p es then s.stallAhead
    else if !r.2.isEmpty then s.laneFaults (s.spread r.2) id
    else
      let q := s.readLanes g p f.ty r.1
      q.1.issue f.y fun y => y.send false (ws y (loadValue y.nf f.ty q.2 0)) (q.2.flatMap fun l => l.2.map (·.2.2))

/-! ## Stores (R210, R211) -/

/-- The element writes of lane `L`: elements out of bounds are dropped; `v` is the lane's source value. -/
def storeSlots (nf : BitVec 3 → Word) (p : Ptr) (t : Ty) (rnd : Rnd) (v : Nat) (es : List Slot) : List (EWrite × Fl) :=
  es.filterMap fun e => e.2.map fun el =>
    let c := convert nf p.ty t rnd (elemGet nf t v e.1)
    (el.write c.1, c.2)

/-- The element writes of a store, lowest lane first; `src` is the source value of a lane. -/
def storeLanes (nf : BitVec 3 → Word) (p : Ptr) (t : Ty) (rnd : Rnd) (src : Nat → Nat) (ls : Lanes) :
    List (Nat × EWrite × Fl) :=
  ls.flatMap fun l => (storeSlots nf p t rnd (src l.1) l.2).map fun w => (l.1, w)

/-- Element writes put into the store queue of a group in run-ahead (R348). -/
def Group.hold (g : Group) (p : Ptr) (ws : List EWrite) : Group :=
  { g with ra := g.ra.map fun r =>
      { r with stores := r.stores ++ ws.map (fun w => { n := g.issueNo, w, cls := p.cls, sc := p.sc }), held := r.held + 1 } }

/-- The lane faults of refused I/O values (R418). -/
def refusedFaults (errs : List (Nat × Nat × DWord)) : List LaneFault :=
  (errs.map (·.1)).dedup.filterMap fun L => (errs.find? fun e => e.1 == L).map fun e =>
    { lane := L, code := e.2.1, elem := 0, va := 0, info := e.2.2, flags := 1 }

/-- Translations of a store used (R432). -/
def State.useElems (s : State) (g : Nat) (es : List Elem) : State := es.foldl (fun s e => s.useElem g .store e) s

/-- The writes of a store performed, or held in run-ahead; poison goes from lines written whole (R438), and the flags of the
conversions are set (R109). -/
def State.performStore (s : State) (p : Ptr) (y : Bool) (clear : List Nat) (es : List Elem) (ws : List (Nat × EWrite × Fl)) :
    State :=
  let g := s.cur.g
  let s1 := s.useElems g es
  let t := (s1.writeElems g p (ws.map fun w => (w.1, w.2.1))).1
  let s2 := if s.cg.ra.isSome then s1.modCg fun x => x.hold p (ws.map (·.2.1))
    else { t with mem := t.mem.unpoison clear }
  (s2.raiseFl g (ws.map (·.2.2))).advance y

/-- The refused values that the writes would meet. -/
def State.storeErrors (s : State) (p : Ptr) (ws : List (Nat × EWrite × Fl)) : List (Nat × Nat × DWord) :=
  (s.writeElems s.cur.g p (ws.map fun w => (w.1, w.2.1))).2

/-- A store of some lanes (R210): `src` is a lane's source value, `uni` that it is made once for the group (R211). -/
def storeForm (f : MAF) (uni : Bool) (src : Group → Nat → Nat) (s : State) : State :=
  let g := s.cur.g
  let x := s.cg
  match s.ptrCheck g (x.preg f.ptr.toNat) (pairOk x.nf f.rnd f.ty) true with
  | .error (c, sub) => s.userTrap c sub
  | .ok p =>
    let lanes := if uni then [0] else lanesOf (s.act f.msk)
    let spread (s : State) (fs : List LaneFault) : List LaneFault := if uni then s.spread fs else fs
    let clear := if tracked p.cls p.sc then
        coveredLines ((s.classify g p f true [] lanes).1.elems ++
          lanes.flatMap fun L => match x.maFirst f L with
            | none => []
            | some e => (maSubs x.nf f).filterMap fun q => match s.whereIs g p .store (e + q.2) with
              | .at el => some el
              | _ => none)
      else []
    let r := s.classify g p f true clear lanes
    let es := r.1.elems
    if es.any (fun e => s.waits e.place) || (x.ra.isSome && 64 ≤ x.heldCount) then s.stallFor (es.map (·.place))
    else
      let ws := storeLanes x.nf p f.ty f.rnd (src x) r.1
      let refused := refusedFaults (s.storeErrors p ws)
      s.laneFaults (spread s (r.2 ++ refused)) fun s =>
        let done : Lanes := r.1.filter fun l => !refused.any fun e => e.lane == l.1
        if uni && done.isEmpty then s
        else s.performStore p f.y clear done.elems (ws.filter fun w => done.any fun l => l.1 == w.1)

/-! ## PCHK and PREF (R212) -/

/-- PCHK's bit of lane `L`. -/
def State.pchkBit (s : State) (p : Ptr) (f : MAF) (L : Nat) : Bool :=
  match s.cg.maFirst f L with
  | none => false
  | some e => (maSubs s.cg.nf f).all fun q => s.inBounds s.cur.g p (e + q.2)

/-- PCHK. -/
def pointerCheck (f : MAF) (s : State) : State :=
  let x := s.cg
  match s.ptrCheck s.cur.g (x.preg f.ptr.toNat) (pairOk x.nf .rne f.ty) false with
  | .error (c, sub) => s.userTrap c sub
  | .ok p =>
    let act := s.act f.msk
    let val := maskOf fun L => bit act L && s.pchkBit p f L
    s.issue f.y fun y => y.send false [.m f.data.toNat val act] []

/-- The line that PREF starts to fill for an element: none outside memory, or where the access would wait or fault. -/
def State.prefLine (s : State) (p : Ptr) (k : Int) : Option Nat :=
  match p.sp, s.whereIs s.cur.g p .load k with
  | .glb, .at { place := .mem pa, .. } =>
    if isIo pa || s.waits (.mem pa) || s.mem.poisoned (pa / 128) then none else some (pa / 128)
  | _, _ => none

/-- PREF into the slice of the cluster; into the home L2, where every line already is, it does nothing more. -/
def prefetch (f : MAF) (s : State) : State :=
  let x := s.cg
  match s.ptrCheck s.cur.g (x.preg f.ptr.toNat) (pairOk x.nf .rne f.ty) false with
  | .error _ => s.advance f.y
  | .ok p =>
    let lns := (lanesOf (s.act f.msk)).flatMap fun L => match x.maFirst f L with
      | none => []
      | some e => (List.range (elemsOf x.nf f.ty)).filterMap fun j => s.prefLine p (e + j)
    let s1 := if bit f.fn 0 then s
      else lns.dedup.foldl (fun s ln =>
        { s with mem := (s.mem.forLoad s.pkg.num.toNat (clusterOf s.ct.core) ln (tracked p.cls p.sc)).1 }) s
    s1.advance f.y

/-! ## Pointers built and moved (R201-R203) -/

/-- The attribute word of PMAKE. -/
def Group.attrWord (g : Group) (f : VF) : Word :=
  match f.ck with
  | .reg | .uni => g.sreg f.sc.toNat
  | .imm => f.sc.signExtend 32
  | .lit => f.lit.setWidth 32

/-- PMAKE's pointer before V is decided (R201). -/
def makeRaw (base len : DWord) (ty : Ty) (attr : Word) (core17 : BitVec 17) : QWord :=
  (if bit attr 27 then core17 else bits attr 10 17) ++ bits attr 0 10 ++ bits len 0 37 ++ 1#1 ++ (0#1 ++ ty.code) ++ bits base 0 57

/-- PMAKE (R201). -/
def makePtr (base len : DWord) (ty : Ty) (attr : Word) (core17 : BitVec 17) : QWord :=
  let p := makeRaw base len ty attr core17
  if bits base 57 7 != 0 || bits len 37 27 != 0 || bits attr 28 4 != 0 || (bit attr 27 && bits attr 10 17 != 0) || (ptrOf p).isNone
  then setPtrV p false else p

/-- How many bytes `b` elements are (R202). -/
def byteStep (nf : BitVec 3 → Word) (t : Ty) (b : Nat) : Nat :=
  if contW nf t == 4 then b / 2 else b * (contW nf t / 8)

/-- The narrow format that a pointer names is invalid. -/
def ptrNfBad (nf : BitVec 3 → Word) (t : Ty) : Bool := match t with | .nf k => !nfValid (nf k) | _ => false

/-- PADD (R202): `b` is none for the absent code. -/
def addPtr (nf : BitVec 3 → Word) (p : QWord) (b : Option Int) : QWord :=
  match ptrV p, ptrOf p, b with
  | true, some q, some (.ofNat n) =>
    if ptrNfBad nf q.ty || (contW nf q.ty == 4 && n % 2 == 1) then setPtrV p false
    else
      let nb := q.base + byteStep nf q.ty n
      if 2 ^ spaceWidth q.sp ≤ nb then setPtrV p false else setPtrRange p nb (q.len - n)
  | _, _, _ => setPtrV p false

/-- The count of PADD. -/
def Group.paddCount (g : Group) (f : VF) : Option Int :=
  let c := codingOf g.nf f.ty
  let v := g.srcC true f f.ty 0 % 2 ^ c.w
  if v == 2 ^ (c.w - 1) then none else some (if v < 2 ^ (c.w - 1) then (v : Int) else (v : Int) - 2 ^ c.w)

/-- A pointer written as an unchecked result. -/
def sendPtr (f : VF) (val : State → QWord) (s : State) : State :=
  s.issue f.y fun g => g.send f.t [.p f.dst.toNat (val s)] []

/-! ## The instructions -/

/-- LD (R209). -/
def execLd (f : MAF) (s : State) : Host.Outcome State Fault Refusal := ok (vecLoad f s)
/-- ST (R210). -/
def execSt (f : MAF) (s : State) : Host.Outcome State Fault Refusal :=
  ok (storeForm f false (fun g L => g.vlane f.data.toNat f.ty.regs L) s)
/-- LDU (R211). -/
def execLdu (f : MAF) (s : State) : Host.Outcome State Fault Refusal :=
  ok (uniLoad f (fun g v => sWrites f.data.toNat f.ty.regs v (loadBits g.nf f)) s)
/-- STU (R211). -/
def execStu (f : MAF) (s : State) : Host.Outcome State Fault Refusal :=
  ok (storeForm f true (fun g _ => g.sval f.data.toNat f.ty.regs) s)
/-- PLD (R204). -/
def execPld (f : MAF) (s : State) : Host.Outcome State Fault Refusal :=
  ok (uniLoad f (fun _ v => [.p f.data.toNat (BitVec.ofNat 128 v)]) s)
/-- PST (R204). -/
def execPst (f : MAF) (s : State) : Host.Outcome State Fault Refusal :=
  ok (storeForm f true (fun g _ => (g.preg f.data.toNat).toNat) s)
/-- PCHK (R212). -/
def execPchk (f : MAF) (s : State) : Host.Outcome State Fault Refusal := ok (pointerCheck f s)
/-- PREF (R212). -/
def execPref (f : MAF) (s : State) : Host.Outcome State Fault Refusal := ok (prefetch f s)
/-- PMAKE (R201). -/
def execPmake (f : VF) (s : State) : Host.Outcome State Fault Refusal :=
  ok (sendPtr f (fun s => makePtr (s.cg.spair f.sa.toNat) (s.cg.spair f.sb.toNat) f.ty (s.cg.attrWord f)
    (BitVec.ofNat 17 (s.core17 s.cur.g))) s)
/-- PADD (R202). -/
def execPadd (f : VF) (s : State) : Host.Outcome State Fault Refusal :=
  ok (sendPtr f (fun s => addPtr s.cg.nf (s.cg.preg f.sa.toNat) (s.cg.paddCount f)) s)
/-- PMOV (R203). -/
def execPmov (f : VF) (s : State) : Host.Outcome State Fault Refusal :=
  ok (sendPtr f (fun s => s.cg.preg f.sa.toNat) s)
/-- PGET (R203). -/
def execPget (f : VF) (s : State) : Host.Outcome State Fault Refusal :=
  ok (s.issue f.y fun g => g.send f.t
    [.s f.dst.toNat (bits (g.preg f.sa.toNat) (32 * (f.sc.toNat % 4)) 32) ones32] [])

end Sys2Proof.Machine
end

