-- ==== Sys2Proof/Machine/Atomic.lean ====
section
/-! DEFINITION. The atomics of class 6 (R251-R255) and the atomic packets of other packages (R254). -/

namespace Sys2Proof.Machine
open Sys2Proof

/-! ## Combinations (R252) -/

/-- An exact result of an integer atomic fitted into its type (R127). -/
def fitAtom (c : Coding) (x : Int) : Nat := intCode c.w (if x > c.maxInt then c.maxInt else if x < c.minInt then c.minInt else x)

/-- The integer of a present code. -/
def atomInt (c : Coding) (code : Nat) : Int :=
  match c with
  | .int n => if code < 2 ^ (n - 1) then (code : Int) else (code : Int) - 2 ^ n
  | _ => code

/-- A float result, rounded once. -/
def atomFloat (F : FFmt) (rnd : Rnd) (x : Xv × Fl) : Nat × Fl :=
  let r := F.round rnd x.1
  (r.1, r.2 ||| x.2)

/-- The operand that is there, a NaN as the canonical one (R85). -/
def atomCopy (c : Coding) (code : Nat) : Nat :=
  match c with
  | .flt F => if (F.value code).isNan then F.canon else code
  | _ => code

/-- AADD, AMIN and AMAX of two present operands; `mx` tells MAX from MIN, none is AADD. -/
def atomNum (c : Coding) (rnd : Rnd) (mx : Option Bool) (m v : Nat) : Nat × Fl :=
  match c, mx with
  | .flt F, none => atomFloat F rnd (sumX rnd [F.value m, F.value v])
  | .flt F, some b => atomFloat F .rne ((F.value m).minmax b (F.value v))
  | .raw n, none => ((m + v) % 2 ^ n, 0)
  | c, none => (fitAtom c (atomInt c m + atomInt c v), 0)
  | c, some b => (fitAtom c (if b then max (atomInt c m) (atomInt c v) else min (atomInt c m) (atomInt c v)), 0)

/-- Combine (R252): the memory value, the operand and, for ACAS, the new value. -/
def combine (op : AtOp) (t : Ty) (rnd : Rnd) (m v w : Nat) : Nat × Fl :=
  let c := codingOf (fun _ => 0) t
  let reduce (mx : Option Bool) : Nat × Fl :=
    if c.absent == some v then (m, 0)
    else if c.absent == some m then (atomCopy c v, 0)
    else atomNum c rnd mx m v
  match op with
  | .add => reduce none
  | .min => reduce (some false)
  | .max => reduce (some true)
  | .and => (m &&& v, 0)
  | .or => (m ||| v, 0)
  | .xor => (m ^^^ v, 0)
  | .xch => (v, 0)
  | .cas => (if m == v then w else m, 0)

/-! ## Where an event executes (R254) -/

/-- An event's outcome: the old value, its flags and the release record it found. -/
structure AtomRes where
  old : Nat
  fl : Fl
  rel : Option (Nat × Scope)
deriving DecidableEq, Repr

/-- An event at the home of its line: every copy recalled, the bytes changed there, and the release record set (R237). -/
def State.atomHome (s : State) (c pa n : Nat) (rel : Option (Nat × Scope)) (f : Nat → Nat × Fl) : State × AtomRes :=
  let ln := pa / 128
  let m := s.mem.forHome c ln
  let old := leNat (cellsRead m.cells pa n)
  let r := f old
  let m1 := { m with cells := cellsWrite m.cells pa (leBytes n r.1) }
  let m2 := m1.dirtyHalves ln (BitVec.ofNat 128 (2 ^ n - 1) <<< (pa % 128))
  ({ s with mem := m2.putDir { m2.dirOf ln with rel }, hb := s.hb.drop (.mem pa) n }, { old, fl := r.2, rel := (m.dirOf ln).rel })

/-- An event in the cluster's slice, on a copy held TM (R222). -/
def State.atomSlice (s : State) (c pa n : Nat) (rel : Option (Nat × Scope)) (f : Nat → Nat × Fl) : State × AtomRes :=
  let q := s.mem.forStore s.pkg.num.toNat c (pa / 128) true
  let k := pa % 128
  let old := leNat ((List.range n).map fun i => lineByte q.2.data (k + i))
  let r := f old
  ({ s with mem := q.1.putLine (q.2.write k n r.1 rel), hb := s.hb.drop (.mem pa) n }, { old, fl := r.2, rel := q.2.rel })

/-- One event of group `g` through pointer `p`; the refused value of an I/O entry is the error. -/
def State.atomic (s : State) (g : Nat) (p : Ptr) (e : Elem) (f : Nat → Nat × Fl) : Except (Nat × DWord) (State × AtomRes) :=
  let t := s.team (s.group g).team
  let s1 := s.useElem g .store e
  let rel := s.relOf g p
  match e.place with
  | .pad u o =>
    let old := s1.padNat u o e.bytes
    let r := f old
    .ok (s1.padWrite u o e.bytes r.1, { old, fl := r.2, rel := none })
  | .mem pa =>
    if isIo pa then
      let old := s1.ioNat pa e.bytes
      let r := f old
      match s1.writePlace t.core (.group t.ctx) p.cls p.sc rel (e.write r.1) with
      | .ok s2 => .ok (s2, { old, fl := r.2, rel := none })
      | .error x => .error x
    else if (p.sc == .core || p.sc == .clus) && s.homedHere (pa / 128) then .ok (s1.atomSlice (clusterOf t.core) pa e.bytes rel f)
    else .ok (s1.atomHome (clusterOf t.core) pa e.bytes rel f)

/-! ## The instruction (R251-R253) -/

/-- The number of registers of one operand. -/
def atomRegs (t : Ty) : Nat := t.regs

/-- An atomic on a line of another package leaves as an operation packet (R254, R379; its result is found here, log 13). -/
def State.atomSent (s : State) (p : Place) (op : AtOp) (f : MAF) (rel : Option (Nat × Scope)) (v w : Nat) : State :=
  match p with
  | .pad .. => s
  | .mem pa =>
    if paPkg pa == s.pkg.num.toNat then s
    else { s with
      out := s.out ++ [.atomic (paPkg pa) s.pkg.cohNo op f.ty f.rnd pa (BitVec.ofNat 64 v) (BitVec.ofNat 64 w) rel]
      pkg := { s.pkg with cohNo := s.pkg.cohNo + 1 } }

/-- What a SYN atomic orders: it is an acquire, unless its edges are dropped, and a release that carries on the release sequence of its bytes
(R231, R237). -/
def State.atomEdges (s : State) (before : Hb) (g : Nat) (p : Ptr) (e : Elem) (miss : Bool) : State :=
  if p.cls != .syn then s
  else s.modHb fun h =>
    let h1 := { h with rels := before.rels }
    let h2 := if miss then h1 else h1.acquire e.place e.bytes (groupParty g) (relMatches (s.core17 g) p.sc)
    h2.releaseOn e.place e.bytes (s.relOf g p) (groupParty g)

/-- The events of the lanes in ascending order: old values, flags, refused values, and whether an acquire was dropped (R237). -/
def State.atomLanes (s : State) (g : Nat) (p : Ptr) (op : AtOp) (f : MAF) (src new : Nat → Nat) :
    Lanes → State × List (Nat × Nat) × List Fl × List (Nat × Nat × DWord)
  | [] => (s, [], [], [])
  | (L, es) :: ls =>
    match es.headD (0, none) with
    | (_, none) =>
      let r := s.atomLanes g p op f src new ls
      (r.1, (L, tailCode (fun _ => 0) f.ty) :: r.2.1, r.2.2)
    | (_, some e) =>
      match s.atomic g p e (fun m => combine op f.ty f.rnd m (src L) (new L)) with
      | .error x =>
        let r := s.atomLanes g p op f src new ls
        (r.1, r.2.1, r.2.2.1, (L, x) :: r.2.2.2)
      | .ok q =>
        let miss := p.cls == .syn && !relMatches (s.core17 g) p.sc q.2.rel
        let s1 := State.atomEdges (if miss then q.1.modGroup g fun x => x.orStatus 8 else q.1) s.hb g p e miss
        let r := (s1.atomSent e.place op f (s.relOf g p) (src L) (new L)).atomLanes g p op f src new ls
        (r.1, (L, q.2.old) :: r.2.1, q.2.fl :: r.2.2.1, r.2.2.2)

/-- An atomic instruction: its result, or only its flags, is outstanding until it returns (R253, R255). -/
def atomicForm (op : AtOp) (f : MAF) (s : State) : State :=
  s.unlessAhead fun s =>
    let g := s.cur.g
    let x := s.cg
    let G := atomRegs f.ty
    match s.ptrCheck g (x.preg f.ptr.toNat) (fun u => u == f.ty) true with
    | .error (c, sub) => s.userTrap c sub
    | .ok p =>
      let src (L : Nat) : Nat := x.vlane f.data.toNat G L
      let new (L : Nat) : Nat := x.vlane (f.data.toNat + G) G L
      let r := s.classify g p f true [] (lanesOf (s.act f.msk))
      if r.1.elems.any fun e => s.waits e.place then s.stallFor (r.1.elems.map (·.place))
      else
        let refused := refusedFaults (s.atomLanes g p op f src new r.1).2.2.2
        s.laneFaults (r.2 ++ refused) fun s =>
          let q := s.atomLanes g p op f src new (r.1.filter fun l => !refused.any fun e => e.lane == l.1)
          let ws := if bit f.fn 2 then
              vWrites f.data.toNat G (fun L => lookupD q.2.1 L 0) (lanesMask (q.2.1.map (·.1))) (fullBits G)
            else []
          q.1.issue f.y fun y => y.send false ws q.2.2.1

/-! ## Packets from other packages (R254) -/

/-- An atomic packet executes once at the line's home in this package and its result returns; a repeated one only has its answer
repeated. -/
def execAtomicPacket (src seq : Nat) (op : AtOp) (ty : Ty) (rnd : Rnd) (pa : Nat) (v w : BitVec 64) (rel : Option (Nat × Scope))
    (s : State) : Host.Outcome State Fault Refusal :=
  let answer (s : State) (d : AtomDone) : State := { s with out := s.out ++ [.atomicResult src seq d.old d.fl d.rel] }
  ok (match s.pkg.atomSeen.find? fun d => d.src == src && d.seq == seq with
    | some d => answer s d
    | none =>
      let n := (codingOf (fun _ => 0) ty).w / 8
      if s.homedHere (pa / 128) && s.waits (.mem pa) then s.recall (pa / 128)
      else if !s.homedHere (pa / 128) || s.mem.poisoned (pa / 128) || n == 0 || 8 < n || pa % n != 0 then s
      else
        let r := s.atomHome 32 pa n rel (fun m => combine op ty rnd m (v.toNat % 2 ^ (8 * n)) (w.toNat % 2 ^ (8 * n)))
        let d : AtomDone := { src, seq, old := BitVec.ofNat 64 r.2.old, fl := r.2.fl, rel := r.2.rel }
        answer { r.1 with pkg := { r.1.pkg with atomSeen := r.1.pkg.atomSeen ++ [d] } } d)

/-- AADD (R252). -/
def execAadd (f : MAF) (s : State) : Host.Outcome State Fault Refusal := ok (atomicForm .add f s)
/-- AMIN (R252). -/
def execAmin (f : MAF) (s : State) : Host.Outcome State Fault Refusal := ok (atomicForm .min f s)
/-- AMAX (R252). -/
def execAmax (f : MAF) (s : State) : Host.Outcome State Fault Refusal := ok (atomicForm .max f s)
/-- AAND (R252). -/
def execAand (f : MAF) (s : State) : Host.Outcome State Fault Refusal := ok (atomicForm .and f s)
/-- AOR (R252). -/
def execAor (f : MAF) (s : State) : Host.Outcome State Fault Refusal := ok (atomicForm .or f s)
/-- AXOR (R252). -/
def execAxor (f : MAF) (s : State) : Host.Outcome State Fault Refusal := ok (atomicForm .xor f s)
/-- AXCH (R252). -/
def execAxch (f : MAF) (s : State) : Host.Outcome State Fault Refusal := ok (atomicForm .xch f s)
/-- ACAS (R252). -/
def execAcas (f : MAF) (s : State) : Host.Outcome State Fault Refusal := ok (atomicForm .cas f s)

end Sys2Proof.Machine
end

