-- ==== Sys2Proof/Machine/Locks.lean ====
section
/-! DEFINITION. Faults that no instruction of a split names (R420, R421) and the deadlocks that the hardware detects: DIVLOCK and
BARLOST of a group (R147, R148, R259), XDEADLOCK and BARDEAD of a team (R119, R260). -/

namespace Sys2Proof.Machine
open Sys2Proof

/-! ## Faults without a faulting instruction (R420, R421) -/

/-- A fault of an S-mode task delivered to group `g`: its split in the lowest occupied entry is interrupted (R421).  A group that
waits in XACQ leaves the queue, and issues XACQ again later. -/
def State.interruptGroup (s : State) (g code sub : Nat) (info : DWord) (seqTeam : Option Nat) : State :=
  let x := s.group g
  match (List.range 4).find? fun e => (x.set e).lanes != 0 with
  | none => s.haltContext (s.team x.team).ctx
  | some e =>
    let s1 := (s.modGroup g fun x => { x with xwait := false }).modTeam x.team fun t => { t with xq := t.xq.filter (· != g) }
    s1.trapGroup g { entry := e, cause := 0x80 + code, sub, word := 0, lit := 0, pc := (x.set e).pc, waits := [], info := some info,
                     seqTeam }

/-- The live resident group of lowest team-relative index in a team. -/
def State.firstGroup (s : State) (t : Nat) : Option Nat :=
  if (s.team t).resident then
    (sortBy (fun a b => (s.group a).gidx ≤ (s.group b).gidx) (s.teamGroups t)).find? fun g => !(s.group g).ended
  else none

/-- A fault of a team's S-mode task delivered to its first group, or the context halts (R421). -/
def State.interruptTeam (s : State) (t code sub : Nat) (info : DWord) (seqTeam : Option Nat) : State :=
  match s.firstGroup t with
  | some g => s.interruptGroup g code sub info seqTeam
  | none => s.haltContext (s.team t).ctx

/-- A record that is raised or open says the same already. -/
def State.recorded (s : State) (p : FaultRec → Bool) : Bool :=
  s.faults.any p || s.pkg.ctxs.any fun c => c.2.opened.any fun o => !o.closed && p o.fr

/-- A team-scope fault (R420, R421): the team stands as it is. -/
def State.teamFault (s : State) (t code sub : Nat) (info : DWord) : State :=
  if !(s.team t).user then s.interruptTeam t code sub info none
  else if s.recorded fun r => r.scope == .team && r.team == t && r.code == code then s
  else s.raise (s.teamRec t code sub .team 0 info)

/-- A group-scope fault (R420, R421): every split of the group is held. -/
def State.groupFault (s : State) (g code : Nat) (pc info : DWord) : State :=
  if !(s.team (s.group g).team).user then s.interruptGroup g code 0 info none
  else (s.modGroup g fun x => { x with held := true }).raise (s.groupRec g code 0 .group pc info)

/-! ## A group that cannot go on (R147, R148, R259) -/

/-- The address of the first parked BAR set, the splits before the stack. -/
def Group.barSet (g : Group) : Option LaneSet := g.laneSets.find? fun l => l.st == .bar

/-- Some lane cannot arrive at the barrier of the BAR set `b` (R148). -/
def Group.barLostAt (g : Group) (b : LaneSet) : Bool :=
  g.laneSets.any (fun x => x.st == .join || (x.st == .bar && x.pc != b.pc)) &&
  !g.laneSets.any (fun x => x.st == .ready || x.st == .defer)

/-- A stacked BAR set exchanged with the entry of highest index, so that it can trap. -/
def Group.unstackBar (g : Group) : Group :=
  if (List.range 4).any fun e => (g.set e).st == .bar then g
  else match g.stack.find? fun l => l.st == .bar with
    | none => g
    | some b => { g with stack := g.stack.erase b ++ [g.set 3] }.putSet 3 b

/-- The words at an address, zero where they cannot be fetched. -/
def State.wordsAt (s : State) (g : Nat) (pc : DWord) : DWord × DWord :=
  match s.codeWord g pc.toNat with
  | .error _ => (0, 0)
  | .ok w => (w, if wL w then (match s.codeWord g (pc + 8).toNat with | .ok l => l | .error _ => 0) else 0)

/-- Group `g` examined after a lane set of it has parked or gone: BARLOST where a BAR set can no longer become whole, DIVLOCK
where every live lane is parked in JOIN. -/
def State.groupLocks (s : State) (g : Nat) : State :=
  let x := s.group g
  let t := s.team x.team
  if x.ended || x.held || x.lent != 0 || x.ra.isSome || x.trapReq.isSome || x.live == 0 || !t.resident || t.tstop then s
  else match x.barSet with
    | some b =>
      if x.barLostAt b then
        let s1 := s.modGroup g Group.unstackBar
        let e := ((List.range 4).find? fun e => ((s1.group g).set e).st == .bar).getD 0
        let l := (s1.group g).set e
        let w := s1.wordsAt g l.pc
        s1.trapGroup g { entry := e, cause := 0x07, sub := 0, word := w.1, lit := w.2, pc := l.pc, waits := [], info := none,
                         seqTeam := none }
      else s
    | none =>
      if x.laneSets.all (fun l => l.st == .join) && !x.laneSets.isEmpty &&
          x.laneSets.foldl (fun m l => m ||| l.lanes) 0 == x.live
      then s.groupFault g 0x0B 0 0
      else s

/-! ## A team that cannot go on (R119, R260) -/

/-- What a group of a team waits for. -/
inductive Stuck where
  | no | xacq | wait | arrive
deriving DecidableEq, Repr

/-- Where group `g` stands: in XACQ with no block free, or as one lane set at a team barrier that lets it go no further. -/
def State.stuck (s : State) (g : Nat) : Stuck :=
  let x := s.group g
  let t := s.team x.team
  if x.held || x.trapReq.isSome then .no
  else if x.xwait then (if t.xfree == 0 then .xacq else .no)
  else match x.laneSets with
    | [l] => match l.st, l.blocked with
      | .ready, some (.wait b) => if (t.bar b).passable x.gidx then .no else .wait
      | .ready, some (.arrive b) => if (t.bar b).arrived x.gidx then .arrive else .no
      | _, _ => .no
    | _ => .no

/-- The sequencer of a team is stopped, waits on a team barrier, or does not exist. -/
def Team.seqIdle (t : Team) : Bool :=
  match t.seq with
  | none => true
  | some q => match q.st with
    | .ended | .fault => true
    | .wait => !(t.bar q.waitOn).passable 32
    | .run => false

/-- A copy or a collective of the team can still arrive. -/
def State.mayArrive (s : State) (t : Nat) : Bool :=
  s.cmds.any (fun c => c.team == t && !c.done) || !(s.team t).collWords.isEmpty || (s.team t).colls.any fun c => !c.done

/-- Team `t` examined: XDEADLOCK (R119), else BARDEAD (R260). -/
def State.teamLocks (s : State) (t : Nat) : State :=
  let gs := (s.teamGroups t).filter fun g => !(s.group g).ended
  let ks := gs.map s.stuck
  let x := s.team t
  if gs.isEmpty || x.st != .resident || ks.contains .no || !x.seqIdle then s
  else if ks.contains .xacq && !ks.contains .arrive then s.teamFault t 0x0A 0 0
  else if s.mayArrive t then s
  else s.teamFault t 0x0C 0 0

/-- The issuing group and its team examined. -/
def State.locks (s : State) (g : Nat) : State :=
  let s1 := s.groupLocks g
  s1.teamLocks (s1.group g).team

end Sys2Proof.Machine
end

