-- ==== Sys2Proof/Machine/Barrier.lean ====
section
/-! DEFINITION. The barriers of class 6: team barriers (R257-R260), barrier objects (R263-R265) and paddock barriers (R266). -/

namespace Sys2Proof.Machine
open Sys2Proof

/-! ## Team barriers (R258) -/

/-- The groups of a team as a mask of indices. -/
def Team.groupMask (t : Team) : Word := BitVec.ofNat 32 (2 ^ t.hdr.groups - 1)

/-- The count operand of a BA word (R48). -/
def Group.cntVal (g : Group) (f : BAF) : Word :=
  match f.ck with
  | .imm => f.cnt.setWidth 32
  | .lit => f.lit.setWidth 32
  | _ => g.sreg f.cnt.toNat

/-- BINIT of a team barrier (R258): the arrivals counted so far are discarded. -/
def Bar.init (b : Bar) (memb : Word) (extra : Nat) : Bar :=
  { b with memb, extra := BitVec.ofNat 5 extra, arrv := 0, arrp := Vector.replicate 32 none, gather := [] }

/-- BINIT (R258, R261). -/
def execBinitTeam (f : BAF) (s : State) : Host.Outcome State Fault Refusal :=
  ok (s.barrierForm fun s =>
    let extra := (s.cg.cntVal f).toNat
    if extra > 31 then s.userTrap 0x08 0
    else
      let b := f.bnum.toNat
      let t := s.cg.team
      ((((s.modHb fun h => h.discard (.bar t b)).modTeam t fun x => x.setBar b ((x.bar b).init (s.cg.sreg f.sa.toNat &&& x.groupMask) extra)).checkBar t b)).advance f.y)

/-- BARRIVE (R258). -/
def execBarriveTeam (f : BAF) (s : State) : Host.Outcome State Fault Refusal :=
  ok (s.barrierForm fun s => s.whenBanked fun s =>
    let b := f.bnum.toNat
    let g := s.cg
    if (s.ct.bar b).arrived g.gidx then (s.stallAt 0 (.arrive b)).locks s.cur.g
    else (s.advance f.y).arrive g.team b g.gidx)

/-- The wait of BWAIT and BSYNC: a phase consumed, or a stall that keeps `m` (R258). -/
def State.barWait (s : State) (y : Bool) (b : Nat) (m : Word) : State :=
  let g := s.cg
  if (s.ct.bar b).passable g.gidx then
    ((s.modHb fun h => h.consume (.bar g.team b) (vecAt (s.ct.bar b).wph g.gidx 0).toNat (groupParty s.cur.g)).modCt fun t => t.consume b g.gidx).advance y
  else (s.stallAt m (.wait b)).locks s.cur.g

/-- BWAIT (R258). -/
def execBwaitTeam (f : BAF) (s : State) : Host.Outcome State Fault Refusal :=
  ok (s.barrierForm fun s => s.barWait f.y f.bnum.toNat 0)

/-- BSYNC: BARRIVE, then BWAIT; a stalled one remembers its arrival (R258). -/
def execBsyncTeam (f : BAF) (s : State) : Host.Outcome State Fault Refusal :=
  ok (s.barrierForm fun s =>
    let b := f.bnum.toNat
    let g := s.cg
    if s.cset.served != 0 then s.barWait f.y b 1
    else if s.cg.bankPending then s.stall
    else if (s.ct.bar b).arrived g.gidx then (s.stallAt 0 (.arrive b)).locks s.cur.g
    else (s.arrive g.team b g.gidx).barWait f.y b 1)

/-- BDROP (R258). -/
def execBdropTeam (f : BAF) (s : State) : Host.Outcome State Fault Refusal :=
  ok (s.barrierForm fun s => s.whenBanked fun s =>
    let g := s.cg
    (s.dropBar g.team f.bnum.toNat g.gidx).advance f.y)

/-! ## Barrier objects (R263, R264) -/

/-- The fields of an object's word. -/
def objSeq (o : DWord) : BitVec 8 := bits o 56 8
def objOwed (o : DWord) : Int := (bits o 32 22).toInt
def objExp (o : DWord) : Nat := (bits o 16 16).toNat
def objArr (o : DWord) : Nat := (bits o 0 16).toNat

/-- A word from its fields, bits [55:54] zero (R263). -/
def objWord (seq : BitVec 8) (owed : Int) (exp arr : Nat) : DWord :=
  seq ++ 0#2 ++ BitVec.ofInt 22 owed ++ BitVec.ofNat 16 exp ++ BitVec.ofNat 16 arr

/-- CheckDone (R264). -/
def objDone (o : DWord) : DWord :=
  if objArr o ≥ objExp o && objOwed o == 0 then objWord (objSeq o + 1) 0 (objExp o) 0
  else objWord (objSeq o) (objOwed o) (objExp o) (objArr o)

/-- Passed (R264). -/
def objPassed (o : DWord) (t : BitVec 8) : Bool :=
  let d := (objSeq o - t).toNat
  1 ≤ d && d ≤ 127

/-- A balance that OWED can hold. -/
def owedFits (v : Int) : Bool := -(2 ^ 21) ≤ v && v ≤ 2 ^ 21 - 1

/-- Operations on an object: the new word and the result for sD; none where R261 traps BARVAL.  A count of 0 or above 65,535 traps as an immediate
or literal too (DESIGN CHOICE, log 85). -/
def objInit (n : Nat) : Option (DWord × DWord) := if 1 ≤ n && n ≤ 65535 then some (objWord 0 0 n 0, 0) else none
def objArrive (n : Nat) (o : DWord) : Option (DWord × DWord) :=
  if objArr o + n > objExp o then none
  else some (objDone (objWord (objSeq o) (objOwed o) (objExp o) (objArr o + n)), (objSeq o).setWidth 64)
def objBytes (ar : Bool) (b : Word) (o : DWord) : Option (DWord × DWord) :=
  let owed := objOwed o + b.toInt
  let n := if ar then 1 else 0
  if b == 0x80000000#32 || !owedFits owed || (ar && objArr o + n > objExp o) then none
  else some (objDone (objWord (objSeq o) owed (objExp o) (objArr o + n)), (objSeq o).setWidth 64)
/-- BDROP of an object; one whose EXP is 0 already traps BARVAL too (R261; DESIGN CHOICE, log 85). -/
def objDrop (o : DWord) : Option (DWord × DWord) :=
  if objExp o ≤ 1 then none else some (objDone (objWord (objSeq o) (objOwed o) (objExp o - 1) (objArr o)), 0)

/-- The space that FN[11:10] names. -/
def objSpace (f : BAF) : Space :=
  match (bits f.fn 0 2).toNat with
  | 0 => .loc | 1 => .nbr | _ => .pool

/-- The place of the eight bytes of an object (R264): a team and an offset in its scratchpad.  For a team that belongs to no paddock, every offset of
POOL lies outside its window (R261; DESIGN CHOICE, log 85). -/
def State.objPlace (s : State) (t : Nat) (sp : Space) (o : Nat) : Option (Nat × Nat) :=
  let r := match sp with
    | .nbr => if o < 2 ^ 23 then s.padPlace t .nbr (o / 2 ^ 20) (o % 2 ^ 20) else none
    | sp => s.padPlace t sp 0 o
  if o % 8 == 0 then r else none

/-- The word of an object. -/
def State.objAt (s : State) (u o : Nat) : DWord := BitVec.ofNat 64 (s.padNat u o 8)
def State.setObj (s : State) (u o : Nat) (w : DWord) : State := s.padWrite u o 8 w.toNat

/-- The phase of an object whose word was `w` is complete, if its number has gone up (R262, R264). -/
def State.objPhase (s : State) (u o : Nat) (w : DWord) : State :=
  if objSeq (s.objAt u o) == objSeq w then s else s.modHb fun h => h.phase (.obj u o) (objSeq w).toNat

/-- What an object form of the issuing group orders (R262): an arrival, a BTEST that delivers 1 and a BINIT, then the end of the phase. -/
inductive ObjEdge where
  | none | arrive | test (n : Nat) | init

def State.objEdge (s : State) (u o : Nat) : ObjEdge → State
  | .none => s
  | .arrive => s.modHb fun h => h.arrive (.obj u o) (groupParty s.cur.g) s.cg.issueNo
  | .test n => s.modHb fun h => h.consume (.obj u o) n (groupParty s.cur.g)
  | .init => s.modHb fun h => h.renew (.obj u o)

/-- One arrival on an object by a command or a collective (R369, R375). -/
def State.objArriveOne (s : State) (t : Nat) (o : Space × Nat) : State :=
  match s.objPlace t o.1 o.2 with
  | none => s
  | some (u, k) =>
    let w := s.objAt u k
    (s.setObj u k (objDone (objWord (objSeq w) (objOwed w) (objExp w) (objArr w + 1)))).objPhase u k w

/-- The BOUNDS fault of an object form, for the whole split (R261); the element number of its record is not stated (log 4). -/
def State.objFault (s : State) (o : Nat) : State :=
  let k := Config.undef s.tick 0
  s.laneFaults ((lanesOf s.cset.lanes).map fun L =>
    { lane := L, code := 0x14, elem := k, va := BitVec.ofNat 64 o, info := k, flags := 1 }) id

/-- An object form that changes the word: one atomic event, with its result to sD when TK is set (R264). -/
def objForm (op : Word → DWord → Option (DWord × DWord)) (edge : Word → DWord → ObjEdge) (f : BAF) (s : State) : State :=
  s.unlessAhead fun s =>
    let g := s.cg
    let o := (g.sreg f.sa.toNat).toNat
    match s.objPlace g.team (objSpace f) o with
    | none => s.objFault o
    | some (u, k) =>
      match op (g.cntVal f) (s.objAt u k) with
      | none => s.userTrap 0x08 0
      | some (w, r) =>
        (((s.objEdge u k (edge (g.cntVal f) r)).setObj u k w).objPhase u k (s.objAt u k)).issue f.y fun y =>
          if bit f.fn 2 then y.send false [.s f.dst.toNat (r.setWidth 32) ones32] [] else y

/-- BINIT of an object (R264). -/
def execBinitObject (f : BAF) (s : State) : Host.Outcome State Fault Refusal := ok (objForm (fun n _ => objInit n.toNat) (fun _ _ => .init) f s)
/-- BARRIVE of an object (R264). -/
def execBarriveObject (f : BAF) (s : State) : Host.Outcome State Fault Refusal := ok (objForm (fun n o => objArrive n.toNat o) (fun _ _ => .arrive) f s)
/-- BBYTES (R264). -/
def execBbytes (f : BAF) (s : State) : Host.Outcome State Fault Refusal := ok (objForm (objBytes (bit f.fn 3)) (fun _ _ => if bit f.fn 3 then .arrive else .none) f s)
/-- BTEST (R264): its event changes nothing. -/
def execBtest (f : BAF) (s : State) : Host.Outcome State Fault Refusal :=
  ok (objForm (fun t o => some (o, if objPassed o (t.setWidth 8) then 1 else 0))
    (fun t r => if r == 1 then .test (t.toNat % 256) else .none) f s)
/-- BDROP of an object (R264). -/
def execBdropObject (f : BAF) (s : State) : Host.Outcome State Fault Refusal := ok (objForm (fun _ o => objDrop o) (fun _ _ => .arrive) f s)

/-- BWAIT of an object (R264): a stall until the token's phase has passed. -/
def execBwaitObject (f : BAF) (s : State) : Host.Outcome State Fault Refusal :=
  ok (s.unlessAhead fun s =>
    let g := s.cg
    let o := (g.sreg f.sa.toNat).toNat
    match s.objPlace g.team (objSpace f) o with
    | none => s.objFault o
    | some (u, k) =>
      if objPassed (s.objAt u k) ((g.cntVal f).setWidth 8) then (s.objEdge u k (.test ((g.cntVal f).toNat % 256))).advance f.y else s.stall)

/-! ## Paddock barriers (R266) -/

/-- A paddock form: no run-ahead, the whole group; without a paddock it traps SCOPEVIOL (R261, R266). -/
def State.paddockForm (s : State) (k : Nat → State → State) : State :=
  s.barrierForm fun s =>
    match s.ct.paddock with
    | none => s.userTrap 0x05 0x02
    | some p => k p s

def State.pbar (s : State) (p b : Nat) : PBar := vecAt (s.paddock p).bars b {}

/-- Group `g` has arrived in the current phase. -/
def PBar.arrived (x : PBar) (g : Nat) : Bool := x.arrp.any fun e => e.1 == g && e.2 == x.ph

/-- A phase that group `g` has not waited past is complete. -/
def PBar.passable (x : PBar) (g : Nat) : Bool := (x.ph - lookupD x.wph g 0).toNat ≥ 1

/-- BARRIVE.pd: one arrival of a group in each phase. -/
def execBarrivePaddock (f : BAF) (s : State) : Host.Outcome State Fault Refusal :=
  ok (s.paddockForm fun p s =>
    let b := f.bnum.toNat
    if (s.pbar p b).arrived s.cur.g then s.stall
    else (s.advance f.y).arrivePaddock p b s.cur.g)

/-- The wait of BWAIT.pd and BSYNC.pd. -/
def State.padWait (s : State) (y : Bool) (p b : Nat) (m : Word) : State :=
  let g := s.cur.g
  if (s.pbar p b).passable g then
    ((s.modPBar p b fun x => { x with wph := insertK x.wph g (lookupD x.wph g 0 + 1) }).modHb fun h =>
      h.consume (.pad p b) (lookupD (s.pbar p b).wph g 0).toNat (groupParty g)).advance y
  else s.stallWith m

/-- BWAIT.pd. -/
def execBwaitPaddock (f : BAF) (s : State) : Host.Outcome State Fault Refusal :=
  ok (s.paddockForm fun p s => s.padWait f.y p f.bnum.toNat 0)

/-- BSYNC.pd: the arrival, then the wait. -/
def execBsyncPaddock (f : BAF) (s : State) : Host.Outcome State Fault Refusal :=
  ok (s.paddockForm fun p s =>
    let b := f.bnum.toNat
    if s.cset.served != 0 then s.padWait f.y p b 1
    else if (s.pbar p b).arrived s.cur.g then s.stall
    else (s.arrivePaddock p b s.cur.g).padWait f.y p b 1)

/-- Both halves' local phases are exchanged, and the phase completes (R266). -/
def execPaddockCrossDiePhase (pd b : Nat) (s : State) : Host.Outcome State Fault Refusal :=
  let x := s.pbar pd b
  ok (if x.local0 && x.local1 then s.nextPad pd b else s)

end Sys2Proof.Machine
end

