-- ==== Sys2Proof/Machine/Float.lean ====
section
/-! DEFINITION. Class 2: float arithmetic, comparison, conversion, special functions and reductions (R167-R183). -/

namespace Sys2Proof.Machine
open Sys2Proof

/-! ## Elements (R94, R95, R170-R174) -/

/-- No format register: the types of class 2 beside CVT and PRES are not narrow. -/
abbrev noNf : BitVec 3 → Word := fun _ => 0

/-- The format of a float type. -/
def fltOf (t : Ty) : FFmt :=
  match t with
  | .f64 => .f64 | .f16 => .f16 | .bf16 => .bf16 | _ => .f32

/-- The absent code of a float type. -/
def fltAbsent (t : Ty) : Nat := 2 ^ (fltOf t).w - 1

/-- One element: absence first (R94), or what the operation makes of its operands, absent ones only under K (R95). -/
def fltElem (t : Ty) (k : Bool) (op : List (Option Xv) → Nat × Fl) (codes : List Nat) : Nat × Fl :=
  let vs := codes.map (codingOf noNf t).read
  if (!k && vs.any (·.isNone)) || vs.all (·.isNone) then (fltAbsent t, 0) else op vs

/-- A value with the flags that led to it, rounded once (R104). -/
def roundFl (t : Ty) (rnd : Rnd) (x : Xv × Fl) : Nat × Fl :=
  let r := (fltOf t).round rnd x.1
  (r.1, r.2 ||| x.2)

/-- The sum of the terms that are there (R170): −0 when none remains; `fl` came with their products. -/
def sumTerms (t : Ty) (rnd : Rnd) (fl : Fl) (xs : List Xv) : Nat × Fl :=
  match xs with
  | [] => ((fltOf t).pack true 0, 0)
  | _ => let s := sumX rnd xs; roundFl t rnd (s.1, s.2 ||| fl)

/-- The operations of R170. -/
def fopAdd (t : Ty) (rnd : Rnd) : List (Option Xv) → Nat × Fl
  | [a, b] => sumTerms t rnd 0 ([a, b].filterMap id)
  | _ => (0, 0)
def fopSub (t : Ty) (rnd : Rnd) : List (Option Xv) → Nat × Fl
  | [a, b] => sumTerms t rnd 0 ([a, b.map Xv.neg].filterMap id)
  | _ => (0, 0)
def fopMul (t : Ty) (rnd : Rnd) : List (Option Xv) → Nat × Fl
  | [some a, some b] => roundFl t rnd (a.mul b)
  | [some a, none] => roundFl t rnd (a, 0)
  | [none, some b] => roundFl t rnd (b, 0)
  | _ => (0, 0)
/-- ±a·b ± c. -/
def fopFma (t : Ty) (rnd : Rnd) (negP negC : Bool) : List (Option Xv) → Nat × Fl
  | [some a, some b, c] =>
    let p := a.mul b
    let c' := if negC then c.map Xv.neg else c
    sumTerms t rnd p.2 ((if negP then p.1.neg else p.1) :: c'.toList)
  | [_, _, c] => sumTerms t rnd 0 (if negC then c.map Xv.neg else c).toList
  | _ => (0, 0)
def fopDiv (t : Ty) (rnd : Rnd) : List (Option Xv) → Nat × Fl
  | [some a, some b] => roundFl t rnd (a.div b)
  | _ => (0, 0)
def fopSqrt (t : Ty) (rnd : Rnd) : List (Option Xv) → Nat × Fl
  | [some a] => roundFl t rnd a.sqrt
  | _ => (0, 0)
def fopRint (t : Ty) (rnd : Rnd) : List (Option Xv) → Nat × Fl
  | [some a] => let r := a.rint rnd; (((fltOf t).round rnd r.1).1, r.2)
  | _ => (0, 0)
/-- MIN and MAX (R173): under K the operand that is there. -/
def fopMinmax (t : Ty) (mx : Bool) : List (Option Xv) → Nat × Fl
  | [some a, some b] => roundFl t .rne (a.minmax mx b)
  | [some a, none] => roundFl t .rne (a, 0)
  | [none, some b] => roundFl t .rne (b, 0)
  | _ => (0, 0)

/-- ABS, NEG and CPYS (R174): the sign bit of `a` from a function of the signs; no flag. -/
def signElem (t : Ty) (sign : List Bool → Bool) (codes : List Nat) : Nat × Fl :=
  let F := fltOf t
  if codes.any (· == fltAbsent t) then (fltAbsent t, 0)
  else
    let a := codes.headD 0
    if (F.value a).isNan then (F.canon, 0)
    else (F.pack (sign (codes.map fun c => c / 2 ^ F.magW % 2 == 1)) (a % 2 ^ F.magW), 0)

/-- CMP (R175): whether the condition holds, and the flag. -/
def fcmpElem (t : Ty) (cc : Nat) (a b : Nat) : Bool × Fl :=
  match (codingOf noNf t).read a, (codingOf noNf t).read b with
  | some x, some y =>
    let un := x.isNan || y.isNan
    let sig := x.isSig || y.isSig
    let quietFaults := cc ≥ 2 && cc ≤ 5
    let holds := if un then cc == 1 || cc == 6
      else match cc with
        | 0 => x.cmp y == .eq
        | 1 => x.cmp y != .eq
        | 2 => x.cmp y == .lt
        | 3 => x.cmp y != .gt
        | 4 => x.cmp y == .gt
        | 5 => x.cmp y != .lt
        | 7 => true
        | _ => false
    (holds, if sig || (un && quietFaults) then Fl.iv else 0)
  | _, _ => (false, 0)

/-- FCLS (R176). -/
def fclsElem (t : Ty) (set : BitVec 7) (code : Nat) : Bool :=
  let F := fltOf t
  if code == fltAbsent t then false
  else
    let neg := code / 2 ^ F.magW % 2 == 1
    let mag := code % 2 ^ F.magW
    let kind := match F.value code with
      | .nan _ => bit set 6
      | .inf _ => bit set 5
      | _ => if mag == 0 then bit set 2 else if mag < 2 ^ F.mb then bit set 3 else bit set 4
    kind && (if neg then bit set 1 else bit set 0)

/-! ## Special functions (R179, R180; log 10) -/

/-- RCP, RSQRT, EXP2, LOG2, SINPI, COSPI, TANH, SIGM, numbered by minor from 0x13. -/
inductive SFn where
  | rcp | rsqrt | exp2 | log2 | sinpi | cospi | tanh | sigm
deriving DecidableEq, Repr

def SFn.num : SFn → Nat
  | .rcp => 0 | .rsqrt => 1 | .exp2 => 2 | .log2 => 3 | .sinpi => 4 | .cospi => 5 | .tanh => 6 | .sigm => 7

/-- Reference values are counts of 2^-224, in which every F32 number is exact. -/
abbrev fixP : Nat := 224

/-- ±m·2^e as a count of 2^-224. -/
def fixOf (neg : Bool) (m : Nat) (e : Int) : Int :=
  let v : Nat := if e + fixP ≥ 0 then m * 2 ^ (e + fixP).toNat else m / 2 ^ (-(e + fixP)).toNat
  if neg then -(v : Int) else v

/-- Terms of a series: each from the one before and its number. -/
def seriesSum (next : Nat → Int → Int) : Nat → Nat → Int → Int
  | 0, _, _ => 0
  | n + 1, k, t => t + seriesSum next n (k + 1) (next k t)

/-- ln 2 = Σ 1 / (k·2ᵏ). -/
def fixLn2 : Int :=
  ((List.range 224).foldl (fun (acc i : Nat) => acc + 2 ^ fixP / ((i + 1) * 2 ^ (i + 1))) 0 : Nat)

/-- atan (1/q) = Σ (−1)ᵏ / ((2k+1)·q^(2k+1)). -/
def fixAtanInv (q n : Nat) : Int :=
  (List.range n).foldl (fun (acc : Int) (k : Nat) =>
    let v : Nat := 2 ^ fixP / ((2 * k + 1) * q ^ (2 * k + 1))
    if k % 2 == 0 then acc + v else acc - v) 0

/-- π = 16·atan (1/5) − 4·atan (1/239). -/
def fixPi : Int := 16 * fixAtanInv 5 50 - 4 * fixAtanInv 239 16

/-- e^z for 0 ≤ z < 1. -/
def fixExp (z : Int) : Int := seriesSum (fun k t => t * z / 2 ^ fixP / ((k : Int) + 1)) 50 0 (2 ^ fixP)

/-- 2^x. -/
def fixExp2 (x : Int) : Int :=
  let n : Int := x / 2 ^ fixP
  let f := fixExp (x % 2 ^ fixP * fixLn2 / 2 ^ fixP)
  if n ≥ 0 then f * 2 ^ n.toNat else f / 2 ^ (-n).toNat

/-- ln (m / 2^b) for 2^b ≤ m < 2^(b+1): 2·atanh ((m − 2^b) / (m + 2^b)). -/
def fixLn (m b : Nat) : Int :=
  let t : Int := ((m : Int) - 2 ^ b) * 2 ^ fixP / ((m : Int) + 2 ^ b)
  let t2 := t * t / 2 ^ fixP
  2 * ((List.range 75).foldl (fun (a : Int × Int) k => (a.1 + a.2 / (2 * (k : Int) + 1), a.2 * t2 / 2 ^ fixP)) (0, t)).1

/-- sin (π·r) for 0 ≤ r ≤ 1/2. -/
def fixSinQ (r : Int) : Int :=
  let z := r * fixPi / 2 ^ fixP
  let z2 := z * z / 2 ^ fixP
  seriesSum (fun k t => -(t * z2 / 2 ^ fixP / ((2 * (k : Int) + 2) * (2 * (k : Int) + 3)))) 32 0 z

/-- sin (π·x). -/
def fixSinpi (x : Int) : Int :=
  let one : Int := 2 ^ fixP
  let r := x % (2 * one)
  let q := if r < one then r else r - one
  let s := fixSinQ (if 2 * q ≤ one then q else one - q)
  if r < one then s else -s

/-- e^y for y ≥ 0, at most e^200. -/
def fixExpBig (y : Int) : Int := fixExp2 (min y (200 * 2 ^ fixP) * 2 ^ fixP / fixLn2)

/-- The value of a function at a present finite x = ±m·2^e ≠ 0, within 2^-64 of the bounds of R179 (log 10). -/
def SFn.ref (fn : SFn) (neg : Bool) (m : Nat) (e : Int) : Int :=
  let one : Int := 2 ^ fixP
  let x := fixOf neg m e
  match fn with
  | .rcp =>
    let v : Nat := if (fixP : Int) - e ≥ 0 then 2 ^ ((fixP : Int) - e).toNat / m else 0
    if neg then -(v : Int) else v
  | .rsqrt => (isqrt (2 ^ ((2 * fixP : Int) - e).toNat / m) : Int)
  | .exp2 => fixExp2 x
  | .log2 => (e + m.log2) * one + fixLn m m.log2 * one / fixLn2
  | .sinpi => fixSinpi x
  | .cospi => fixSinpi (x + one / 2)
  | .tanh =>
    let E := fixExpBig (2 * x.natAbs)
    let v := (E - one) * one / (E + one)
    if neg then -v else v
  | .sigm =>
    let E := fixExpBig x.natAbs
    if neg then one * one / (E + one) else E * one / (E + one)

/-- One unit in the last place of a result of format `F` (its binade's step). -/
def fixUlpOf (F : FFmt) (v : Int) : Int := 2 ^ (max v.natAbs.log2 ((fixP : Int) + 1 - F.bias).toNat - F.mb)

/-- One unit in the last place of an F32 result. -/
def fixUlp (v : Int) : Int := fixUlpOf .f32 v

/-- The bound of R179. -/
def SFn.bound (fn : SFn) (neg : Bool) (m : Nat) (e : Int) (v : Int) : Int :=
  match fn with
  | .rcp | .rsqrt => fixUlp v
  | .exp2 => 2 * fixUlp v
  | .log2 =>
    let x := fixOf neg m e
    if (2 ^ fixP : Int) ≤ 2 * x && x ≤ 2 * 2 ^ fixP then 2 ^ (fixP - 22) else 2 * fixUlp v
  | .sinpi | .cospi => 2 ^ (fixP - 22)
  | .tanh | .sigm => max (2 * fixUlp v) (2 ^ (fixP - 24))

/-- The bound of R179 for a 16-bit result of format `F`. -/
def SFn.bound16 (fn : SFn) (F : FFmt) (neg : Bool) (m : Nat) (e : Int) (v : Int) : Int :=
  match fn with
  | .log2 =>
    let x := fixOf neg m e
    if (2 ^ fixP : Int) ≤ 2 * x && x ≤ 2 * 2 ^ fixP then 2 ^ (fixP - 10) else fixUlpOf F v
  | .sinpi | .cospi => 2 ^ (fixP - 10)
  | _ => fixUlpOf F v

/-- F32 result `y` keeps the 16-bit column of R179 for format `F`: the input is no number of the format, or `y` rounds as the nearest
result `near` does, or to a number within the bound. -/
def SFn.keeps16 (fn : SFn) (F : FFmt) (code near y : Nat) (neg : Bool) (m : Nat) (e : Int) (v : Int) : Bool :=
  let down (c : Nat) : Nat := (F.round .rne (FFmt.f32.value c)).1
  (FFmt.f32.round .rne (F.value (down code))).1 != code || down y == down near ||
    match F.value (down y) with
    | .fin n m' e' _ => ((fixOf n m' e') - v).natAbs ≤ (fn.bound16 F neg m e v).natAbs
    | _ => false

/-- The delivered bits outside the exact and domain cases: the free value where it keeps the bounds of both columns, else the nearest
F32 number (log 10). -/
def SFn.free (fn : SFn) (code : Nat) (neg : Bool) (m : Nat) (e : Int) : Nat :=
  let v := fn.ref neg m e
  let y := (Config.special fn.num (BitVec.ofNat 32 code)).toNat
  let near := (FFmt.f32.round .rne (.fin (v < 0) v.natAbs (-(fixP : Int)) true)).1
  match FFmt.f32.value y with
  | .fin n m' e' _ =>
    if ((fixOf n m' e') - v).natAbs ≤ (fn.bound neg m e v).natAbs && fn.keeps16 .f16 code near y neg m e v &&
      fn.keeps16 .bf16 code near y neg m e v then y else near
  | _ => near

/-- ±2^k as an F32 code. -/
def f32Pow (neg : Bool) (k : Int) : Nat := (FFmt.f32.round .rne (.fin neg 1 k false)).1

/-- The exact cases of R180 at a finite x ≠ 0, and the domain cases with their flags.  An EXP2 result counts as below the format from x = −150 on;
between −150 and −149 it is a value within the bound like others (DESIGN CHOICE, log 96). -/
def SFn.exact (fn : SFn) (neg : Bool) (m : Nat) (e : Int) : Option (Nat × Fl) :=
  let k : Int := e + m.log2
  let pow := m == 2 ^ m.log2
  let x := fixOf neg m e
  let one : Int := 2 ^ fixP
  let isInt := x % one == 0
  let isHalf := x % (one / 2) == 0
  let odd := x / one % 2 == 1
  match fn with
  | .rcp =>
    if k < -128 || (k == -128 && pow) then some (FFmt.f32.pack neg FFmt.f32.infMag, Fl.ovf ||| Fl.nx)
    else if pow && -k ≥ -126 then some (f32Pow neg (-k), 0) else none
  | .rsqrt =>
    if neg then some (FFmt.f32.canon, Fl.iv)
    else if pow && k % 2 == 0 then some (f32Pow false (-(k / 2)), 0) else none
  | .exp2 =>
    if x ≥ 128 * one then some (FFmt.f32.infMag, Fl.ovf ||| Fl.nx)
    else if x ≤ -150 * one then some (0, Fl.udf ||| Fl.nx)
    else if isInt then some (f32Pow false (x / one), 0) else none
  | .log2 =>
    if neg then some (FFmt.f32.canon, Fl.iv)
    else if pow then some ((FFmt.f32.round .rne (Xv.ofInt k)).1, 0) else none
  | .sinpi =>
    if isInt then some (FFmt.f32.pack neg 0, 0) else if isHalf then some (f32Pow odd 0, 0) else none
  | .cospi => if isInt then some (f32Pow odd 0, 0) else if isHalf then some (0, 0) else none
  | .tanh | .sigm => none

/-- The results at ±0 (R180). -/
def SFn.atZero (fn : SFn) (neg : Bool) : Nat × Fl :=
  match fn with
  | .rcp | .rsqrt => (FFmt.f32.pack neg FFmt.f32.infMag, Fl.dz)
  | .exp2 | .cospi => (f32Pow false 0, 0)
  | .log2 => (FFmt.f32.pack true FFmt.f32.infMag, Fl.dz)
  | .sinpi | .tanh => (FFmt.f32.pack neg 0, 0)
  | .sigm => (f32Pow false (-1), 0)

/-- The results at ±∞ (R180). -/
def SFn.atInf (fn : SFn) (neg : Bool) : Nat × Fl :=
  match fn with
  | .rcp => (FFmt.f32.pack neg 0, 0)
  | .rsqrt => if neg then (FFmt.f32.canon, Fl.iv) else (0, 0)
  | .exp2 => (if neg then 0 else FFmt.f32.infMag, 0)
  | .log2 => if neg then (FFmt.f32.canon, Fl.iv) else (FFmt.f32.infMag, 0)
  | .sinpi | .cospi => (FFmt.f32.canon, Fl.iv)
  | .tanh => (f32Pow neg 0, 0)
  | .sigm => (if neg then 0 else f32Pow false 0, 0)

/-- A special function of an F32 code that is no NaN (R179, R180). -/
def SFn.f32 (fn : SFn) (code : Nat) : Nat × Fl :=
  match FFmt.f32.value code with
  | .nan _ => (FFmt.f32.canon, 0)
  | .inf neg => fn.atInf neg
  | .fin neg m e _ =>
    if m == 0 then fn.atZero neg
    else match fn.exact neg m e with
      | some r => r
      | none =>
        let y := fn.free code neg m e
        (y, Fl.nx ||| (if y % 2 ^ 31 < 2 ^ 23 then Fl.udf else 0))

/-- One element of a special function: a 16-bit input is widened, and the F32 result rounded, RNE (R179). -/
def fopSpecial (t : Ty) (fn : SFn) : List (Option Xv) → Nat × Fl
  | [some (.nan sig)] => ((fltOf t).canon, if sig then Fl.iv else 0)
  | [some x] =>
    let r := fn.f32 (FFmt.f32.round .rne x).1
    if t == .f32 then r else roundFl t .rne (FFmt.f32.value r.1, r.2)
  | _ => (0, 0)

/-! ## Reductions (R106, R181, R182) -/

/-- One level of the tree: pairs combined, an empty child passing the other up. -/
def treeLevel (comb : Nat → Nat → Nat × Fl) : List (Option Nat) → List (Option Nat) × List Fl
  | a :: b :: rest =>
    let r := treeLevel comb rest
    match a, b with
    | some x, some y => (some (comb x y).1 :: r.1, (comb x y).2 :: r.2)
    | none, y => (y :: r.1, r.2)
    | x, none => (x :: r.1, r.2)
  | l => (l, [])

/-- The five levels over 32 leaves: the root and the flags of the nodes. -/
def treeReduce (comb : Nat → Nat → Nat × Fl) (n : Nat) (leaves : List (Option Nat)) : Option Nat × List Fl :=
  match n with
  | 0 => (leaves.headD none, [])
  | n + 1 =>
    let r := treeLevel comb leaves
    let q := treeReduce comb n r.1
    (q.1, r.2 ++ q.2)

/-- The leaves of position `j`: present elements of active lanes. -/
def leavesOf (t : Ty) (act : Word) (val : Nat → Nat) (j : Nat) : List (Option Nat) :=
  (List.range 32).map fun L =>
    let c := elemGet noNf t (val L) j
    if bit act L && ((codingOf noNf t).read c).isSome then some c else none

/-- Two present codes combined at a node. -/
def nodeOf (t : Ty) (op : List (Option Xv) → Nat × Fl) (a b : Nat) : Nat × Fl :=
  op [some ((codingOf noNf t).value a), some ((codingOf noNf t).value b)]

/-! ## The shapes of class 2 words -/

/-- Lane results written with their flags (R108, R123). -/
def fltState (f : VF) (n : Nat) (val : Nat → Nat) (bm : Nat) (fls : List Fl) (s : State) : State :=
  let act := s.act f.msk
  ((s.modCg fun g => g.put f.t (vWrites f.dst.toNat n val act bm)).raiseFl s.cur.g fls).advance f.y

/-- Packed over the elements of each active lane. -/
def fltPacked (f : VF) (srcs : Group → Nat → List Nat) (h : List Nat → Nat × Fl) (s : State) : State :=
  let g := s.cg
  let rs (L : Nat) : List (Nat × Fl) := (List.range (elemsOf noNf f.ty)).map fun j =>
    h ((srcs g L).map fun v => elemGet noNf f.ty v j)
  fltState f f.ty.regs (fun L => elemPack noNf f.ty ((rs L).map (·.1))) (fullBits f.ty.regs)
    ((lanesOf (s.act f.msk)).flatMap fun L => (rs L).map (·.2)) s

/-- d, a, b in DST, SA, SC. -/
def fltBin (f : VF) (h : List Nat → Nat × Fl) (s : State) : State :=
  fltPacked f (fun g L => [g.srcA false f f.ty L, g.srcC false f f.ty L]) h s
/-- d, a in DST, SC. -/
def fltUn (f : VF) (h : List Nat → Nat × Fl) (s : State) : State :=
  fltPacked f (fun g L => [g.srcC false f f.ty L]) h s
/-- d, a, b, c in DST, SA, SB, SC. -/
def fltTri (f : VF) (h : List Nat → Nat × Fl) (s : State) : State :=
  fltPacked f (fun g L => [g.srcA false f f.ty L, g.srcB false f f.ty L, g.srcC false f f.ty L]) h s

/-- A bit of mask mD for each active lane, with its flag. -/
def fltMask (f : VF) (h : Group → Nat → Bool × Fl) (s : State) : State :=
  let g := s.cg
  let act := s.act f.msk
  ((s.modCg fun g => g.put f.t [.m f.dst.toNat (maskOf fun L => (h g L).1) act]).raiseFl s.cur.g
    ((lanesOf act).map fun L => (h g L).2)).advance f.y

/-- The sub-element that X selects (R167). -/
def selX (f : VF) : Nat := if f.x then 1 else 0

/-- A reduction by the tree, its result in every active lane (R181).  Each node that raises a flag counts as one element for the exception
counters (R111; DESIGN CHOICE, log 94). -/
def fltTree (f : VF) (op : List (Option Xv) → Nat × Fl) (s : State) : State :=
  let g := s.cg
  let act := s.act f.msk
  let rs := (List.range (elemsOf noNf f.ty)).map fun j =>
    treeReduce (nodeOf f.ty op) 5 (leavesOf f.ty act (g.srcA false f f.ty) j)
  let d := elemPack noNf f.ty (rs.map fun r => r.1.getD (fltAbsent f.ty))
  if act == 0 then s.advance f.y else fltState f f.ty.regs (fun _ => d) (fullBits f.ty.regs) (rs.flatMap (·.2)) s

/-- The type RCNT counts in (R182). -/
def rcntTy (t : Ty) : Ty := if (codingOf noNf t).w == 16 then .n16 else .n32

/-- RCNT (R182). -/
def fltRcnt (f : VF) (s : State) : State :=
  let g := s.cg
  let act := s.act f.msk
  let n := if rcntTy f.ty == .n16 then 2 else 1
  let d := elemPack noNf (rcntTy f.ty) ((List.range n).map fun j =>
    (leavesOf f.ty act (g.srcA false f f.ty) j).countP (·.isSome))
  fltState f 1 (fun _ => d) (fullBits 1) [] s

/-- CVT (R178): u in SC[4:0], the source from sub-element SB on. -/
def fltCvt (f : VF) (s : State) : State :=
  let g := s.cg
  let u := (tyOfCode (f.sc.setWidth 5)).getD .f32
  let t := f.ty
  let js := (List.range (elemsOf g.nf t)).filter fun j => f.sb.toNat + j < elemsOf g.nf u
  let one (L j : Nat) : Nat × Fl :=
    match (codingOf g.nf u).read (elemGet g.nf u (g.srcA false f u L) (f.sb.toNat + j)) with
    | none => ((codingOf g.nf t).absent.getD 0, 0)
    | some x => (codingOf g.nf t).round f.rnd (Ty.isInt u) x
  let wt := contW g.nf t
  fltState f t.regs (fun L => js.foldl (fun acc j => acc + (one L j).1 * 2 ^ (j * wt)) 0)
    (js.foldl (fun acc j => acc + (2 ^ wt - 1) * 2 ^ (j * wt)) 0)
    ((lanesOf (s.act f.msk)).flatMap fun L => js.map fun j => (one L j).2) s

/-! ## The instructions -/

/-- ADD (R170). -/
def execAddFloat (f : VF) (s : State) : Host.Outcome State Fault Refusal :=
  ok (fltBin f (fltElem f.ty f.k (fopAdd f.ty f.rnd)) s)
/-- SUB (R170). -/
def execSubFloat (f : VF) (s : State) : Host.Outcome State Fault Refusal :=
  ok (fltBin f (fltElem f.ty f.k (fopSub f.ty f.rnd)) s)
/-- MUL (R170). -/
def execMulFloat (f : VF) (s : State) : Host.Outcome State Fault Refusal :=
  ok (fltBin f (fltElem f.ty f.k (fopMul f.ty f.rnd)) s)
/-- FMA (R170). -/
def execFma (f : VF) (s : State) : Host.Outcome State Fault Refusal :=
  ok (fltTri f (fltElem f.ty f.k (fopFma f.ty f.rnd false false)) s)
/-- FMS (R170). -/
def execFms (f : VF) (s : State) : Host.Outcome State Fault Refusal :=
  ok (fltTri f (fltElem f.ty f.k (fopFma f.ty f.rnd false true)) s)
/-- FNMA (R170). -/
def execFnma (f : VF) (s : State) : Host.Outcome State Fault Refusal :=
  ok (fltTri f (fltElem f.ty f.k (fopFma f.ty f.rnd true false)) s)
/-- DIV (R171). -/
def execDivFloat (f : VF) (s : State) : Host.Outcome State Fault Refusal :=
  ok (fltBin f (fltElem f.ty false (fopDiv f.ty f.rnd)) s)
/-- SQRT (R171). -/
def execSqrt (f : VF) (s : State) : Host.Outcome State Fault Refusal :=
  ok (fltUn f (fltElem f.ty false (fopSqrt f.ty f.rnd)) s)
/-- MIN (R173). -/
def execMinFloat (f : VF) (s : State) : Host.Outcome State Fault Refusal :=
  ok (fltBin f (fltElem f.ty f.k (fopMinmax f.ty false)) s)
/-- MAX (R173). -/
def execMaxFloat (f : VF) (s : State) : Host.Outcome State Fault Refusal :=
  ok (fltBin f (fltElem f.ty f.k (fopMinmax f.ty true)) s)
/-- ABS (R174). -/
def execAbsFloat (f : VF) (s : State) : Host.Outcome State Fault Refusal :=
  ok (fltUn f (signElem f.ty fun _ => false) s)
/-- NEG (R174). -/
def execNegFloat (f : VF) (s : State) : Host.Outcome State Fault Refusal :=
  ok (fltUn f (signElem f.ty fun l => !l.headD false) s)
/-- CPYS (R174). -/
def execCpys (f : VF) (s : State) : Host.Outcome State Fault Refusal :=
  ok (fltBin f (signElem f.ty fun l => l.getD 1 false) s)
/-- CMP (R175). -/
def execCmpFloat (f : VF) (s : State) : Host.Outcome State Fault Refusal :=
  ok (fltMask f (fun g L => fcmpElem f.ty f.sb.toNat (elemGet noNf f.ty (g.srcA false f f.ty L) (selX f))
    (elemGet noNf f.ty (g.srcC false f f.ty L) (selX f))) s)
/-- FCLS (R176). -/
def execFcls (f : VF) (s : State) : Host.Outcome State Fault Refusal :=
  ok (fltMask f (fun g L => (fclsElem f.ty f.sb (elemGet noNf f.ty (g.srcA false f f.ty L) (selX f)), 0)) s)
/-- PRES (R177). -/
def execPres (f : VF) (s : State) : Host.Outcome State Fault Refusal :=
  ok (fltMask f (fun g L =>
    (((codingOf g.nf f.ty).read (elemGet g.nf f.ty (g.srcA false f f.ty L) f.sb.toNat)).isSome, 0)) s)
/-- CVT (R178). -/
def execCvt (f : VF) (s : State) : Host.Outcome State Fault Refusal :=
  ok (fltCvt f s)
/-- RINT (R172). -/
def execRint (f : VF) (s : State) : Host.Outcome State Fault Refusal :=
  ok (fltUn f (fltElem f.ty false (fopRint f.ty f.rnd)) s)
/-- RCP (R179, R180). -/
def execRcp (f : VF) (s : State) : Host.Outcome State Fault Refusal :=
  ok (fltUn f (fltElem f.ty false (fopSpecial f.ty .rcp)) s)
/-- RSQRT (R179, R180). -/
def execRsqrt (f : VF) (s : State) : Host.Outcome State Fault Refusal :=
  ok (fltUn f (fltElem f.ty false (fopSpecial f.ty .rsqrt)) s)
/-- EXP2 (R179, R180). -/
def execExp2 (f : VF) (s : State) : Host.Outcome State Fault Refusal :=
  ok (fltUn f (fltElem f.ty false (fopSpecial f.ty .exp2)) s)
/-- LOG2 (R179, R180). -/
def execLog2 (f : VF) (s : State) : Host.Outcome State Fault Refusal :=
  ok (fltUn f (fltElem f.ty false (fopSpecial f.ty .log2)) s)
/-- SINPI (R179, R180). -/
def execSinpi (f : VF) (s : State) : Host.Outcome State Fault Refusal :=
  ok (fltUn f (fltElem f.ty false (fopSpecial f.ty .sinpi)) s)
/-- COSPI (R179, R180). -/
def execCospi (f : VF) (s : State) : Host.Outcome State Fault Refusal :=
  ok (fltUn f (fltElem f.ty false (fopSpecial f.ty .cospi)) s)
/-- TANH (R179, R180). -/
def execTanh (f : VF) (s : State) : Host.Outcome State Fault Refusal :=
  ok (fltUn f (fltElem f.ty false (fopSpecial f.ty .tanh)) s)
/-- SIGM (R179, R180). -/
def execSigm (f : VF) (s : State) : Host.Outcome State Fault Refusal :=
  ok (fltUn f (fltElem f.ty false (fopSpecial f.ty .sigm)) s)
/-- RSUM (R181). -/
def execRsum (f : VF) (s : State) : Host.Outcome State Fault Refusal :=
  ok (fltTree f (fopAdd f.ty f.rnd) s)
/-- RMIN (R181). -/
def execRmin (f : VF) (s : State) : Host.Outcome State Fault Refusal :=
  ok (fltTree f (fopMinmax f.ty false) s)
/-- RMAX (R181). -/
def execRmax (f : VF) (s : State) : Host.Outcome State Fault Refusal :=
  ok (fltTree f (fopMinmax f.ty true) s)
/-- RCNT (R182). -/
def execRcnt (f : VF) (s : State) : Host.Outcome State Fault Refusal :=
  ok (fltRcnt f s)

end Sys2Proof.Machine
end

