-- ==== Sys2Proof/Machine/Int.lean ====
section
/-! DEFINITION. Class 0: the uniform and integer/address instructions (R126-R135). -/

namespace Sys2Proof.Machine
open Sys2Proof

/-! ## Elements of integer and B types (R127-R130) -/

/-- Fit (R127): clamped to the present range of a number type, modulo 2ⁿ for a B type. -/
def fitInt (t : Ty) (x : Int) : Nat :=
  let c := codingOf (fun _ => 0) t
  if t.isB then intCode c.w x
  else if x > c.maxInt then intCode c.w c.maxInt
  else if x < c.minInt then intCode c.w c.minInt
  else intCode c.w x

/-- The integer of a code; none for the absent code of a number type. -/
def intOf (t : Ty) (code : Nat) : Option Int :=
  let c := codingOf (fun _ => 0) t
  if c.absent == some code then none
  else if t.isI && code ≥ 2 ^ (c.w - 1) then some ((code : Int) - 2 ^ c.w)
  else some (code : Int)

/-- The absent code of a type, 0 for a B type. -/
def absentCode (t : Ty) : Nat := ((codingOf (fun _ => 0) t).absent).getD 0

/-- One element of the element-wise forms (R127): absence, then Fit of the exact result.  `op` receives an absent operand
only under K. -/
def intElem (t : Ty) (k : Bool) (op : List (Option Int) → Int) (codes : List Nat) : Nat :=
  let vs := codes.map (intOf t)
  if !k && vs.any (·.isNone) then absentCode t
  else if k && vs.all (·.isNone) then absentCode t
  else fitInt t (op vs)

/-- The operations of R127, with the identities of R95 for absent operands. -/
def opAdd : List (Option Int) → Int
  | [a, b] => a.getD 0 + b.getD 0
  | _ => 0
def opSub : List (Option Int) → Int
  | [a, b] => a.getD 0 - b.getD 0
  | _ => 0
def opMul : List (Option Int) → Int
  | [a, b] => a.getD 1 * b.getD 1
  | _ => 0
/-- With K, a product with an absent factor is left out and an absent c is 0. -/
def opMad : List (Option Int) → Int
  | [some a, some b, c] => a * b + c.getD 0
  | [_, _, c] => c.getD 0
  | _ => 0
def opMulhi (t : Ty) : List (Option Int) → Int
  | [a, b] => (a.getD 0 * b.getD 0) / 2 ^ (codingOf (fun _ => 0) t).w
  | _ => 0
def opMin (t : Ty) : List (Option Int) → Int
  | [a, b] => min (a.getD (codingOf (fun _ => 0) t).maxInt) (b.getD (codingOf (fun _ => 0) t).maxInt)
  | _ => 0
def opMax (t : Ty) : List (Option Int) → Int
  | [a, b] => max (a.getD (codingOf (fun _ => 0) t).minInt) (b.getD (codingOf (fun _ => 0) t).minInt)
  | _ => 0
def opAbs : List (Option Int) → Int
  | [a] => ((a.getD 0).natAbs : Int)
  | _ => 0
def opNeg : List (Option Int) → Int
  | [a] => -(a.getD 0)
  | _ => 0
/-- Toward zero; by zero, Max, Min or 0 by the sign of a (R128). -/
def opDiv (t : Ty) : List (Option Int) → Int
  | [a, b] =>
    let x := a.getD 0
    let y := b.getD 0
    let c := codingOf (fun _ => 0) t
    if y == 0 then (if x > 0 then c.maxInt else if x < 0 then c.minInt else 0) else x.tdiv y
  | _ => 0
/-- The remainder with the sign of a; a itself by zero (R128). -/
def opRem : List (Option Int) → Int
  | [a, b] => if b.getD 0 == 0 then a.getD 0 else (a.getD 0).tmod (b.getD 0)
  | _ => 0

/-- An element through a bitwise operation. -/
def bitElem (t : Ty) (op : Nat → Nat → Nat) : List Nat → Nat
  | [a, b] => op a b % 2 ^ (codingOf (fun _ => 0) t).w
  | _ => 0

/-- A shift of a by the unsigned count b (R129); the count is cut at 128, beyond every width, where no result changes. -/
def shiftElem (t : Ty) (op : Int → Nat → Int) : List Nat → Nat
  | [a, b] => match intOf t a with
    | none => absentCode t
    | some x => fitInt t (op x (min b 128))
  | _ => 0
def opShl (x : Int) (k : Nat) : Int := x * 2 ^ k
def opShr (x : Int) (k : Nat) : Int := x / 2 ^ k

/-- A rotation by k mod n, left, or right (R129). -/
def rotElem (t : Ty) (right : Bool) : List Nat → Nat
  | [a, b] =>
    let n := (codingOf (fun _ => 0) t).w
    let k := if right then (n - b % n) % n else b % n
    (a * 2 ^ k) % 2 ^ n + a / 2 ^ (n - k)
  | _ => 0

/-- The number of one bits among the low `n`. -/
def popcount (n a : Nat) : Nat := ((List.range n).filter fun i => a.testBit i).length
/-- The number of leading zeros of `n` bits. -/
def clzBits (n a : Nat) : Nat := if a == 0 then n else n - 1 - a.log2
/-- The bits reversed. -/
def revBits (n a : Nat) : Nat := (List.range n).foldl (fun acc i => acc + if a.testBit i then 2 ^ (n - 1 - i) else 0) 0
/-- An element through a function of its width and bits. -/
def unElem (t : Ty) (op : Nat → Nat → Nat) : List Nat → Nat
  | [a] => op (codingOf (fun _ => 0) t).w a
  | _ => 0

/-- pos and len′ of a position operand for n bits (R130). -/
def fieldOf (n b : Nat) : Nat × Nat :=
  let pos := b % 256
  let len := b / 256 % 256
  (pos, if pos ≥ n then 0 else min len (n - pos))

/-- BFE (R130). -/
def bfeElem (t : Ty) : List Nat → Nat
  | [a, b] =>
    let n := (codingOf (fun _ => 0) t).w
    let (pos, len) := fieldOf n b
    if (intOf t a).isNone then absentCode t
    else if len == 0 then 0
    else
      let x := a / 2 ^ pos % 2 ^ len
      if t.isI && x ≥ 2 ^ (len - 1) then intCode n ((x : Int) - 2 ^ len) else x
  | _ => 0

/-- BFI (R130): a, the position operand, c. -/
def bfiElem (t : Ty) : List Nat → Nat
  | [a, b, c] =>
    let n := (codingOf (fun _ => 0) t).w
    let (pos, len) := fieldOf n b
    a - a / 2 ^ pos % 2 ^ len * 2 ^ pos + c % 2 ^ len * 2 ^ pos
  | _ => 0

/-- The condition codes EQ NE LT LE GT GE (R131). -/
def ccHolds (cc : Nat) (a b : Int) : Bool :=
  match cc with
  | 0 => a == b | 1 => a != b | 2 => a < b | 3 => a ≤ b | 4 => a > b | 5 => a ≥ b
  | _ => false

/-- CMP of two codes; an absent operand makes it false (R131). -/
def cmpCodes (t : Ty) (cc a b : Nat) : Bool :=
  match intOf t a, intOf t b with
  | some x, some y => ccHolds cc x y
  | _, _ => false

/-- LEA (R133): a, the 32-bit b, and the shift. -/
def leaVal (t : Ty) (a b sh : Nat) : Nat :=
  let tb : Ty := match t with | .i64 => .i32 | .n64 => .n32 | _ => .b32
  match intOf t a, intOf tb b with
  | some x, some y => fitInt t (x + y * 2 ^ sh)
  | _, _ => absentCode t

/-- DP4 (R127) of 32-bit a, b with the accumulator c. -/
def dp4Val (t : Ty) (k : Bool) (a b c : Nat) : Nat :=
  let t8 : Ty := if t == .i32 then .i8 else .n8
  let part (x : Nat) (j : Nat) : Option Int := intOf t8 (x / 2 ^ (8 * j) % 256)
  let ps := (List.range 4).map fun j => (part a j, part b j)
  let vc := intOf t c
  let prods := ps.filterMap fun p => match p with
    | (some x, some y) => some (x * y)
    | _ => none
  if !k && (prods.length < 4 || vc.isNone) then absentCode t
  else if k && prods.isEmpty && vc.isNone then absentCode t
  else fitInt t (vc.getD 0 + prods.foldl (· + ·) 0)

/-- EXT (R134): the lane value of `t` whose elements come from sub-element `sub` of `a` on; the second number marks the
bits written. -/
def extVal (t u : Ty) (sub a : Nat) : Nat × Nat :=
  let nf := fun _ => (0 : Word)
  let wt := contW nf t
  let n := (List.range (elemsOf nf t)).filter fun j => sub + j < elemsOf nf u
  (n.foldl (fun acc j => acc + (convert nf t u .rne (elemGet nf u a (sub + j))).1 * 2 ^ (j * wt)) 0,
   n.foldl (fun acc j => acc + (2 ^ wt - 1) * 2 ^ (j * wt)) 0)

/-! ## The shapes of class 0 words -/

/-- The elements of several lane values, combined place by place. -/
def zipElems (nf : BitVec 3 → Word) (t : Ty) (vals : List Nat) (h : List Nat → Nat) : Nat :=
  elemPack nf t ((List.range (elemsOf nf t)).map fun j => h (vals.map fun v => elemGet nf t v j))

/-- A result written whole: to `n` vector registers in the active lanes, or to `n` uniform registers (R123, R125). -/
def aluState (ur : Bool) (f : VF) (n : Nat) (val : Group → Nat → Nat) (s : State) : State :=
  s.issue f.y fun g => g.put f.t
    (if ur then sWrites f.dst.toNat n (val g 0) (fullBits n)
     else vWrites f.dst.toNat n (val g) (g.active s.cur.e f.msk) (fullBits n))

/-- d, a, b in DST, SA, SC. -/
def intBin (ur : Bool) (f : VF) (h : List Nat → Nat) (s : State) : State :=
  aluState ur f f.ty.regs (fun g L => zipElems g.nf f.ty [g.srcA ur f f.ty L, g.srcC ur f f.ty L] h) s
/-- d, a in DST, SC. -/
def intUn (ur : Bool) (f : VF) (h : List Nat → Nat) (s : State) : State :=
  aluState ur f f.ty.regs (fun g L => zipElems g.nf f.ty [g.srcC ur f f.ty L] h) s
/-- d, a, b, c in DST, SA, SB, SC. -/
def intTri (ur : Bool) (f : VF) (h : List Nat → Nat) (s : State) : State :=
  aluState ur f f.ty.regs
    (fun g L => zipElems g.nf f.ty [g.srcA ur f f.ty L, g.srcB ur f f.ty L, g.srcC ur f f.ty L] h) s

/-- CMP: bit L of a mask for each active lane, or 1 or 0 in a uniform register (R131). -/
def intCmp (ur : Bool) (f : VF) (s : State) : State :=
  let holds (g : Group) (L : Nat) : Bool := cmpCodes f.ty f.sb.toNat (g.srcA ur f f.ty L) (g.srcC ur f f.ty L)
  s.issue f.y fun g => g.put f.t
    (if ur then [.s f.dst.toNat (if holds g 0 then 1 else 0) ones32]
     else [.m f.dst.toNat (maskOf (holds g)) (g.active s.cur.e f.msk)])

/-- SEL (R132): the lane's bit of a mask, or a uniform register that is not zero. -/
def intSel (ur : Bool) (f : VF) (s : State) : State :=
  aluState ur f f.ty.regs (fun g L =>
    let c := if ur then g.sreg f.sb.toNat != 0 else bit (g.mreg f.sb.toNat) L
    zipElems g.nf f.ty [if c then g.srcA ur f f.ty L else g.srcC ur f f.ty L] fun l => l.headD 0) s

/-- MOV (R132). -/
def intMov (ur : Bool) (f : VF) (s : State) : State := intUn ur f (fun l => l.headD 0) s

/-- LEA (R133): d and a are pairs, b one register. -/
def intLea (ur : Bool) (f : VF) (s : State) : State :=
  aluState ur f 2 (fun g L =>
    leaVal f.ty (g.srcA ur f f.ty L) (g.src (ur || f.bk) f.sb.toNat 1 L) f.sc.toNat) s

/-- EXT (R134): u in SC[4:0], the source from sub-element SB on. -/
def intExt (ur : Bool) (f : VF) (s : State) : State :=
  let u := (tyOfCode (f.sc.setWidth 5)).getD .b32
  let n := f.ty.regs
  let val (g : Group) (L : Nat) : Nat := (extVal f.ty u f.sb.toNat (g.srcA ur f u L)).1
  let bm := (extVal f.ty u f.sb.toNat 0).2
  s.issue f.y fun g => g.put f.t
    (if ur then sWrites f.dst.toNat n (val g 0) bm
     else vWrites f.dst.toNat n (val g) (g.active s.cur.e f.msk) bm)

/-- DP4 (R127). -/
def intDp4 (ur : Bool) (f : VF) (s : State) : State :=
  aluState ur f 1 (fun g L => dp4Val f.ty f.k (g.srcA ur f f.ty L) (g.srcB ur f f.ty L) (g.srcC ur f f.ty L)) s

/-- The mask operations of MLOG (R135). -/
def mlogOp (op : Nat) (a b : Word) : Word :=
  match op with
  | 0 => a &&& b | 1 => a ||| b | 2 => a ^^^ b | _ => a &&& ~~~b

/-! ## The instructions -/

/-- ADD (R127). -/
def execAddIntVr (f : VF) (s : State) : Host.Outcome State Fault Refusal :=
  ok (intBin false f (intElem f.ty f.k opAdd) s)
/-- ADD (R127). -/
def execAddIntUr (f : VF) (s : State) : Host.Outcome State Fault Refusal :=
  ok (intBin true f (intElem f.ty f.k opAdd) s)
/-- SUB (R127). -/
def execSubIntVr (f : VF) (s : State) : Host.Outcome State Fault Refusal :=
  ok (intBin false f (intElem f.ty f.k opSub) s)
/-- SUB (R127). -/
def execSubIntUr (f : VF) (s : State) : Host.Outcome State Fault Refusal :=
  ok (intBin true f (intElem f.ty f.k opSub) s)
/-- MUL (R127). -/
def execMulIntVr (f : VF) (s : State) : Host.Outcome State Fault Refusal :=
  ok (intBin false f (intElem f.ty f.k opMul) s)
/-- MUL (R127). -/
def execMulIntUr (f : VF) (s : State) : Host.Outcome State Fault Refusal :=
  ok (intBin true f (intElem f.ty f.k opMul) s)
/-- MULHI (R127). -/
def execMulhiVr (f : VF) (s : State) : Host.Outcome State Fault Refusal :=
  ok (intBin false f (intElem f.ty false (opMulhi f.ty)) s)
/-- MULHI (R127). -/
def execMulhiUr (f : VF) (s : State) : Host.Outcome State Fault Refusal :=
  ok (intBin true f (intElem f.ty false (opMulhi f.ty)) s)
/-- MAD (R127). -/
def execMadVr (f : VF) (s : State) : Host.Outcome State Fault Refusal :=
  ok (intTri false f (intElem f.ty f.k opMad) s)
/-- MAD (R127). -/
def execMadUr (f : VF) (s : State) : Host.Outcome State Fault Refusal :=
  ok (intTri true f (intElem f.ty f.k opMad) s)
/-- DIV (R128). -/
def execDivIntVr (f : VF) (s : State) : Host.Outcome State Fault Refusal :=
  ok (intBin false f (intElem f.ty false (opDiv f.ty)) s)
/-- DIV (R128). -/
def execDivIntUr (f : VF) (s : State) : Host.Outcome State Fault Refusal :=
  ok (intBin true f (intElem f.ty false (opDiv f.ty)) s)
/-- REM (R128). -/
def execRemVr (f : VF) (s : State) : Host.Outcome State Fault Refusal :=
  ok (intBin false f (intElem f.ty false opRem) s)
/-- REM (R128). -/
def execRemUr (f : VF) (s : State) : Host.Outcome State Fault Refusal :=
  ok (intBin true f (intElem f.ty false opRem) s)
/-- MIN (R127). -/
def execMinIntVr (f : VF) (s : State) : Host.Outcome State Fault Refusal :=
  ok (intBin false f (intElem f.ty f.k (opMin f.ty)) s)
/-- MIN (R127). -/
def execMinIntUr (f : VF) (s : State) : Host.Outcome State Fault Refusal :=
  ok (intBin true f (intElem f.ty f.k (opMin f.ty)) s)
/-- MAX (R127). -/
def execMaxIntVr (f : VF) (s : State) : Host.Outcome State Fault Refusal :=
  ok (intBin false f (intElem f.ty f.k (opMax f.ty)) s)
/-- MAX (R127). -/
def execMaxIntUr (f : VF) (s : State) : Host.Outcome State Fault Refusal :=
  ok (intBin true f (intElem f.ty f.k (opMax f.ty)) s)
/-- ABS (R127). -/
def execAbsIntVr (f : VF) (s : State) : Host.Outcome State Fault Refusal :=
  ok (intUn false f (intElem f.ty false opAbs) s)
/-- ABS (R127). -/
def execAbsIntUr (f : VF) (s : State) : Host.Outcome State Fault Refusal :=
  ok (intUn true f (intElem f.ty false opAbs) s)
/-- NEG (R127). -/
def execNegIntVr (f : VF) (s : State) : Host.Outcome State Fault Refusal :=
  ok (intUn false f (intElem f.ty false opNeg) s)
/-- NEG (R127). -/
def execNegIntUr (f : VF) (s : State) : Host.Outcome State Fault Refusal :=
  ok (intUn true f (intElem f.ty false opNeg) s)
/-- AND (R126). -/
def execAndVr (f : VF) (s : State) : Host.Outcome State Fault Refusal :=
  ok (intBin false f (bitElem f.ty (· &&& ·)) s)
/-- AND (R126). -/
def execAndUr (f : VF) (s : State) : Host.Outcome State Fault Refusal :=
  ok (intBin true f (bitElem f.ty (· &&& ·)) s)
/-- OR (R126). -/
def execOrVr (f : VF) (s : State) : Host.Outcome State Fault Refusal :=
  ok (intBin false f (bitElem f.ty (· ||| ·)) s)
/-- OR (R126). -/
def execOrUr (f : VF) (s : State) : Host.Outcome State Fault Refusal :=
  ok (intBin true f (bitElem f.ty (· ||| ·)) s)
/-- XOR (R126). -/
def execXorVr (f : VF) (s : State) : Host.Outcome State Fault Refusal :=
  ok (intBin false f (bitElem f.ty (· ^^^ ·)) s)
/-- XOR (R126). -/
def execXorUr (f : VF) (s : State) : Host.Outcome State Fault Refusal :=
  ok (intBin true f (bitElem f.ty (· ^^^ ·)) s)
/-- NOT (R126). -/
def execNotVr (f : VF) (s : State) : Host.Outcome State Fault Refusal :=
  ok (intUn false f (unElem f.ty fun n a => 2 ^ n - 1 - a) s)
/-- NOT (R126). -/
def execNotUr (f : VF) (s : State) : Host.Outcome State Fault Refusal :=
  ok (intUn true f (unElem f.ty fun n a => 2 ^ n - 1 - a) s)
/-- SHL (R129). -/
def execShlVr (f : VF) (s : State) : Host.Outcome State Fault Refusal :=
  ok (intBin false f (shiftElem f.ty opShl) s)
/-- SHL (R129). -/
def execShlUr (f : VF) (s : State) : Host.Outcome State Fault Refusal :=
  ok (intBin true f (shiftElem f.ty opShl) s)
/-- SHR (R129). -/
def execShrVr (f : VF) (s : State) : Host.Outcome State Fault Refusal :=
  ok (intBin false f (shiftElem f.ty opShr) s)
/-- SHR (R129). -/
def execShrUr (f : VF) (s : State) : Host.Outcome State Fault Refusal :=
  ok (intBin true f (shiftElem f.ty opShr) s)
/-- ROT, right when X = 1 (R129). -/
def execRotVr (f : VF) (s : State) : Host.Outcome State Fault Refusal :=
  ok (intBin false f (rotElem f.ty f.x) s)
/-- ROT, right when X = 1 (R129). -/
def execRotUr (f : VF) (s : State) : Host.Outcome State Fault Refusal :=
  ok (intBin true f (rotElem f.ty f.x) s)
/-- POPC (R129). -/
def execPopcVr (f : VF) (s : State) : Host.Outcome State Fault Refusal :=
  ok (intUn false f (unElem f.ty popcount) s)
/-- POPC (R129). -/
def execPopcUr (f : VF) (s : State) : Host.Outcome State Fault Refusal :=
  ok (intUn true f (unElem f.ty popcount) s)
/-- CLZ (R129). -/
def execClzVr (f : VF) (s : State) : Host.Outcome State Fault Refusal :=
  ok (intUn false f (unElem f.ty clzBits) s)
/-- CLZ (R129). -/
def execClzUr (f : VF) (s : State) : Host.Outcome State Fault Refusal :=
  ok (intUn true f (unElem f.ty clzBits) s)
/-- BREV (R129). -/
def execBrevVr (f : VF) (s : State) : Host.Outcome State Fault Refusal :=
  ok (intUn false f (unElem f.ty revBits) s)
/-- BREV (R129). -/
def execBrevUr (f : VF) (s : State) : Host.Outcome State Fault Refusal :=
  ok (intUn true f (unElem f.ty revBits) s)
/-- BFE (R130). -/
def execBfeVr (f : VF) (s : State) : Host.Outcome State Fault Refusal :=
  ok (intBin false f (bfeElem f.ty) s)
/-- BFE (R130). -/
def execBfeUr (f : VF) (s : State) : Host.Outcome State Fault Refusal :=
  ok (intBin true f (bfeElem f.ty) s)
/-- BFI (R130). -/
def execBfiVr (f : VF) (s : State) : Host.Outcome State Fault Refusal :=
  ok (intTri false f (bfiElem f.ty) s)
/-- BFI (R130). -/
def execBfiUr (f : VF) (s : State) : Host.Outcome State Fault Refusal :=
  ok (intTri true f (bfiElem f.ty) s)
/-- CMP (R131). -/
def execCmpIntVr (f : VF) (s : State) : Host.Outcome State Fault Refusal :=
  ok (intCmp false f s)
/-- CMP (R131). -/
def execCmpIntUr (f : VF) (s : State) : Host.Outcome State Fault Refusal :=
  ok (intCmp true f s)
/-- SEL (R132). -/
def execSelVr (f : VF) (s : State) : Host.Outcome State Fault Refusal :=
  ok (intSel false f s)
/-- SEL (R132). -/
def execSelUr (f : VF) (s : State) : Host.Outcome State Fault Refusal :=
  ok (intSel true f s)
/-- MOV (R132). -/
def execMovVr (f : VF) (s : State) : Host.Outcome State Fault Refusal :=
  ok (intMov false f s)
/-- MOV (R132). -/
def execMovUr (f : VF) (s : State) : Host.Outcome State Fault Refusal :=
  ok (intMov true f s)
/-- LEA (R133). -/
def execLeaVr (f : VF) (s : State) : Host.Outcome State Fault Refusal :=
  ok (intLea false f s)
/-- LEA (R133). -/
def execLeaUr (f : VF) (s : State) : Host.Outcome State Fault Refusal :=
  ok (intLea true f s)
/-- EXT (R134). -/
def execExtVr (f : VF) (s : State) : Host.Outcome State Fault Refusal :=
  ok (intExt false f s)
/-- EXT (R134). -/
def execExtUr (f : VF) (s : State) : Host.Outcome State Fault Refusal :=
  ok (intExt true f s)
/-- DP4 (R127). -/
def execDp4Vr (f : VF) (s : State) : Host.Outcome State Fault Refusal :=
  ok (intDp4 false f s)
/-- DP4 (R127). -/
def execDp4Ur (f : VF) (s : State) : Host.Outcome State Fault Refusal :=
  ok (intDp4 true f s)
/-- MSET: a uniform register to a mask (R135). -/
def execMset (f : VF) (s : State) : Host.Outcome State Fault Refusal :=
  ok (s.issue f.y fun g => g.put f.t [.m f.dst.toNat (g.sreg f.sa.toNat) ones32])
/-- MGET: a mask to a uniform register (R135). -/
def execMget (f : VF) (s : State) : Host.Outcome State Fault Refusal :=
  ok (s.issue f.y fun g => g.put f.t [.s f.dst.toNat (g.mreg f.sa.toNat) ones32])
/-- MLOG (R135). -/
def execMlog (f : VF) (s : State) : Host.Outcome State Fault Refusal :=
  ok (s.issue f.y fun g => g.put f.t
    [.m f.dst.toNat (mlogOp f.sb.toNat (g.mreg f.sa.toNat) (g.mreg f.sc.toNat)) ones32])

end Sys2Proof.Machine
end

