-- ==== Sys2Proof/Machine/Copy.lean ====
section
/-! DEFINITION. Class 7: copy commands, batches, neighbour exchange and the accumulator forms (R270-R284). -/

namespace Sys2Proof.Machine
open Sys2Proof

/-! ## Commands and batches (R270, R275-R278) -/

/-- The commands of a group, and of a core, in flight. -/
def State.cmdsOfGroup (s : State) (g : Nat) : Nat := (s.cmds.filter fun c => c.group == g && !c.done).length
def State.cmdsOfCore (s : State) (core : Nat) : Nat := (s.cmds.filter fun c => (s.team c.team).core == core && !c.done).length

/-- A command instruction stalls at the limits of R270. -/
def State.cmdRoom (s : State) : Bool := s.cmdsOfGroup s.ownerNo < 64 && s.cmdsOfCore s.ct.core < 256

def State.modCmd (s : State) (id : Nat) (f : Cmd → Cmd) : State :=
  { s with cmds := s.cmds.map fun c => if c.id == id then f c else c }

/-- A command created. -/
def State.newCmd (s : State) (c : Cmd) : State := { s with cmds := s.cmds ++ [{ c with id := s.cmdNo }], cmdNo := s.cmdNo + 1 }

/-- A command of the issuing group, to be filled in; a fresh group's is its host's (DESIGN CHOICE, log 80). -/
def State.cmdOf (s : State) (kind : CmdKind) (minor : Nat) : Cmd :=
  { id := 0, group := s.ownerNo, team := s.cg.team, kind, minor, batch := none, dst := 0, src := 0, ty := .b8, val := 0, tab := .lin 0,
    obj := none, fs := s.cg.regs.f, halo := none, know := s.ct.order.knows s.owner.gidx seqParty, issue := s.owner.issueNo, pos := 0, wrote := [], held := false,
    done := false, fls := [] }

/-- The batches of a group of which every command is complete: their flags are raised and they are no longer kept (R275). -/
def State.closeBatch (s : State) (g : Nat) (b : Option Word) : State :=
  let mine := s.cmds.filter fun c => c.group == g && c.batch == b
  if b.isSome && mine.any (fun c => !c.done) then s
  else
    let full := mine.filter fun (c : Cmd) => c.done
    ({ s with cmds := s.cmds.filter fun c => !(c.group == g && c.batch == b && c.done) }).deliverTo g 0 false []
      (full.flatMap fun (c : Cmd) => c.fls)

/-- DONE (R276): raised over every batch that has no command left, at most 16 of them. -/
def doneFrom (left : Word → Bool) (closed : Word) : Nat → Word → Word
  | 0, d => d
  | n + 1, d => if d == closed || left (d + 1) then d else doneFrom left closed n (d + 1)

/-- The batches of a group looked at again after a command has completed or a batch has been closed. -/
def State.settleBatches (s : State) (g : Nat) : State :=
  let bs := (none :: (s.cmds.filter fun c => c.group == g).map (·.batch)).dedup
  let s1 := bs.foldl (fun s b => s.closeBatch g b) s
  s1.modGroup g fun x => { x with batches := { x.batches with
    done := doneFrom (fun b => s1.cmds.any fun c => c.group == g && c.batch == some b) x.batches.closed 16 x.batches.done } }

/-- The first failure since the last CLR recorded in the status word (R277). -/
def Batches.fail (b : Batches) (minor code : Nat) (batch : Option Word) : Batches :=
  if bit b.csw 31 then b
  else { b with csw := 1#1 ++ BitVec.ofNat 7 minor ++ BitVec.ofNat 8 code ++ bits (batch.getD 0) 0 16 }

/-- A command completes. -/
def State.cmdDone (s : State) (c : Cmd) (fls : List Fl) : State :=
  (s.modCmd c.id fun x => { x with done := true, fls }).settleBatches c.group

/-- A command fails with a code of R277 and ends; its object is not updated (R278).  The flags of what it has converted stand (R275). -/
def State.cmdFail (s : State) (c : Cmd) (code : Nat) (fls : List Fl) : State :=
  (s.modGroup c.group fun x => { x with batches := x.batches.fail c.minor code c.batch }).cmdDone c fls

/-- FCODE of a fault that the handler declares unresolvable; the manual gives none for a machine check, and which of the four that R277 has
stays free (log 4). -/
def State.failCode (s : State) (code : Nat) : Nat := if code == 1 || code == 2 then code else (Config.undef s.tick code).toNat % 4 + 1

/-- The record of a command-scope fault (R419, R460). -/
def State.cmdRec (s : State) (c : Cmd) (x : XFault) (write : Bool) : FaultRec :=
  { s.groupRec c.group x.code x.sub .cmd 0 x.info with
    unit := c.id, flags := if write then 1 else 0
    extra := leBytes 8 (c.minor % 128) ++ leBytes 8 (c.batch.getD 0).toNat }

/-- A command meets a fault at an element (R278): it waits for the handler; that of an S-mode group ends, and the group takes the
fault (R421). -/
def State.cmdFault (s : State) (c : Cmd) (x : XFault) (write : Bool) : State :=
  if (s.team c.team).user then (s.modCmd c.id fun y => { y with held := true }).raise (s.cmdRec c x write)
  else
    let s1 := s.cmdFail c (s.failCode x.code) c.fls
    if (s.group c.group).ended then s1.interruptTeam c.team x.code x.sub x.info none
    else s1.interruptGroup c.group x.code x.sub x.info none

/-! ## The elements of a command (R274) -/

/-- The pairs of a table: source element, where there is one, and destination element. -/
def CmdTab.pairs : CmdTab → List (Option Int × Int)
  | .lin n => (List.range n).map fun e => (some (e : Int), (e : Int))
  | .grid len rows ss ds => (List.range rows).flatMap fun i => (List.range len).map fun j => (some ((i * ss + j : Nat) : Int), ((i * ds + j : Nat) : Int))
  | .gather ps => ps.map fun p => (p.1, (p.2 : Int))
  | .acc _ _ rows cols => (List.range (rows * cols)).map fun e => (some (e : Int), (e : Int))

/-- The narrow formats of a command. -/
def Cmd.nf (c : Cmd) (k : BitVec 3) : Word := vecAt c.fs k.toNat 0

/-- The pointers of a command. -/
def Cmd.dptr (c : Cmd) : Option Ptr := ptrOf c.dst
def Cmd.sptr (c : Cmd) : Option Ptr := ptrOf c.src

/-- An element of a command: none out of range, or a fault. -/
def State.cmdElem (s : State) (c : Cmd) (p : Ptr) (kind : AKind) (clear : List Nat) (k : Option Int) : Except XFault (Option Elem) :=
  match k with
  | none => .ok none
  | some k => match s.placeOf c.nf c.team p kind k with
    | .out => .ok none
    | .bad x _ => .error x
    | .at e => match s.poisonAt e.place with
      | some x => if e.place.onLine clear then .ok (some e) else .error x
      | none => .ok (some e)

/-- A pair of a command with its places. -/
abbrev Move := Option Elem × Option Elem

/-- The places of the pairs in table order up to the first that faults, and that fault and whether it is of a write. -/
def State.cmdMoves (s : State) (c : Cmd) (sp dp : Option Ptr) (clear : List Nat) : List (Option Int × Int) → List Move × Option (XFault × Bool)
  | [] => ([], none)
  | (a, b) :: rest =>
    let x := match sp with
      | some p => s.cmdElem c p .load [] a
      | none => .ok none
    let y := match dp with
      | some p => s.cmdElem c p .store clear (some b)
      | none => .ok none
    match x, y with
    | .error f, _ => ([], some (f, false))
    | _, .error f => ([], some (f, true))
    | .ok e, .ok d => let r := s.cmdMoves c sp dp clear rest; ((e, d) :: r.1, r.2)

/-- The elements of a pointer that can be reached. -/
def State.elemsAt (s : State) (c : Cmd) (p : Ptr) (kind : AKind) (ks : List Int) : List Elem :=
  ks.filterMap fun k => match s.placeOf c.nf c.team p kind k with
    | .at e => some e
    | _ => none

/-- The lines that a command's element writes cover whole, performed at home: their poison is cleared (R438). -/
def State.cmdClears (s : State) (c : Cmd) (home : Bool) (p : Ptr) (ks : List Int) : List Nat :=
  if home then coveredLines (s.elemsAt c p .store ks) else []

/-- The translation of an element of a command used (R432). -/
def State.cmdUse (s : State) (c : Cmd) (kind : AKind) (e : Elem) : State :=
  let t := s.team c.team
  match e.leaf with
  | some l => s.useLeaf t.core t.ctx kind l
  | none => s

/-- The codes of the source elements in table order; `tail` where there is none.  The reads are plain (R279). -/
def State.cmdRead (s : State) (c : Cmd) (p : Ptr) (tail : Nat) : List (Option Elem) → State × List (Nat × Bool)
  | [] => (s, [])
  | none :: es => let r := s.cmdRead c p tail es; (r.1, (tail, false) :: r.2)
  | some e :: es =>
    let s1 := s.cmdUse c .load e
    let q := s1.readPlace (s.team c.team).core p.cls p.sc e.place e.bytes
    let code := codeOf e.nib q.2.1 % 2 ^ (codingOf c.nf p.ty).w
    let r := q.1.cmdRead c p tail es
    (r.1, (code, true) :: r.2)

/-- Two elements share a byte. -/
def Elem.meets (a b : Elem) : Bool := (List.range a.bytes).any fun i => (byteIn a.place i b.place b.bytes).isSome

/-- An undefined code of up to 128 bits (log 4). -/
def undefCode (tick k : Nat) : Nat := (Config.undef tick (2 * k)).toNat + (Config.undef tick (2 * k + 1)).toNat * 2 ^ 64

/-- One element write of a command, plain (R279). -/
def State.cmdWrite (s : State) (c : Cmd) (p : Ptr) (e : Elem) (code : Nat) : State :=
  let t := s.team c.team
  let s1 := s.cmdUse c .store e
  match s1.writePlace t.core (.group t.ctx) p.cls p.sc none (e.write code) with
  | .ok s2 => s2
  | .error _ => s1

/-- The element writes in table order: an element that shares a byte with a source element is undefined (R274). -/
def State.cmdStore (s : State) (c : Cmd) (p : Ptr) (srcs : List Elem) (vals : List (Nat × Elem × Nat)) : State :=
  vals.foldl (fun s v => s.cmdWrite c p v.2.1 (if srcs.any v.2.1.meets then undefCode s.tick v.1 else v.2.2)) s

/-- The bytes that a command has written, by the places of its element writes (R280). -/
def bytesDone (p : Ptr) (nf : BitVec 3 → Word) (ws : List Place) : Nat :=
  if contW nf p.ty == 4 then ws.dedup.length else ws.length * p.size nf

/-- The object update of a command (R265, R280): FCODE of its failure where OWED would leave its range, or where the object can no longer be
reached (R277). -/
def State.objLower (s : State) (t : Nat) (o : Space × Nat) (n : Nat) : Except Nat State :=
  match s.objPlace t o.1 o.2 with
  | none => .error 0x04
  | some (u, k) =>
    let w := s.objAt u k
    let owed := objOwed w - n
    if owed < -(2 ^ 21) then .error 0x03
    else .ok ((s.setObj u k (objDone (objWord (objSeq w) owed (objExp w) (objArr w)))).objPhase u k w)

/-- A command's completion is an arrival of its issuing group on its object: what the group had done when it issued the command comes before,
as the group's arrivals so far say (R262). -/
def State.cmdEdge (s : State) (c : Cmd) (o : Space × Nat) : State :=
  match s.objPlace c.team o.1 o.2 with
  | some (u, k) => s.modHb fun h => h.arrive (.obj u k) (groupParty c.group) c.issue
  | none => s

/-- The end of a command that has moved its elements: its object, then its completion. -/
def State.cmdEnd (s : State) (c : Cmd) (n : Nat) (fls : List Fl) : State :=
  match c.obj with
  | none => s.cmdDone c fls
  | some o => match (s.cmdEdge c o).objLower c.team o n with
    | .ok t => t.cmdDone c fls
    | .error code => s.cmdFail c code fls

/-- A command that has carried out pairs `ms`: it ends as `fin` says, or goes on after its fault has been answered (R278). -/
def State.cmdStep (s : State) (c : Cmd) (ms : List Move) (f : Option (XFault × Bool)) (fls : List Fl) (fin : State → Cmd → State) : State :=
  let c' := { c with pos := c.pos + ms.length, wrote := c.wrote ++ (ms.filterMap (·.2)).map (·.place), fls := c.fls ++ fls }
  match f with
  | some f => (s.modCmd c.id fun x => { x with pos := c'.pos, wrote := c'.wrote, fls := c'.fls }).cmdFault c' f.1 f.2
  | none => fin s c'

/-- The end of a copy: its object is lowered by the bytes written. -/
def State.copyEnd (dp : Ptr) (s : State) (c : Cmd) : State := s.cmdEnd c (bytesDone dp c.nf c.wrote) c.fls

/-- CPY, CPY2D, CFILL, CGTH and NCOPY carried out up to a fault: every source element is read, then the destination written.  An element that
overlap leaves undefined raises no flag (R6, R274, R275). -/
def State.runCopy (s : State) (c : Cmd) (dp : Ptr) : State :=
  let sp := if c.kind == .cfill then none else c.sptr
  let pairs := c.tab.pairs
  let nf := c.nf
  let clear := s.cmdClears c (tracked dp.cls dp.sc) dp (pairs.map (·.2))
  let r := s.cmdMoves c sp (some dp) clear (pairs.drop c.pos)
  let ms := r.1
  let all := match sp with
    | some p => s.elemsAt c p .load (pairs.filterMap (·.1))
    | none => []
  let srcs := ms.filterMap (·.1)
  let dsts := ms.filterMap (·.2)
  if (srcs ++ dsts).any fun e => s.waits e.place then s.recallAll ((srcs ++ dsts).map (·.place))
  else
    let q : State × List (Nat × Bool) := match sp with
      | some p => s.cmdRead c p (tailCode nf p.ty) (ms.map (·.1))
      | none => (s, ms.map fun _ => (c.val.toNat, true))
    let from_ := match sp with | some p => p.ty | none => c.ty
    let conv := q.2.map fun v => (convert nf dp.ty from_ .rne v.1, v.2)
    let rows := (conv.zip (ms.map (·.2))).zipIdx
    let vals := rows.filterMap fun r => r.1.2.map fun e => (r.2, e, r.1.1.1.1)
    let fls := rows.filterMap fun r => match r.1.2 with
      | some e => if r.1.1.2 && !all.any e.meets then some r.1.1.1.2 else none
      | none => none
    let t := q.1.cmdStore c dp all vals
    (if r.2.isSome then t else { t with mem := t.mem.unpoison clear }).cmdStep c ms r.2 fls (State.copyEnd dp)

/-- The entries that a command touches and is not ordered with (R283). -/
def State.cmdOpen (s : State) (c : Cmd) (row rows col cols : Nat) : List Nat :=
  (s.team c.team).order.formOpen c.know ((List.range rows).map (row + ·)) col cols

/-- The touch of a command is recorded, and entries with which it is not ordered are undefined (R283). -/
def State.cmdTouches (s : State) (c : Cmd) (row rows col cols : Nat) (cells : List Nat) (into : AccInto) : State :=
  let u : AccUse := { gidx := (s.group c.group).gidx, stamp := none, batch := c.batch, rows := (List.range rows).map (row + ·), col, cols, into }
  (s.modSeq c.team fun q => q.openCells s.tick cells).modTeam c.team fun x => { x with order := { x.order with uses := x.order.uses ++ [u] } }

/-- ACCST: entries of the store to elements (R282); of an entry with which it is not ordered it reads an undefined value (R283). -/
def State.runAccst (s : State) (c : Cmd) (dp : Ptr) : State :=
  match c.tab, s.seqOf c.team with
  | .acc row col rows cols, some q =>
    let r := s.cmdMoves c none (some dp) [] (c.tab.pairs.drop c.pos)
    let cells := s.cmdOpen c row rows col cols
    let q1 := q.openCells s.tick cells
    let vals := (r.1.zipIdx c.pos).filterMap fun m => m.1.2.map fun e =>
      (m.2, e, accForm c.ty (q1.entry (row + m.2 / cols) (col + m.2 % cols)))
    let into : AccInto := .elems dp.cls dp.sc (vals.map fun v => ((row + v.1 / cols) * 64 + col + v.1 % cols, v.2.1.write v.2.2))
    ((s.cmdTouches c row rows col cols cells into).cmdStore c dp [] vals).cmdStep c r.1 r.2 [] (State.copyEnd dp)
  | _, _ => s.cmdDone c []

/-- ACCLD: elements to entries of the store (R282); the bytes that its object counts are those of the entries' elements. -/
def State.runAccld (s : State) (c : Cmd) (sp : Ptr) : State :=
  match c.tab with
  | .acc row col rows cols =>
    let r := s.cmdMoves c (some sp) none [] (c.tab.pairs.drop c.pos)
    let q := s.cmdRead c sp (tailCode c.nf sp.ty) (r.1.map (·.1))
    let t := q.1.modSeq c.team fun x => (q.2.zipIdx c.pos).foldl (fun x v =>
      x.setEntry (row + v.2 / cols) (col + v.2 % cols) (accOfForm c.ty v.1.1)) x
    (t.cmdTouches c row rows col cols (s.cmdOpen c row rows col cols) .none).cmdStep c r.1 r.2 []
      fun t c => t.cmdEnd c (sp.size c.nf * (rows * cols)) c.fls
  | _ => s.cmdDone c []

/-- A command of this class carried out. -/
def State.runCmd (s : State) (c : Cmd) : State :=
  match c.kind, c.dptr, c.sptr with
  | .accld, _, some p => s.runAccld c p
  | .accst, some p, _ => s.runAccst c p
  | _, some p, _ => s.runCopy c p
  | _, none, _ => s.cmdDone c []

/-! ## Issue (R273) -/

/-- The first failure of R206 over two pointers, each step on the destination and then on the source (R273). -/
def State.ptrCheck2 (s : State) (g : Nat) (dst src : Option QWord) : Option (Nat × Nat) :=
  [1, 2, 3, 5, 6, 7, 8].findSome? fun n =>
    match dst.bind (fun p => s.ptrStep g p (fun _ => true) true n) with
    | some e => some e
    | none => src.bind fun p => s.ptrStep g p (fun _ => true) false n

/-- An N32 value that is not absent. -/
def n32 (v : Word) : Option Nat := if v == ones32 then none else some v.toNat

/-- The object that an EN word names (R272). -/
def Group.objOf (g : Group) (f : ENF) : Option (Space × Nat) :=
  if bit f.fn 2 then
    let sp : Space := match (bits f.fn 0 2).toNat with | 0 => .loc | 1 => .nbr | _ => .pool
    some (sp, (g.sreg f.sc.toNat).toNat)
  else none

/-- The first element of a table that is out of range of a pointer without ABS: its number and whether the write reaches it. -/
def State.rangeBad (s : State) (nf : BitVec 3 → Word) (t : Nat) (sp dp : Option Ptr) : List (Option Int × Int) → Option (Ptr × Int × Bool)
  | [] => none
  | (a, b) :: rest =>
    match sp, a, dp with
    | some p, some k, d =>
      if !p.abs && !s.inRange nf t p k then some (p, k, false)
      else match d with
        | some q => if !q.abs && !s.inRange nf t q b then some (q, b, true) else s.rangeBad nf t sp dp rest
        | none => s.rangeBad nf t sp dp rest
    | _, _, some q => if !q.abs && !s.inRange nf t q b then some (q, b, true) else s.rangeBad nf t sp dp rest
    | _, _, none => s.rangeBad nf t sp dp rest

/-- The range checks of a command issued once for the group, then the object's, then its creation (R273). -/
def State.cmdStart (s : State) (y : Bool) (c : Cmd) (sp dp : Option Ptr) : State :=
  let t := s.cg.team
  match s.rangeBad s.cg.nf t sp dp c.tab.pairs with
  | some (p, k, w) => s.laneFaults (s.spread [boundsFault s.cg.nf p 0 w k]) id
  | none => match c.obj with
    | some o => if (s.objPlace t o.1 o.2).isNone then s.objFault o.2 else (s.newCmd c).advance y
    | none => (s.newCmd c).advance y

/-- The frame of the command forms: no run-ahead, and room for a command (R270, R284). -/
def State.cmdForm (s : State) (k : State → State) : State :=
  s.unlessAhead fun s => if s.cmdRoom then k s else s.stall

/-- CPY, CPY2D, NCOPY: `tab` is the table, none where COPYARG is taken; `bad` a further check on the two pointers. -/
def copyForm (kind : CmdKind) (minor : Nat) (f : ENF) (pair : State → Ptr → Ptr → Option Nat) (tab : Group → Option CmdTab)
    (obj : Group → Option (Space × Nat)) (s : State) : State :=
  s.cmdForm fun s =>
    let x := s.cg
    let d := x.preg f.dst.toNat
    let p := x.preg f.sa.toNat
    match s.ptrCheck2 s.cur.g (some d) (some p), ptrOf d, ptrOf p with
    | some (c, sub), _, _ => s.userTrap c sub
    | none, some dp, some sp =>
      match pair s dp sp with
      | some sub => s.userTrap 0x04 sub
      | none => match tab x with
        | none => s.userTrap 0x0A 0
        | some t => s.cmdStart f.y { s.cmdOf kind minor with dst := d, src := p, ty := sp.ty, tab := t, obj := obj x } (some sp) (some dp)
    | none, _, _ => s

/-- The pair check of the copies (R273). -/
def copyPair (s : State) (d p : Ptr) : Option Nat := if pairOk s.cg.nf .rne d.ty p.ty then none else some 0x04

/-- The checks of NCOPY (R274, R281). -/
def ncopyPair (_ : State) (d p : Ptr) : Option Nat :=
  if d.ty != p.ty then some 0x04 else if d.sp != .nbr || p.sp != .loc then some 0x06 else none

/-- The table of a counted form. -/
def linTab (v : Word) : Option CmdTab := (n32 v).map .lin

/-- The table of CPY2D: rows·len, taken exactly, at most 2³² − 2 (R274). -/
def gridTab (g : Group) (r : Nat) : Option CmdTab :=
  match n32 (g.sreg r), n32 (g.sreg (r + 1)), n32 (g.sreg (r + 2)), n32 (g.sreg (r + 3)) with
  | some len, some rows, some ss, some ds => if rows * len ≤ 2 ^ 32 - 2 then some (.grid len rows ss ds) else none
  | _, _, _, _ => none

/-- CPY (R274). -/
def execCpy (f : ENF) (s : State) : Host.Outcome State Fault Refusal :=
  ok (copyForm .cpy 0x01 f copyPair (fun g => linTab (g.sreg f.sb.toNat)) (fun g => g.objOf f) s)
/-- CPY2D (R274). -/
def execCpy2d (f : ENF) (s : State) : Host.Outcome State Fault Refusal :=
  ok (copyForm .cpy2d 0x02 f copyPair (fun g => gridTab g f.sb.toNat) (fun g => g.objOf f) s)
/-- The offset of an object in the NBR window of a core: an offset that does not fit the core's part lies outside every window (R261, R280). -/
def nbrOffset (home off : Nat) : Nat := if off < 2 ^ 20 then home * 2 ^ 20 + off else 2 ^ 23 + off

/-- NCOPY (R274, R281): its object lies in the destination core's window (R280). -/
def execNcopy (f : ENF) (s : State) : Host.Outcome State Fault Refusal :=
  ok (copyForm .ncopy 0x05 f ncopyPair (fun g => linTab (g.sreg f.sb.toNat)) (fun g =>
    if bit f.fn 2 then
      some (.nbr, nbrOffset (bits (g.preg f.dst.toNat) 111 3).toNat (g.sreg f.sc.toNat).toNat)
    else none) s)

/-- CFILL (R274). -/
def execCfill (f : ENF) (s : State) : Host.Outcome State Fault Refusal :=
  ok (s.cmdForm fun s =>
    let x := s.cg
    let d := x.preg f.dst.toNat
    match s.ptrCheck2 s.cur.g (some d) none, ptrOf d with
    | some (c, sub), _ => s.userTrap c sub
    | none, some dp =>
      if !pairOk x.nf .rne f.ty dp.ty then s.userTrap 0x04 0x04
      else match linTab (x.sreg f.sb.toNat) with
        | none => s.userTrap 0x0A 0
        | some t =>
          s.cmdStart f.y { s.cmdOf .cfill 0x03 with
            dst := d, ty := f.ty, val := BitVec.ofNat 64 (elemGet x.nf f.ty (x.sval f.sa.toNat f.ty.regs) 0), tab := t, obj := x.objOf f } none (some dp)
    | none, none => s)

/-- The fault of lane `L` of CGTH (R273): its source element, then its destination element. -/
def State.gatherFault (s : State) (sp dp : Ptr) (L : Nat) (k : Option Int) : Option LaneFault :=
  let nf := s.cg.nf
  let t := s.cg.team
  let src : Option LaneFault := match k with
    | some k => if !sp.abs && !s.inRange nf t sp k then some (boundsFault nf sp L false k) else none
    | none => if sp.abs then none else some (boundsFault nf sp L false (Config.undef s.tick L).toInt)
  match src with
  | some x => some x
  | none => if !dp.abs && !s.inRange nf t dp L then some (boundsFault nf dp L true L) else none

/-- CGTH (R273, R274). -/
def execCgth (f : MAF) (s : State) : Host.Outcome State Fault Refusal :=
  ok (s.cmdForm fun s =>
    let x := s.cg
    let d := x.preg f.data.toNat
    let p := x.preg f.ptr.toNat
    match s.ptrCheck2 s.cur.g (some d) (some p), ptrOf d, ptrOf p with
    | some (c, sub), _, _ => s.userTrap c sub
    | none, some dp, some sp =>
      match copyPair s dp sp with
      | some sub => s.userTrap 0x04 sub
      | none =>
        let lanes := (lanesOf (s.act f.msk)).map fun L => (L, x.maFirst f L)
        let bad := lanes.filterMap fun l => s.gatherFault sp dp l.1 l.2
        let ps := (lanes.filter fun l => !bad.any fun b => b.lane == l.1).map fun l => (l.2, l.1)
        s.laneFaults bad fun s =>
          (s.newCmd { s.cmdOf .cgth 0x04 with dst := d, src := p, ty := sp.ty, tab := .gather ps }).advance f.y
    | none, _, _ => s)

/-! ## Batches (R276) -/

/-- CBATCH (R270, R276). -/
def execCbatch (f : ENF) (s : State) : Host.Outcome State Fault Refusal :=
  ok (s.unlessAhead fun s =>
    let g := s.ownerNo
    let b := s.owner.batches
    if (b.closed - b.done).toNat ≥ 15 then s.stall
    else
      let n := b.closed + 1
      let s1 := { s with cmds := s.cmds.map fun (c : Cmd) => if c.group == g && c.batch == none then { c with batch := some n } else c }.modCt
        fun t => { t with order := t.order.closed s.owner.gidx n }
      ((s1.modGroup g fun x => { x with batches := { x.batches with closed := n } }).settleBatches g).issue f.y fun x =>
        x.put false [.s f.dst.toNat n ones32])

/-- CWAIT (R276). -/
def execCwait (f : ENF) (s : State) : Host.Outcome State Fault Refusal :=
  ok (s.unlessAhead fun s =>
    let b := s.owner.batches
    let v := s.cg.sreg f.sa.toNat
    let n := if (b.closed - v).toNat ≥ 2 ^ 31 then b.closed else v
    if (b.done - n).toNat ≥ 2 ^ 31 then s.stall
    else if bit b.csw 31 && ((bits n 0 16 : BitVec 16) - bits b.csw 0 16).toNat < 2 ^ 15 then s.userTrap 0x09 0
    else (s.modCt fun t => { t with order := t.order.waited s.owner.gidx s.owner.issueNo n }).advance f.y)

/-- CSTAT (R276, R277). -/
def execCstat (f : ENF) (s : State) : Host.Outcome State Fault Refusal :=
  ok (s.unlessAhead fun s =>
    let b := s.owner.batches
    (s.modGroup s.ownerNo fun x => { x with batches := if bit f.fn 2 then { b with csw := b.csw &&& 0x7FFFFFFF#32 } else b }).issue f.y
      fun x => x.send false [.s f.dst.toNat b.done ones32, .s (f.dst.toNat + 1) b.csw ones32] [])

/-! ## The accumulator forms (R282) -/

/-- The position and shape of a command's tile; none where COPYARG is taken. -/
def accTile (pos shape : Word) : Option CmdTab :=
  match accPos pos, accShape shape with
  | some (r, c), some (n, m) => if r + n ≤ 512 && c + m ≤ 64 then some (.acc r c n m) else none
  | _, _ => none

/-- ACCLD and ACCST: their pointer must be LOC of the register type's format (R273). -/
def accCmd (load : Bool) (minor : Nat) (f : ENF) (s : State) : State :=
  s.cmdForm fun s =>
    let x := s.cg
    let p := x.preg f.dst.toNat
    match s.ptrCheck2 s.cur.g (if load then none else some p) (if load then some p else none), ptrOf p with
    | some (c, sub), _ => s.userTrap c sub
    | none, some q =>
      if q.sp != .loc || q.ty != f.ty then s.userTrap 0x04 0x06
      else match accTile (x.sreg f.sa.toNat) (x.sreg f.sb.toNat), s.seqOf x.team with
        | some t, some _ =>
          let c := { s.cmdOf (if load then .accld else .accst) minor with
            dst := if load then 0 else p, src := if load then p else 0, ty := f.ty, tab := t, obj := x.objOf f }
          s.cmdStart f.y c (if load then some q else none) (if load then none else some q)
        | _, _ => s.userTrap 0x0A 0
    | none, none => s

/-- ACCLD (R282). -/
def execAccld (f : ENF) (s : State) : Host.Outcome State Fault Refusal := ok (accCmd true 0x09 f s)
/-- ACCST (R282). -/
def execAccst (f : ENF) (s : State) : Host.Outcome State Fault Refusal := ok (accCmd false 0x0A f s)

/-- The position of ACCRD and ACCWR, and the store: 32 rows of one column. -/
def State.accCol (s : State) (f : ENF) : Option (Nat × Nat × Seq) :=
  match accPos (s.cg.sreg f.sa.toNat), s.seqOf s.cg.team with
  | some (r, c), some q => if r ≤ 480 then some (r, c, q) else none
  | _, _ => none

/-- ACCRD and ACCWR touch one column in their group's issue order (R283): `cells` are the entries with which they are not ordered. -/
def State.colTouches (s : State) (rows : List Nat) (col : Nat) (cells : List Nat) (into : AccInto) : State :=
  let u : AccUse := { gidx := s.owner.gidx, stamp := some s.owner.issueNo, batch := none, rows, col, cols := 1, into }
  (s.modSeq s.cg.team fun q => q.openCells s.tick cells).modCt fun x => { x with order := { x.order with uses := x.order.uses ++ [u] } }

/-- The entries of a column with which the issuing group is not ordered. -/
def State.colOpen (s : State) (rows : List Nat) (col : Nat) : List Nat :=
  s.ct.order.formOpen (s.ct.order.knows s.owner.gidx seqParty) rows col 1

/-- ACCRD (R282): an unchecked result; of an entry with which it is not ordered it reads an undefined value (R283). -/
def execAccrd (f : ENF) (s : State) : Host.Outcome State Fault Refusal :=
  ok (s.unlessAhead fun s =>
    match s.accCol f with
    | none => s.userTrap 0x0A 0
    | some (r, c, q) =>
      let act := s.act f.msk
      let rows := (lanesOf act).map (r + ·)
      let q1 := q.openCells s.tick (s.colOpen rows c)
      (s.colTouches rows c (s.colOpen rows c) (.regs s.cur.g s.cg.issueNo f.dst.toNat f.ty.regs r)).issue f.y fun x => x.send false
        (vWrites f.dst.toNat f.ty.regs (fun L => accForm f.ty (q1.entry (r + L) c)) act (fullBits f.ty.regs)) [])

/-- ACCWR (R282): its source is the vector register that DST names. -/
def execAccwr (f : ENF) (s : State) : Host.Outcome State Fault Refusal :=
  ok (s.unlessAhead fun s =>
    match s.accCol f with
    | none => s.userTrap 0x0A 0
    | some (r, c, _) =>
      let x := s.cg
      let act := s.act f.msk
      let rows := (lanesOf act).map (r + ·)
      ((s.modSeq x.team fun q => (lanesOf act).foldl (fun q L =>
        q.setEntry (r + L) c (accOfForm f.ty (x.vlane f.dst.toNat f.ty.regs L))) q).colTouches rows c (s.colOpen rows c) .none).advance f.y)

end Sys2Proof.Machine
end

