-- ==== Sys2Proof/Machine/Control.lean ====
section
/-! DEFINITION. Class 1: branches, loops, reconvergence and exit (R140-R160), with the allocation forms of class 11 (R115-R120)
and the events of lane sets and compaction (R115, R137, R151, R165). -/

namespace Sys2Proof.Machine
open Sys2Proof

/-! ## Branches (R141-R143) -/

/-- The target of a BR form (R141). -/
def State.brTarget (s : State) (f : BRF) : DWord := if f.l then f.lit else s.cur.pc + (f.off.signExtend 64 <<< 3)

/-- A target from a register that no lane may go to (R141). -/
def badTarget (t : DWord) : Bool := bits t 57 7 != 0 || bits t 0 3 != 0

/-- Whether CPT marks candidates: outside fresh groups and run-ahead only (R151, R152, R347). -/
def State.cptOf (s : State) (cpt : Bool) : Option Nat := if cpt && s.cg.homes.isEmpty && s.cg.ra.isNone then some s.pkg.cycles else none

/-- The lanes that go to none of the targets. -/
def LaneSet.fallOf (l : LaneSet) (ts : List (DWord × Word)) : Word := l.lanes &&& ~~~(ts.foldl (fun m t => m ||| t.2) 0)

/-- The division of entry `e` among targets that lanes go to needs a divergence-stack record (R347). -/
def Group.divideNeedsRecord (g : Group) (e : Nat) (ts : List (DWord × Word)) : Bool :=
  ((List.range 4).filter fun i => (g.set i).st == .empty).length + (if (g.set e).fallOf ts == 0 then 1 else 0) < ts.length

/-- The issuing split, once `k` has acted, divided among targets; lanes in none of them fall through, after their end check (R143, R157).
A division that R347 holds back has no effect. -/
def State.branchWith (s : State) (k : State → State) (y cpt : Bool) (ts : List (DWord × Word)) : State :=
  let ts := ts.filter fun t => t.2 != 0
  if s.cg.ra.isSome && s.cg.divideNeedsRecord s.cur.e ts then s.stallAhead
  else
    let s := k s
    let g := s.cg
    let fall := s.cset.fallOf ts
    let r := endCheck s.cur.pc g.loops g.regs.lc s.afterPc
    let g1 := if fall == 0 then g else { g with loops := r.2.1, regs := { g.regs with lc := r.2.2.1 } }
    (s.settleAt s.cur.g (g1.divide s.cur.e y (s.cptOf cpt) fall r.1 ts).counted).dropCaptures s.cur.g
      (if fall == 0 then [] else r.2.2.2)

/-- The issuing split divided among targets. -/
def State.branch (s : State) (y cpt : Bool) (ts : List (DWord × Word)) : State := s.branchWith id y cpt ts

/-- The faults of the lanes that would go to a target: PCALIGN for a bad one from a register, else what fetching there meets (R141). -/
def State.targetFaults (s : State) (reg : Bool) (t : DWord × Word) : List LaneFault :=
  if reg && badTarget t.1 then
    (lanesOf t.2).map fun i => { lane := i, code := 0x03, elem := 0, va := t.1, info := t.1, flags := 0 }
  else match s.codeWord s.cur.g t.1.toNat with
    | .ok _ => []
    | .error x => (lanesOf t.2).map fun i =>
      { lane := i, code := x.code, sub := x.sub, elem := 0, va := t.1, info := x.info, flags := 2 }

/-- A lane-kind branch: the lanes whose target faults park at the branch (R141), and the split divides among the other targets. -/
def State.branchTo (s : State) (reg y cpt : Bool) (ts : List (DWord × Word)) : State :=
  s.laneFaults (ts.flatMap (s.targetFaults reg)) fun s' => s'.branch y cpt (ts.filter fun t => (s.targetFaults reg t).isEmpty)

/-- The condition of BRT in each lane (R142). -/
def brtLanes (g : Group) (f : BRF) (act : Word) : Word :=
  if f.pk then (if g.sreg f.pred.toNat != 0 then act else 0) else act &&& g.mreg f.pred.toNat

/-- The condition of BRF in each lane (R142). -/
def brfLanes (g : Group) (f : BRF) (act : Word) : Word :=
  if f.pk then (if g.sreg f.pred.toNat == 0 then act else 0) else act &&& ~~~(g.mreg f.pred.toNat)

/-- BRA (R142). -/
def execBra (f : BRF) (s : State) : Host.Outcome State Fault Refusal :=
  ok (s.branchTo false f.y f.cpt [(s.brTarget f, s.act f.msk)])
/-- BRT (R142). -/
def execBrt (f : BRF) (s : State) : Host.Outcome State Fault Refusal :=
  ok (s.branchTo false f.y f.cpt [(s.brTarget f, brtLanes s.cg f (s.act f.msk))])
/-- BRF (R142). -/
def execBrf (f : BRF) (s : State) : Host.Outcome State Fault Refusal :=
  ok (s.branchTo false f.y f.cpt [(s.brTarget f, brfLanes s.cg f (s.act f.msk))])
/-- BANY: the whole split, when some active lane's bit is 1 (R142). -/
def execBany (f : BRF) (s : State) : Host.Outcome State Fault Refusal :=
  ok (s.branchTo false f.y f.cpt
    [(s.brTarget f, if s.act f.msk &&& s.cg.mreg f.pred.toNat != 0 then s.cset.lanes else 0)])
/-- BALL: the whole split, when every active lane's bit is 1; an empty active set has no effect (R142). -/
def execBall (f : BRF) (s : State) : Host.Outcome State Fault Refusal :=
  let a := s.act f.msk
  ok (s.branchTo false f.y f.cpt
    [(s.brTarget f, if a != 0 && a &&& ~~~(s.cg.mreg f.pred.toNat) == 0 then s.cset.lanes else 0)])

/-- The link pair written, when some lane is active (R144). -/
def State.link (s : State) (dst : Nat) (act : Word) : State :=
  if act == 0 then s else s.modCg fun g => g.put false (sWrites dst 2 s.afterPc.toNat (fullBits 2))

/-- A call: as a branch of lanes `act` to `t`, with the link written where lanes go there (R141, R144). -/
def State.callTo (s : State) (reg y : Bool) (dst : Nat) (t : DWord) (act : Word) : State :=
  let fs := s.targetFaults reg (t, act)
  s.laneFaults fs fun s' =>
    if fs.isEmpty then s'.branchWith (fun s => s.link dst act) y false [(t, act)] else s'.branch y false []

/-- CALL (R141, R144). -/
def execCall (f : BRF) (s : State) : Host.Outcome State Fault Refusal :=
  ok (s.callTo false f.y f.dst.toNat (s.brTarget f) (s.act f.msk))
/-- JMPR (R141). -/
def execJmpr (f : SPF) (s : State) : Host.Outcome State Fault Refusal :=
  ok (s.branchTo true f.y false [(s.cg.spair f.sa.toNat, s.act f.msk)])
/-- CALLR: the target is read before the link is written (R141, R144). -/
def execCallr (f : SPF) (s : State) : Host.Outcome State Fault Refusal :=
  ok (s.callTo true f.y f.dst.toNat (s.cg.spair f.sa.toNat) (s.act f.msk))
/-- RET acts as JMPR (R144). -/
def execRet (f : SPF) (s : State) : Host.Outcome State Fault Refusal :=
  ok (s.branchTo true f.y false [(s.cg.spair f.sa.toNat, s.act f.msk)])

/-- The lanes of a list of lanes with their targets, one set for each distinct target, ordered by lowest lane (R143). -/
def groupTargets : List (Nat × DWord) → List (DWord × Word)
  | [] => []
  | (i, t) :: rest =>
    let others := groupTargets rest
    match others.find? fun e => e.1 == t with
    | some e => (t, e.2 ||| (1#32 <<< i)) :: others.filter fun e => e.1 != t
    | none => (t, 1#32 <<< i) :: others

/-- JMPV: each active lane to its own target (R142, R143). -/
def execJmpv (f : SPF) (s : State) : Host.Outcome State Fault Refusal :=
  ok (s.branchTo true f.y false (groupTargets ((lanesOf (s.act f.msk)).map fun i =>
    (i, BitVec.ofNat 64 (s.cg.vlane f.sa.toNat 2 i)))))

/-! ## Loops (R156-R158) -/

/-- The loop stack with every record from the top down to that of counter `n` popped, if it has one, and what was popped. -/
def popLoops (n : Nat) (ls : List LoopRec) : List LoopRec × List LoopRec :=
  match ls.findIdx? fun r => r.n == n with
  | some i => (ls.drop (i + 1), ls.take (i + 1))
  | none => (ls, [])

/-- The whole split moved to `pc`, without an end check: a taken branch (R157). -/
def State.jump (s : State) (y : Bool) (pc : DWord) : State :=
  s.settleAt s.cur.g (s.cg.putSet s.cur.e ((s.cg.set s.cur.e).moved s.cg y pc)).counted

/-- LOOP (R156).  A count of 0 goes on after the end instruction; where that instruction cannot be fetched, the split's lanes
fault as its fetch does (R141). -/
def execLoop (f : BRF) (s : State) : Host.Outcome State Fault Refusal :=
  let n := f.sel.toNat
  let stop := s.brTarget f
  let g := s.cg
  let raw := if f.pk then g.sreg f.pred.toNat else f.fn.setWidth 32
  let count := if raw == ones32 then 0 else raw
  let (ls, popped) := popLoops n g.loops
  let s1 := (s.modCg fun g => { g with loops := ls, regs := { g.regs with lc := vecPut g.regs.lc n count } }).dropCaptures
    s.cur.g popped
  ok (if count == 0 then
      match s.after s.cur.g stop with
      | .ok a => s1.jump f.y a
      | .error x => s.laneFaults ((lanesOf s.cset.lanes).map fun i =>
          { lane := i, code := x.code, sub := x.sub, elem := 0, va := stop, info := x.info, flags := 2 }) id
    else (s1.modCg fun g => { g with loops := { n, start := s.afterPc, stop } :: g.loops }).advance f.y)

/-- A branch of the whole split: its lanes park at the branch where the target cannot be fetched (R141), else `k` goes on. -/
def State.splitTo (s : State) (t : DWord) (k : State → State) : State := s.laneFaults (s.targetFaults false (t, s.cset.lanes)) k

/-- LDEC (R158). -/
def execLdec (f : BRF) (s : State) : Host.Outcome State Fault Refusal :=
  let n := f.sel.toNat
  let c := vecAt s.cg.regs.lc n 0
  let c' := if c == 0 then 0 else c - 1
  let put (s : State) : State := s.modCg fun g => { g with regs := { g.regs with lc := vecPut g.regs.lc n c' } }
  let t := s.brTarget f
  ok (if c' == 0 then (put s).advance f.y else s.splitTo t fun s => (put s).jump f.y t)

/-- LEXIT (R158). -/
def execLexit (f : BRF) (s : State) : Host.Outcome State Fault Refusal :=
  let t := s.brTarget f
  ok (s.splitTo t fun s =>
    let (ls, popped) := popLoops f.sel.toNat s.cg.loops
    ((s.modCg fun g => { g with loops := ls }).dropCaptures s.cur.g popped).jump f.y t)

/-- LCRD (R158). -/
def execLcrd (f : SPF) (s : State) : Host.Outcome State Fault Refusal :=
  ok (s.issue f.y fun g => g.put false [.s f.dst.toNat (vecAt g.regs.lc f.sel.toNat 0) ones32])
/-- LCWR (R158). -/
def execLcwr (f : SPF) (s : State) : Host.Outcome State Fault Refusal :=
  ok (s.issue f.y fun g => { g with regs := { g.regs with lc := vecPut g.regs.lc f.sel.toNat (g.sreg f.sa.toNat) } })

/-! ## JOIN, EXIT and the rest (R146, R160) -/

/-- Lanes `m` of entry `e` parked in the JOIN set at `pc`, which forms with the rejoin set `rj` (R146); the other lanes stay
in the entry. -/
def Group.parkJoin (g : Group) (e : Nat) (pc : DWord) (m rj : Word) (waits : List Nat) : Group :=
  let l := g.set e
  let rest : LaneSet := if l.lanes &&& ~~~m == 0 then {} else { l with lanes := l.lanes &&& ~~~m }
  let here (x : LaneSet) : Bool := x.st == .join && x.pc == pc
  let g1 := g.putSet e rest
  if g.sets.toList.any here || g.stack.any here then
    let f (x : LaneSet) : LaneSet := if here x then { x with lanes := x.lanes ||| m, waits := x.waits ++ waits } else x
    { g1 with sets := vecMap f g1.sets, stack := g1.stack.map f }
  else
    let j : LaneSet := { lanes := m, rj, st := .join, pc, waits }
    if l.lanes &&& ~~~m == 0 then g.putSet e j else g1.addSet j

/-- Parking lanes `m` of entry `e` in JOIN at `pc` needs a divergence-stack record (R347). -/
def Group.joinNeedsRecord (g : Group) (e : Nat) (pc : DWord) (m : Word) : Bool :=
  (g.set e).lanes &&& ~~~m != 0 && g.freeEntry.isNone && !(g.sets.toList ++ g.stack).any fun x => x.st == .join && x.pc == pc

/-- JOIN (R146): lanes outside MSK fall through; in run-ahead it waits where it needs a stack record (R347). -/
def execJoin (f : SPF) (s : State) : Host.Outcome State Fault Refusal :=
  ok (s.unlessFresh fun s =>
    let a := s.act f.msk
    if a == 0 then s.advance f.y
    else if s.cg.ra.isSome && s.cg.joinNeedsRecord s.cur.e s.cur.pc a then s.stallAhead
    else
      let rj := (s.cg.mreg f.sa.toNat ||| a) &&& s.cg.live
      let s1 := s.modCg fun g => g.parkJoin s.cur.e s.cur.pc a rj
        (if f.y then g.out.map (·.n) else [])
      (if s.cset.lanes &&& ~~~a == 0 then s1.settleAt s.cur.g s1.cg.counted else s1.advance f.y).locks s.cur.g)

/-- EXIT (R139, R160); it waits in run-ahead (R347). -/
def execExit (f : SPF) (s : State) : Host.Outcome State Fault Refusal :=
  ok (s.unlessAhead fun s =>
    let a := s.act f.msk
    let rest := s.cset.lanes &&& ~~~a
    let s1 := if rest == 0 then s.modCg Group.counted else s.advance f.y
    let homes := homesOf s.cg.homes
    let t := s1.endLanes s.cur.g a
    homes.foldl (fun s h => s.locks h) (t.locks s.cur.g))

/-- MACT (R160). -/
def execMact (f : SPF) (s : State) : Host.Outcome State Fault Refusal :=
  ok (s.issue f.y fun g => g.put false [.m f.dst.toNat (g.active s.cur.e f.msk) ones32])
/-- NOP (R160). -/
def execNop (f : SPF) (s : State) : Host.Outcome State Fault Refusal := ok (s.advance f.y)
/-- YIELD: the issuing split's age becomes 0, as every issue leaves it (R160, R165). -/
def execYield (f : SPF) (s : State) : Host.Outcome State Fault Refusal := ok (s.advance f.y)

/-! ## Allocation (R115-R119) -/

/-- XACQ (R115): no effect with a block; REGRANGE without an allowance; else the group waits in the queue of its team. -/
def execXacq (f : SPF) (s : State) : Host.Outcome State Fault Refusal :=
  ok (s.unlessAhead fun s => s.unlessFresh fun s =>
    if s.cg.ext then s.advance f.y
    else if s.cg.evlim < 64 then s.userTrap 0x03 0
    else ((s.modCt fun t => { t with xq := t.xq ++ [s.cur.g] }).modCg fun g => { g with xwait := true }).locks s.cur.g)

/-- A cleared extended block (R115). -/
def Regs.clearExt (r : Regs) : Regs :=
  { r with v := Vector.ofFn fun k => if k.val < 64 then vecAt r.v k.val (Vector.replicate 32 0) else Vector.replicate 32 0 }

/-- A freed block of team `t` is cleared and bound to the oldest waiting group, whose XACQ then has nothing to wait for
(R115). -/
def execExtendedBlockGrant (t : Nat) (s : State) : Host.Outcome State Fault Refusal :=
  ok (match (s.team t).xq with
    | [] => s
    | g :: rest =>
      if (s.team t).xfree == 0 then s
      else (s.modTeam t fun x => { x with xq := rest, xfree := x.xfree - 1 }).modGroup g fun x =>
        { x with ext := true, xwait := false, regs := x.regs.clearExt })

/-- XREL (R116): waits for the results to v64-v127 that are outstanding when it issues (R162), then the block returns to the
reservation. -/
def execXrel (f : SPF) (s : State) : Host.Outcome State Fault Refusal :=
  ok (s.unlessAhead fun s => s.unlessFresh fun s =>
    if !s.cg.ext then s.advance f.y
    else if s.cset.fsnap == none && !s.cg.extPending.isEmpty then s.await s.cg.extPending 0
    else ((s.modCt fun t => { t with xfree := t.xfree + 1 }).modCg Group.dropExt).advance f.y)

/-- DONATE (R117): one arrival on bN, stalled as BARRIVE is while this phase has it already; the result comes when the
phase completes. -/
def execDonate (f : SPF) (s : State) : Host.Outcome State Fault Refusal :=
  ok (s.barrierForm fun s => s.whenBanked fun s =>
    let b := f.sel.toNat % 16
    let g := s.cg
    let x := s.ct.bar b
    if x.arrived g.gidx then (s.stallAt 0 (.arrive b)).locks s.cur.g
    else
      let d : Donation :=
        { bar := b, phase := x.ph, donor := s.cur.g, recipient := g.sreg f.sa.toNat, dst := f.dst.toNat, n := g.issueNo }
      let s1 := (s.modCt fun t => { t with don := t.don ++ [d] }).modCg fun g =>
        { g with out := g.out ++ [{ n := g.issueNo, t := false, ws := [], fls := [], ready := false }] }
      (s1.advance f.y).arrive g.team b g.gidx)

/-! ## Events of lane sets and compaction (R137, R147, R151, R165) -/

/-- The oldest record of the stack moves into a free entry; when four parked sets hold the entries and a DEFER record waits,
the JOIN or BAR entry of highest index is written to the stack first and the DEFER record loaded (R137, R147). -/
def execDeferRecordLoad (g : Nat) (s : State) : Host.Outcome State Fault Refusal :=
  let x := s.group g
  let load (l : LaneSet) : LaneSet := if l.st == .defer then { l with st := .ready } else l
  ok (match x.freeEntry with
    | some e => match x.stack with
      | [] => s
      | l :: rest => s.settleAt g ({ x with stack := rest }.putSet e (load l))
    | none =>
      let parked (l : LaneSet) : Bool := l.st == .join || l.st == .bar
      match [3, 2, 1, 0].find? (fun e => parked (x.set e)), x.stack.find? (fun l => l.st == .defer) with
      | some e, some d =>
        if (List.range 4).all (fun e => parked (x.set e)) then
          s.settleAt g ({ x with stack := x.stack.erase d ++ [x.set e] }.putSet e (load d))
        else s
      | _, _ => s)

/-- A candidate that found no partner runs on in its own group (R151). -/
def execCompactionTimeout (g e : Nat) (s : State) : Host.Outcome State Fault Refusal :=
  ok (s.modGroup g fun x => (x.putSet e { x.set e with cand := none }).settle)

/-- A split's age reaches AgeCap (R165). -/
def execAgeCap (g e : Nat) (s : State) : Host.Outcome State Fault Refusal :=
  ok (s.modGroup g fun x => x.putSet e { x.set e with age := 1024 })

/-- Whether a candidate may join a fresh group being formed with the first one (R151): original groups of one team, quarter
and role, alike in their extended block, at one PC, with nothing outstanding and no run-ahead. -/
def State.mayCombine (s : State) (a b : Nat × Nat) : Bool :=
  let x := s.group a.1
  let y := s.group b.1
  x.team == y.team && x.quarter == y.quarter && x.role == y.role && x.ext == y.ext &&
  (x.set a.2).pc == (y.set b.2).pc && y.homes.isEmpty && !y.ended && (y.set b.2).cand.isSome && (y.set b.2).lanes != 0 &&
  y.out.isEmpty && y.ra.isNone && y.handler.isNone && y.trapReq.isNone

/-- The candidates that form one fresh group, in order: each disjoint in lanes from those before it (R151). -/
def State.chosen (s : State) (first : Nat × Nat) : Word → List (Nat × Nat) → List (Nat × Nat)
  | _, [] => []
  | used, c :: cs =>
    let m := ((s.group c.1).set c.2).lanes
    if s.mayCombine first c && used &&& m == 0 then c :: s.chosen first (used ||| m) cs else s.chosen first used cs

/-- The home and lane of each virtual lane of a fresh group (R150): threads in ascending VLANE. -/
def State.freshHomes (s : State) (cs : List (Nat × Nat)) : List (Nat × Nat) :=
  sortBy (fun a b => (s.group a.1).gidx * 32 + a.2 ≤ (s.group b.1).gidx * 32 + b.2)
    (cs.flatMap fun c => (lanesOf ((s.group c.1).set c.2).lanes).map fun p => (c.1, p))

/-- Registers of a fresh group (R152): vector lanes and mask bits of each thread, the rest a copy of the host's. -/
def State.freshRegs (s : State) (host : Group) (homes : List (Nat × Nat)) : Regs :=
  let at' (i : Nat) : Nat × Nat := homes.getD i (s.groups.length, i)
  { host.regs with
    v := Vector.ofFn fun r => vregOf fun i =>
      (laneOf (vecAt (s.group (at' i).1).regs.v r.val (Vector.replicate 32 0)) (at' i).2).toNat
    m := Vector.ofFn fun r => maskOf fun i => i < homes.length && bit (vecAt (s.group (at' i).1).regs.m r.val 0) (at' i).2
    fpflags := 0, status := host.regs.status &&& 1 }

/-- The compaction unit combines candidates into a fresh group, when at least two groups contribute (R151). -/
def execFreshGroupForm (cands : List (Nat × Nat)) (s : State) : Host.Outcome State Fault Refusal :=
  let cs := sortBy (fun a b => (s.group a.1).gidx ≤ (s.group b.1).gidx) cands.dedup
  ok (match cs with
    | [] => s
    | first :: _ =>
      let sel := s.chosen first 0 cs
      let quarterFull := ((s.groups.filter fun g => !g.homes.isEmpty && !g.ended &&
        (s.team g.team).core == (s.team (s.group first.1).team).core && g.quarter == (s.group first.1).quarter).length) ≥ 4
      if (sel.map (·.1)).dedup.length < 2 || quarterFull then s
      else
        let host := s.group first.1
        let homes := s.freshHomes sel
        let n := maskOf fun i => i < homes.length
        let fresh : Group :=
          { host with
            live := n, present := n, regs := s.freshRegs host homes, homes, lent := 0, win := [], out := [], stack := [],
            sets := vecPut (Vector.replicate 4 {}) 0 { lanes := n, st := .ready, pc := (host.set first.2).pc },
            folds := Vector.replicate 4 {}, batches := {}, host := first.1, ra := none, handler := none, trapReq := none, retype := none, invs := [], xwait := false }
        let s1 := sel.foldl (fun s c => s.modGroup c.1 fun x =>
          { x.putSet c.2 {} with lent := x.lent ||| (x.set c.2).lanes }) s
        { s1 with groups := s1.groups ++ [fresh] })

end Sys2Proof.Machine
end

