-- ==== Sys2Proof/Machine/Fold.lean ====
section
/-! DEFINITION. Class 9: folds and the collective branch (R336-R357), with the fold unit of the package as the root of its folds
(log 15). -/

namespace Sys2Proof.Machine
open Sys2Proof

/-! ## Messages (R341, R345) -/

/-- The source key of a message to the fold unit. -/
def foldSrc : Msg → Option Nat
  | .join _ key _ | .leave _ key | .contribution _ _ key _ _ => some key
  | _ => none

/-- The message is on its way with none before it from the same source. -/
def State.firstOf (s : State) (m : Msg) : Bool := (s.msgs.find? fun x => foldSrc x == foldSrc m) == some m

/-- A key of this package (R341). -/
def State.ownKey (s : State) (key : Nat) : Bool := key / 2 ^ 14 == s.pkg.num.toNat

/-- A message reaches the fold unit: one of this package's is taken from those on their way, in order; one of another package comes from
outside. -/
def State.arrival (s : State) (m : Msg) (key : Nat) (k : State → State) : State :=
  if s.firstOf m then k { s with msgs := s.msgs.erase m }
  else if s.ownKey key then s
  else k s

/-- The slots of original groups that a condition picks. -/
def State.slotWhere (s : State) (p : FoldSlot → Bool) : Option (Nat × Nat) :=
  ((List.range s.groups.length).flatMap fun g => (List.range 4).map fun k => (g, k)).find? fun x =>
    (s.group x.1).homes.isEmpty && !(s.group x.1).ended && p ((s.group x.1).fold x.2)

/-- The group and slot that a key of fold `id` names as a member. -/
def State.memberOf (s : State) (id key : Nat) : Option (Nat × Nat) := s.slotWhere fun f => f.key == key && f.valid && f.fid == id
/-- The group and slot that wait to join fold `id` under a key; a member that has moved may have the same one (R341). -/
def State.joinerOf (s : State) (id key : Nat) : Option (Nat × Nat) := s.slotWhere fun f => f.key == key && f.joining == some id

/-- An answer of the fold unit to a member or a joining group: here, or in another package. -/
def State.answer (s : State) (who : Option (Nat × Nat)) (key : Nat) (here : Nat → Nat → Msg) (away : Msg) : State :=
  match who with
  | some (g, k) => s.send (here g k)
  | none => if s.ownKey key then s else { s with out := s.out ++ [away] }

/-! ## The fold unit (R341, R342, R344, R345) -/

def State.foldOf (s : State) (id : Nat) : Option Fold := s.pkg.folds.find? fun f => f.id == id
def State.dropFold (s : State) (id : Nat) : State := { s with pkg := { s.pkg with folds := s.pkg.folds.filter fun f => f.id != id } }

/-- The fold has ceased to exist: what was kept of its collectives goes (R342, R371). -/
def State.endFold (s : State) (id : Nat) : State :=
  let t := s.dropFold id
  { t with
    teams := t.teams.map fun (x : Team) => { x with colls := x.colls.filter fun c => c.fold != id || !c.done }
    pkg := { t.pkg with
      contribs := t.pkg.contribs.filter fun c => c.fold != id
      resvWait := t.pkg.resvWait.filter fun x => x.1 != id, resv := t.pkg.resv.map fun r => if r.any fun x => x.1 == id then none else r } }

/-- The collectives of a fold of which `key` is a participant fail where they have not completed (R371). -/
def State.failColls (s : State) (id key : Nat) : State :=
  let hit (c : Coll) : Coll :=
    if c.fold == id && c.participants.contains key && !c.done && c.fail.isNone then { c with fail := some 2 } else c
  { s with teams := s.teams.map fun (x : Team) => { x with colls := x.colls.map hit } }

def State.putFold (s : State) (f : Fold) : State :=
  let t := s.dropFold f.id
  { t with pkg := { t.pkg with folds := t.pkg.folds ++ [f] } }

/-- The members that have not left. -/
def Fold.rest (f : Fold) : List Nat := f.members.filter fun k => !f.left.contains k

/-- The direction of a vote (R344). -/
def voteTaken (mode : VoteMode) (t n : Nat) : Bool :=
  match mode with
  | .all => t == n
  | .any => t ≥ 1
  | .maj => 2 * t > n

/-- The result over the contributions of the members that remain, in rank order (R344). -/
def Fold.resultOf (f : Fold) : VoteRes :=
  let cs := f.rest.filterMap fun k => f.contribs.find? fun c => c.1 == k
  let t := (cs.filter (·.2.1)).length
  let mode := (cs.head?.map (·.2.2)).getD .all
  { fold := f.id, vote := f.next, taken := voteTaken mode t cs.length, t, n := cs.length, deg := !f.left.isEmpty, mix := cs.any fun c => c.2.2 != mode }

/-- The open vote of a fold resolved if every remaining member has contributed; a fold without members is gone (R342). -/
def State.resolveFold (s : State) (id : Nat) : State :=
  match s.foldOf id with
  | none => s
  | some f =>
    if !f.formed then (if f.members.isEmpty then s.dropFold id else s)
    else if f.rest.isEmpty then s.endFold id
    else if f.rest.all fun k => f.contribs.any fun c => c.1 == k then
      let r := f.resultOf
      f.rest.foldl (fun s key => s.answer (s.memberOf id key) key (fun g k => .result g k r) (.remoteResult key id r))
        (s.putFold { f with next := f.next + 1, contribs := [] })
    else s

/-- The root of a fold with these members: the core that holds them all, the FED of the package that holds them all, else a switch (R345). -/
def foldRoot (ms : List Nat) : FoldRoot :=
  match ms with
  | [] => .fed
  | k :: ks =>
    if ks.all fun j => j / 64 == k / 64 then .core (k / 64)
    else if ks.all fun j => j / 2 ^ 14 == k / 2 ^ 14 then .fed
    else .pod

/-- The members of this package that have not left have all contributed. -/
def State.ownVoted (s : State) (f : Fold) : Bool :=
  f.rest.all fun k => !s.ownKey k || f.contribs.any fun c => c.1 == k

/-- A message of another package's member is acknowledged, a repeated one too (R345). -/
def State.foldAck (s : State) (id : Nat) (vote : Option Word) (key : Nat) : State :=
  if s.ownKey key then s else { s with out := s.out ++ [.foldAck id vote key] }

/-- What goes on to a switch that is the root: the votes of this package together, once the last of them is there, and each leave (R345). -/
def State.forward (s : State) (f : Fold) (key : Nat) (m : Msg) : State :=
  if f.root == some .pod && s.ownKey key then { s with out := s.out ++ [m] } else s

/-- A fold with its joins complete: ranks in ascending key (R341). -/
def State.formFold (s : State) (f : Fold) : State :=
  if f.members.length < f.size then s.putFold f
  else
    let ms := sortBy (fun a b => a ≤ b) f.members
    (ms.zipIdx).foldl (fun s m => s.answer (s.joinerOf f.id m.1) m.1 (fun g k => .formed g k m.2 f.size) (.remoteFormed m.1 f.id m.2 f.size))
      (s.putFold { f with members := ms, formed := true, root := some (foldRoot ms) })

/-- A join counted or refused at the root (R341).  After formation a join under the key of a member is another group's, whose member has moved
to another core. -/
def State.foldJoin (s : State) (id key size : Nat) : State :=
  let refuse (sub : Nat) : State := s.answer (s.joinerOf id key) key (fun g k => .refused g k sub) (.remoteRefused key id sub)
  match s.foldOf id with
  | none => s.formFold { id, size, members := [key], left := [], formed := false, next := 0, contribs := [] }
  | some f =>
    if f.formed then refuse 0x06
    else if f.size != size then refuse 0x05
    else if f.members.contains key then s
    else s.formFold { f with members := f.members ++ [key] }

/-- A leave: a join withdrawn, or a member gone with its contribution (R341, R342). -/
def State.foldLeave (s : State) (id key : Nat) : State :=
  match s.foldOf id with
  | none => s
  | some f =>
    if !f.members.contains key then s
    else if !f.formed then (s.putFold { f with members := f.members.erase key }).resolveFold id
    else (((s.failColls id key).forward f key (.leave id key)).putFold { f with
      left := if f.left.contains key then f.left else f.left ++ [key]
      contribs := f.contribs.filter fun c => c.1 != key }).resolveFold id

/-- A contribution counted once (R345). -/
def State.foldContribute (s : State) (id : Nat) (vote : Word) (key : Nat) (p : Bool) (mode : VoteMode) : State :=
  match s.foldOf id with
  | none => s
  | some f =>
    if f.formed && f.rest.contains key && vote == f.next && !f.contribs.any (fun c => c.1 == key) then
      let g := { f with contribs := f.contribs ++ [(key, p, mode)] }
      let t := if s.ownVoted g then s.forward g key (.combined id vote (g.contribs.filter fun c => s.ownKey c.1)) else s
      (t.putFold g).resolveFold id
    else s

/-- A join reaches the root (R341). -/
def execFoldJoinMessage (id key size : Nat) (s : State) : Host.Outcome State Fault Refusal :=
  ok (s.arrival (.join id key size) key fun s => s.foldJoin id key size)
/-- A leave reaches the combiner (R342). -/
def execFoldLeave (id key : Nat) (s : State) : Host.Outcome State Fault Refusal :=
  ok (s.arrival (.leave id key) key fun s => (s.foldAck id none key).foldLeave id key)
/-- A contribution reaches a combiner (R345). -/
def execFoldContribution (id : Nat) (vote : BitVec 32) (key : Nat) (p : Bool) (mode : VoteMode) (s : State) :
    Host.Outcome State Fault Refusal :=
  ok (s.arrival (.contribution id vote key p mode) key fun s => (s.foldAck id (some vote) key).foldContribute id vote key p mode)

/-! ## What a group does at its slots -/

def State.modFold (s : State) (g k : Nat) (f : FoldSlot → FoldSlot) : State :=
  s.modGroup g fun x => x.setFold k (f (x.fold k))

/-- The group's split stands where slot `k` waits, and may go on. -/
def State.standsAt (s : State) (g : Nat) (c : CbrAt) : Bool :=
  let x := s.group g
  (s.team x.team).st == .resident && (x.set c.entry).pc == c.pc && (x.set c.entry).st == .ready && (x.set c.entry).lanes != 0 &&
    !x.ended && !x.held && (x.handler.isNone || x.handles (x.set c.entry)) && x.trapReq.isNone

/-- The state in which a waiting instruction of group `g` completes. -/
def State.resumeAt (s : State) (g : Nat) (c : CbrAt) : State :=
  { s with cur := { s.cur with g, e := c.entry, pc := c.pc, size := c.size } }

/-- A CBR goes on in its direction (R343). -/
def State.cbrGo (s : State) (y taken : Bool) (target : DWord) : State := if taken then s.jump y target else s.advance y

/-- The class 9 forms: a member that was cut off takes FOLDLOST first (R356), in run-ahead after the result (R347). -/
def State.foldForm (s : State) (k : Nat) (body : State → State) : State :=
  match (s.cg.fold k).lost, (s.cg.fold k).valid with
  | some (id, v), false =>
    if s.cg.ra.isSome then s.stallAhead
    else (s.modFold s.cur.g k fun f => { f with lost := none }).groupFault s.cur.g 0x11 s.cur.pc (v ++ 0#20 ++ BitVec.ofNat 12 id)
  | _, _ => body s

/-- FOLDBAD (R357). -/
def State.foldBad (s : State) (sub : Nat) : State := s.userTrap 0x0B sub

/-- A contribution sent for the next vote of a slot. -/
def State.contribute (s : State) (g k : Nat) (p : Bool) (mode : VoteMode) : State :=
  let f := (s.group g).fold k
  s.send (.contribution f.fid f.vnum f.key p mode)

/-- FVOTE's effect on a slot (R352). -/
def State.preVote (s : State) (g k : Nat) (p : Bool) (mode : VoteMode) : State :=
  (s.contribute g k p mode).modFold g k fun f => { f with pre := true }

/-! ## Run-ahead ends (R349, R350) -/

/-- The place of a held store, as an element of its instruction. -/
def HeldStore.elem (h : HeldStore) : Elem := { place := h.w.place, nib := h.w.nib, bytes := h.w.bytes, leaf := none }

/-- One held element write of group `g` performed; the error is the fault that it meets: a line poisoned that its instruction does not
clear, or a value that an I/O entry refuses (R418, R438). -/
def State.performOne (s : State) (g : Nat) (clear : List Nat) (h : HeldStore) : Except (Nat × DWord) State :=
  let t := s.team (s.group g).team
  let rel := if h.cls == .syn then some (s.core17 g, h.sc) else none
  match (s.poisonAt h.w.place).filter fun _ => !h.w.place.onLine clear with
  | some x => .error (x.code, x.info)
  | none => (s.writePlace t.core (.group t.ctx) h.cls h.sc rel h.w).map fun s1 =>
      if h.cls == .syn then s1.modHb fun x => x.release h.w.place h.w.bytes rel (groupParty g) else s1

/-- The element writes of one held instruction performed, with its first fault. -/
def State.performAll (s : State) (g : Nat) (clear : List Nat) : List HeldStore → State × Option (Nat × DWord)
  | [] => (s, none)
  | h :: hs => match s.performOne g clear h with
    | .ok t => t.performAll g clear hs
    | .error e => let r := s.performAll g clear hs; (r.1, some e)

/-- The held stores performed in issue order, each as an ordinary store of its instruction (R349): a tracked one clears the poison of a line
that it covers whole (R438).  A fault that one meets is a fault of the group, whose store has issued long since (DESIGN CHOICE, log 15). -/
def State.performHeld (s : State) (g : Nat) (hs : List HeldStore) : State :=
  (hs.map (·.n)).dedup.foldl (fun s n =>
    let mine := hs.filter fun x => x.n == n
    let clear := coveredLines ((mine.filter fun x => tracked x.cls x.sc).map (·.elem))
    let r := s.performAll g clear mine
    let t := { r.1 with mem := r.1.mem.unpoison clear }
    match r.2 with
    | none => t
    | some (code, info) => t.groupFault g code 0 info) s

/-- Run-ahead confirmed (R349, R111). -/
def State.confirmAhead (s : State) (g : Nat) (r : RunAhead) : State :=
  let c := (s.team (s.group g).team).ctx
  ((s.modGroup g fun x => { x with ra := none }).performHeld g r.stores).modCtx c fun y => { y with exc := addExc y.exc r.exc }

/-- A result applied to its slot and to STATUS (R343, R344). -/
def State.applyResult (s : State) (g k : Nat) (r : VoteRes) : State :=
  let s1 := s.modFold g k fun f =>
    { f with lastT := BitVec.ofNat 24 r.t, lastN := BitVec.ofNat 24 r.n, size := BitVec.ofNat 32 r.n, pend := false, wait := none,
             id := if r.deg then f.id ||| 0x40000000#32 else f.id }
  let s1 := s1.modFold g k fun f => if f.lost.isSome then { lost := f.lost } else f
  if r.mix then s1.modGroup g fun x => x.orStatus 0x10 else s1

/-- The first result on its way to slot `k` that a condition picks. -/
def State.resultThat (s : State) (g k : Nat) (p : VoteRes → Bool) : Option VoteRes :=
  s.msgs.findSome? fun m => match m with
    | .result g' k' r => if g' == g && k' == k && p r then some r else none
    | _ => none

/-- The result of the vote that slot `k` waits for, on its way to it. -/
def State.resultFor (s : State) (g k : Nat) : Option VoteRes :=
  let f := (s.group g).fold k
  s.resultThat g k fun r => r.fold == f.fid && r.vote + 1 == f.vnum

/-- The result of a vote that slot `k` has contributed to, by CBR or by FVOTE, on its way to it. -/
def State.resultOn (s : State) (g k : Nat) : Option VoteRes :=
  let f := (s.group g).fold k
  s.resultThat g k fun r => r.fold == f.fid && ((f.pend && r.vote + 1 == f.vnum) || (f.pre && r.vote == f.vnum))

/-- A result on its way to slot `k` that no vote of the slot waits for: its fold has been left. -/
def State.resultLost (s : State) (g k : Nat) : Option VoteRes :=
  let f := (s.group g).fold k
  s.resultThat g k fun r => !f.valid || r.fold != f.fid

/-- A vote result arrives: run-ahead is confirmed or rolled back, or the waiting group goes on (R343, R349, R350).  The fold unit keeps it
for a group that is not there to take it (R352, R355), and drops one of a fold that the slot has left. -/
def execVoteResult (g slot : Nat) (s : State) : Host.Outcome State Fault Refusal :=
  let x := s.group g
  let f := x.fold slot
  ok (match s.resultFor g slot with
    | none => match s.resultLost g slot with
      | some r => { s with msgs := s.msgs.erase (.result g slot r) }
      | none => s
    | some r =>
      let taken := { s with msgs := s.msgs.erase (.result g slot r) }
      if !f.valid then taken
      else if !f.pend || (s.team x.team).st != .resident then s
      else match x.ra, f.wait with
        | some a, _ =>
          if a.slot != slot then s
          else if a.predicted == r.taken && a.stores.any (fun h => s.waits h.w.place) then s.recallAll (a.stores.map (·.w.place))
          else if a.predicted == r.taken then ((taken.confirmAhead g a).applyResult g slot r).locks g
          else
            let t := ((taken.modGroup g Group.rollback).applyResult g slot r).resumeAt g a.cbr
            (t.cbrGo a.cbr.y r.taken a.cbr.target).locks g
        | none, some c =>
          if s.standsAt g c then ((taken.applyResult g slot r).resumeAt g c).cbrGo c.y r.taken c.target else s
        | none, none => s)

/-! ## The instructions (R341-R353) -/

/-- The bytes of an undo record of a register, by kind: vector, uniform, pointer, mask, loop counter, narrow format (R346). -/
def recordSize (kind : Nat) : Nat := match kind with | 0 => 136 | 2 => 24 | _ => 16

/-- What a run-ahead has in the undo log of its core: its header and its records. -/
def RunAhead.logBytes (r : RunAhead) : Nat := 256 + (r.logged.map fun e => recordSize e.1).foldl (· + ·) 0

/-- What the undo log of a core holds. -/
def State.logUsed (s : State) (core : Nat) : Nat :=
  (s.groups.map fun g => if (s.team g.team).core == core then (g.ra.map (·.logBytes)).getD 0 else 0).foldl (· + ·) 0

/-- The steps at which the requests for undo-log space of a core were made that still wait (R346). -/
def State.logAsks (s : State) (core : Nat) : List Nat :=
  s.groups.flatMap fun g => if (s.team g.team).core == core && !g.ended then g.sets.toList.filterMap (·.asks) else []

/-- The request of the issuing split for `n` bytes of its core's undo log is granted: there is room, and no older request waits (R346). -/
def State.logGrants (s : State) (n : Nat) : Bool :=
  s.logUsed s.ct.core + n ≤ 16384 && (s.logAsks s.ct.core).all fun a => s.cset.asks.getD s.tick ≤ a

/-- The issuing split stalls for undo-log space, its request in the order of issue (R346); `m` is what it has done. -/
def State.askLog (s : State) (m : Word) : State :=
  s.modCg fun g => g.putSet s.cur.e { g.set s.cur.e with stalled := true, served := m, asks := some (s.cset.asks.getD s.tick) }

/-- Run-ahead begins at the CBR being issued, once the undo log has room for its header (R346); until then the group stalls at it, its
contribution made (R343). -/
def State.beginAhead (s : State) (k : Nat) (c : CbrAt) : State :=
  let g := s.cg
  if !s.logGrants 256 then (s.modFold s.cur.g k fun x => { x with wait := some c }).askLog 1
  else
    let ra : RunAhead :=
      { slot := k, cbr := c, predicted := c.dir, startNo := g.issueNo, regs := g.regs
        sets := vecPut g.sets s.cur.e { s.cset with asks := none, served := 0, stalled := false }, stack := g.stack, loops := g.loops
        stores := [], issued := 0, exc := [] }
    ((s.modFold s.cur.g k fun x => { x with wait := none }).cbrGo c.y c.dir c.target).modGroup s.cur.g fun x => { x with ra := some ra }

/-- CBR (R343, R346). -/
def execCbr (f : BRF) (s : State) : Host.Outcome State Fault Refusal :=
  let k := f.sel.toNat
  ok (s.barrierForm fun s => s.foldForm k fun s =>
    let g := s.cg
    let sl := g.fold k
    let p := g.sreg f.pred.toNat != 0
    let at_ : CbrAt :=
      { entry := s.cur.e, pc := s.cur.pc, size := s.cur.size, target := s.brTarget f, y := f.y, dir := if bit f.fn 0 then f.hint else p }
    let stands := sl.pend && sl.wait.any (fun c => c.pc == s.cur.pc)
    if stands then (if s.cset.asks.isSome then s.beginAhead k ((sl.wait).getD at_) else s.stallWith 1)
    else if !sl.valid then s.foldBad 0x04
    else
      let mode := match f.mode.toNat with | 0 => VoteMode.all | 1 => .any | _ => .maj
      let s1 := if sl.pre then s else s.contribute s.cur.g k p mode
      let s2 := s1.modFold s.cur.g k fun x => { x with vnum := x.vnum + 1, pend := true, pre := false }
      if bit f.fn 1 then (s2.modFold s.cur.g k fun x => { x with wait := some at_ }).stallWith 1
      else s2.beginAhead k at_)

/-- Another slot of the group holds the id, or waits to join it. -/
def Group.holdsId (g : Group) (k id : Nat) : Bool :=
  (List.range 4).any fun j => j != k && (((g.fold j).valid && (g.fold j).fid == id) || (g.fold j).joining == some id)

/-- The local fold-table entry lets the group's context join (R338). -/
def State.mayJoin (s : State) (id : Nat) : Bool :=
  let e := lookupD s.pkg.foldTab id 0
  bit e 63 && bits e 32 16 == bits (s.ctx s.ct.ctx).cfg 32 16

/-- FJOIN (R341). -/
def execFjoin (f : SPF) (s : State) : Host.Outcome State Fault Refusal :=
  let k := (bits f.sel 0 2).toNat
  ok (s.unlessAhead fun s => s.foldForm k fun s =>
    let g := s.cg
    let sl := s.owner.fold k
    let v := g.sreg f.sa.toNat
    let id := (bits v 0 12).toNat
    if sl.joining.isSome && sl.wait.any (fun c => c.pc == s.cur.pc) then
      (s.modFold s.cur.g k fun x => { x with wait := x.wait.map fun c => { c with entry := s.cur.e } }).stallWith 1
    else if bits v 12 20 != 0 || sl.valid || sl.joining.isSome then s.foldBad 0x01
    else if s.owner.holdsId k id then s.foldBad 0x02
    else if !s.mayJoin id then s.foldBad 0x03
    else if !g.homes.isEmpty then s.foldBad 0x07
    else
      let key := s.foldKey s.cur.g
      let at_ : CbrAt := { entry := s.cur.e, pc := s.cur.pc, size := s.cur.size, target := 0, y := f.y }
      ((s.send (.join id key (bits (lookupD s.pkg.foldTab id 0) 0 24).toNat)).modFold s.cur.g k fun x =>
        { x with joining := some id, key, wait := some at_ }).stallWith 1)

/-- The formation message arrives, and the FJOIN completes (R341). -/
def execFoldFormed (g slot : Nat) (s : State) : Host.Outcome State Fault Refusal :=
  let f := (s.group g).fold slot
  let m := s.msgs.find? fun m => match m with | .formed g' k' _ _ => g' == g && k' == slot | _ => false
  ok (match m, f.joining, f.wait with
    | some (.formed a b rank size), some id, some c =>
      if !s.standsAt g c then s
      else
        let s1 := { s with msgs := s.msgs.erase (.formed a b rank size) }
        ((s1.modFold g slot fun x =>
          { x with id := 0x80000000#32 ||| BitVec.ofNat 32 id, rank := BitVec.ofNat 32 rank, size := BitVec.ofNat 32 size, vnum := 0,
                   pend := false, pre := false, lastT := 0, lastN := 0, joining := none, wait := none }).resumeAt g c).advance c.y
    | some x, none, _ => { s with msgs := s.msgs.erase x }
    | _, _, _ => s)

/-- A refusal returns: the joining split takes FOLDBAD at its FJOIN, and the slot stays empty (R341, R357). -/
def execJoinRefused (g slot sub : Nat) (s : State) : Host.Outcome State Fault Refusal :=
  let f := (s.group g).fold slot
  ok (if !s.msgs.contains (.refused g slot sub) then s
    else
      let s1 := { s with msgs := s.msgs.erase (.refused g slot sub) }
      match f.joining, f.wait with
      | some _, some c =>
        if !s.standsAt g c then s
        else
          let w := s.wordsAt g c.pc
          (s1.modGroup g fun x => x.setFold slot {}).trapGroup g
            { entry := c.entry, cause := 0x0B, sub, word := w.1, lit := w.2, pc := c.pc, waits := [], info := none, seqTeam := none }
      | _, _ => s1)

/-- FLEAVE (R342). -/
def execFleave (f : SPF) (s : State) : Host.Outcome State Fault Refusal :=
  let k := (bits f.sel 0 2).toNat
  ok (s.unlessAhead fun s => s.foldForm k fun s =>
    let sl := s.owner.fold k
    if !sl.valid then s.foldBad 0x04
    else if !s.cg.homes.isEmpty then s.foldBad 0x07
    else ((s.send (.leave sl.fid sl.key)).modFold s.cur.g k fun _ => {}).advance f.y)

/-- FVOTE (R352). -/
def execFvote (f : SPF) (s : State) : Host.Outcome State Fault Refusal :=
  let k := (bits f.sel 0 2).toNat
  ok (s.unlessAhead fun s => s.foldForm k fun s =>
    let sl := s.owner.fold k
    let mode := match (bits f.fn 0 2).toNat with | 0 => VoteMode.all | 1 => .any | _ => .maj
    if !sl.valid then s.foldBad 0x04
    else if !s.cg.homes.isEmpty then s.foldBad 0x07
    else if sl.pre || sl.pend then s.foldBad 0x08
    else (s.preVote s.cur.g k (s.cg.sreg f.sa.toNat != 0) mode).advance f.y)

/-- FCNT (R353). -/
def execFcnt (f : SPF) (s : State) : Host.Outcome State Fault Refusal :=
  let k := (bits f.sel 0 2).toNat
  ok (s.foldForm k fun s =>
    let sl := s.owner.fold k
    s.issue f.y fun g =>
      g.send false [.s f.dst.toNat (sl.lastT.setWidth 32) ones32, .s (f.dst.toNat + 1) (sl.lastN.setWidth 32) ones32] [])

/-- The status word of FPEND (R353); an empty slot reads as zeros. -/
def Group.fpendWord (g : Group) (k : Nat) : Word :=
  let f := g.fold k
  if !f.valid then 0
  else BitVec.ofBool f.pend ++ BitVec.ofBool f.pre ++ BitVec.ofBool g.ra.isSome ++ BitVec.ofBool f.valid ++ 0#12 ++ bits f.vnum 0 16

/-- FPEND (R353). -/
def execFpend (f : SPF) (s : State) : Host.Outcome State Fault Refusal :=
  let k := (bits f.sel 0 2).toNat
  ok (s.foldForm k fun s =>
    let w := s.owner.fpendWord k
    s.issue f.y fun g => g.send false [.s f.dst.toNat w ones32] [])

/-! ## Members cut off (R356) -/

/-- A member of this package cut off from the root: rolled back or interrupted with FOLDLOST, or told at its next class 9
instruction. -/
def State.cutOff (s : State) (id key : Nat) : State :=
  match s.memberOf id key with
  | none => s
  | some (g, k) =>
    let x := s.group g
    let f := x.fold k
    if !f.valid then s
    else
      let info : DWord := f.vnum ++ 0#20 ++ BitVec.ofNat 12 id
      let ahead := x.ra.any fun r => r.slot == k
      -- a result that has left the root is applied first
      if (s.resultOn g k).isSome then s.modFold g k fun f => { f with lost := some (id, f.vnum) }
      else if ahead || f.pend then
        let s1 := if ahead then s.modGroup g Group.rollback
          else match f.wait with
            | some c => s.modGroup g fun x => x.putSet c.entry { x.set c.entry with served := 0, stalled := false, asks := none }
            | none => s
        (s1.modGroup g fun x => x.setFold k {}).groupFault g 0x11 ((f.wait.map (·.pc)).getD ((x.ra.map (·.cbr.pc)).getD 0)) info
      else s.modGroup g fun x => x.setFold k { lost := some (id, f.vnum) }

/-- Members without a path to the root for 2 ms: leaves are posted for them, and those here are cut off (R356). -/
def execFoldlost (id : Nat) (keys : List Nat) (s : State) : Host.Outcome State Fault Refusal :=
  ok (match s.foldOf id with
    | none => keys.foldl (fun s k => s.cutOff id k) s
    | some f =>
      if f.formed then keys.foldl (fun s k => (s.cutOff id k).foldLeave id k) s else s)

/-- A fold-table entry written: checked, or refused (R338). -/
def execFoldTableWrite (id : Nat) (val mask : BitVec 64) (s : State) : Host.Outcome State Fault Refusal :=
  ok (if id ≥ 4096 then s
    else
      let old : DWord := lookupD s.pkg.foldTab id 0
      let v := (old &&& ~~~mask) ||| (val &&& mask)
      if foldOk v then s.foldWrite id v else s)

end Sys2Proof.Machine
end

