-- ==== Sys2Proof/Machine/Remote.lean ====
section
/-! DEFINITION. Class 10 but for the collectives: tile registers, HALO, PUTR, GETR (R359-R363, R375, R376), and the completion of
every command (R280). -/

namespace Sys2Proof.Machine
open Sys2Proof

/-! ## Tile registers (R359, R360) -/

/-- The fields of a tile register. -/
def tileStride (t : QWord) : Nat := (bits t 96 32).toNat
def tileCols (t : QWord) : Nat := (bits t 64 32).toNat
def tileRows (t : QWord) : Nat := (bits t 32 32).toNat
def tileV (t : QWord) : Bool := bit t 31
def tilePidx (t : QWord) : Nat := (bits t 0 4).toNat

/-- The elements of a tile. -/
def tileCount (t : QWord) : Nat := tileRows t * tileCols t

/-- The pointer elements of a tile in tile order. -/
def tileElems (t : QWord) : List Int :=
  (List.range (tileRows t)).flatMap fun i => (List.range (tileCols t)).map fun j => ((i * tileStride t + j : Nat) : Int)

def Group.tile (g : Group) (n : Nat) : QWord := vecAt g.regs.t n 0

/-- The pointer that a tile is bound to (R359). -/
def Group.tilePtr (g : Group) (t : QWord) : QWord := g.preg (tilePidx t)

/-- TSET (R360). -/
def execTset (f : ENF) (s : State) : Host.Outcome State Fault Refusal :=
  ok (s.unlessAhead fun s => s.issue f.y fun g =>
    let r := g.sreg f.sa.toNat
    let c := g.sreg f.sb.toNat
    let st := g.sreg f.sc.toNat
    let v := r != ones32 && c != ones32 && st != ones32 && 1 ≤ r.toNat && 1 ≤ c.toNat && c.toNat ≤ st.toNat &&
      r.toNat * c.toNat ≤ 2 ^ 32 - 2
    let w : QWord := st ++ c ++ r ++ BitVec.ofBool v ++ 0#27 ++ bits f.dst 0 4
    { g with regs := { g.regs with t := vecPut g.regs.t f.tsel.toNat w } })

/-- TGET (R360): an unchecked result. -/
def execTget (f : ENF) (s : State) : Host.Outcome State Fault Refusal :=
  ok (s.unlessAhead fun s => s.issue f.y fun g =>
    g.send false [.s f.dst.toNat (bits (g.tile f.tsel.toNat) (32 * (f.sc.toNat % 4)) 32) ones32] [])

/-! ## Checks shared with the collectives (R363, R364) -/

/-- COLLBAD (R363). -/
def State.collBad (s : State) (sub : Nat) : State := s.userTrap 0x0C sub

/-- A tile element lies beyond its pointer's LENGTH without ABS (R363). -/
def tileBeyond (t : QWord) (p : Ptr) : Bool :=
  !p.abs && tileCount t != 0 && p.len ≤ (tileRows t - 1) * tileStride t + (tileCols t - 1)

/-- The spaces of a tile. -/
def glbLoc (p : Ptr) : Bool := p.sp == .glb || p.sp == .loc

/-! ## Remote copies (R375) -/

/-- The checks of PUTR and GETR on their pointers beyond R206: equal formats, then the spaces. -/
def remotePair (put : Bool) (_ : State) (d p : Ptr) : Option Nat :=
  if d.ty != p.ty then some 0x04
  else if put then (if d.sp != .glb || !glbLoc p then some 0x06 else none)
  else if p.sp != .glb || !glbLoc d then some 0x06 else none

/-- PUTR (R375). -/
def execPutr (f : ENF) (s : State) : Host.Outcome State Fault Refusal :=
  ok (copyForm .putr 0x0A f (remotePair true) (fun g => linTab (g.sreg f.sb.toNat)) (fun g => g.objOf f) s)
/-- GETR (R375). -/
def execGetr (f : ENF) (s : State) : Host.Outcome State Fault Refusal :=
  ok (copyForm .getr 0x0B f (remotePair false) (fun g => linTab (g.sreg f.sb.toNat)) (fun g => g.objOf f) s)

/-- An element write performed at its home, a tracked copy being recalled; copies in other slices stay (R375). -/
def State.putHome (s : State) (t : Nat) (w : EWrite) : State :=
  match w.place with
  | .pad .. => s
  | .mem pa =>
    if isIo pa then
      match s.writePlace (s.team t).core (.group (s.team t).ctx) .priv .core none w with
      | .ok s1 => s1
      | .error _ => s
    else
      let v := match w.nib with | none => w.val | some _ => w.byte (s.mem.homeByte pa).toNat 0
      s.homePut pa w.bytes v none

/-- A byte that a packet has brought back. -/
def Cmd.backByte (c : Cmd) (a : Nat) : Option Byte :=
  c.back.findSome? fun b => if b.2.1 ≤ a && a < b.2.1 + b.2.2.length then b.2.2[a - b.2.1]? else none

/-- The code of an element read at its home, here or as it came back from another package (R375). -/
def State.getHome (s : State) (c : Cmd) (e : Elem) : Nat :=
  codeOf e.nib (match e.place with
    | .pad t o => s.padNat t o e.bytes
    | .mem pa =>
      if isIo pa then s.ioNat pa e.bytes
      else leNat ((List.range e.bytes).map fun i => (c.backByte (pa + i)).getD (s.mem.homeByte (pa + i))))

/-- What the reads of elements at home return is there to be recorded (R441). -/
def State.readHomes (s : State) (es : List Elem) : State :=
  { s with mem := s.mem.homeRead (es.filterMap fun e => match e.place with
      | .mem pa => if isIo pa then none else some (pa / 128)
      | .pad .. => none).dedup }

/-- A command that ends with one arrival on its object in place of the OWED update (R375, R376). -/
def State.cmdArrive (s : State) (c : Cmd) : State :=
  match c.obj with
  | some o => if (s.objPlace c.team o.1 o.2).isNone then s.cmdFail c 0x04 c.fls else ((s.cmdEdge c o).objArriveOne c.team o).cmdDone c c.fls
  | none => s.cmdDone c c.fls

/-- The source of a command's packets: CORELOC[16:0] of its core. -/
def State.cmdSource (s : State) (c : Cmd) : Nat := (s.coreloc (s.team c.team).core).toNat % 2 ^ 17

/-- The least command number that a source has not used for 10 ms; none where all are in use (R375). -/
def State.freeNumber (s : State) (src : Nat) : Option Nat :=
  let used := s.pkg.cmdNums.filter fun e => e.1 == src && s.pkg.timens < e.2.2 + 10000000
  (List.range (min (2 ^ 15) (used.length + 1))).find? fun n => !used.any fun e => e.2.1 == n

/-- A command number used now. -/
def State.useNumber (s : State) (src n : Nat) : State :=
  { s with pkg := { s.pkg with cmdNums := s.pkg.cmdNums.filter (fun e => !(e.1 == src && e.2.1 == n)) ++ [(src, n, s.pkg.timens)] } }

/-- A list in parts of `n`. -/
def inParts {α : Type} (n : Nat) (l : List α) : List (List α) :=
  (List.range ((l.length + n - 1) / n)).map fun k => (l.drop (k * n)).take n

/-- The packets of a remote copy that another package has a part in, as they leave: those of a PUTR carry their bytes, those of a GETR ask for
them (R375). -/
def State.packets (s : State) (put : Bool) (src no : Nat) (es : List Elem) : List Msg :=
  let pas := (es.flatMap fun e => match e.place with
    | .mem pa => (List.range e.bytes).map (pa + ·)
    | .pad .. => []).dedup
  (inParts 2048 pas).zipIdx.filterMap fun p => match p.1 with
    | [] => none
    | pa :: _ =>
      if paPkg pa == s.pkg.num.toNat then none
      else if put then some (Msg.remote (paPkg pa) src no p.2 pa (p.1.map s.mem.homeByte))
      else some (.remoteGet (paPkg pa) src no p.2 pa p.1.length)

/-- The packets leave; the command, with what it has done so far, waits for their acknowledgements or for what they bring back, and ends at
once where there are none (R375). -/
def State.sendPackets (s : State) (c : Cmd) (no : Nat) (ps : List Msg) (fin : State → Cmd → State) : State :=
  let t := { s with out := s.out ++ ps }.useNumber (s.cmdSource c) no
  if ps.isEmpty then fin t c
  else t.modCmd c.id fun _ => { c with sentAt := some (no, (List.range ps.length).map (s.out.length + ·)) }

/-- A message has been acknowledged end to end, whichever time it left. -/
def State.ackedMsg (s : State) (id : Nat) : Bool := s.pkg.ackedOut.any fun j => s.out[j]? == s.out[id]?

/-- The elements of PUTR and GETR moved up to a fault, each at its home (R375). -/
def State.remoteMove (s : State) (c : Cmd) (sp dp : Ptr) (fin : State → Cmd → State) : State :=
  let put := c.kind == .putr
  let pairs := c.tab.pairs
  let clear := s.cmdClears c (put || tracked dp.cls dp.sc) dp (pairs.map (·.2))
  let r := s.cmdMoves c (some sp) (some dp) clear (pairs.drop c.pos)
  let ms := r.1
  let all := s.elemsAt c sp .load (pairs.filterMap (·.1))
  let srcs := ms.filterMap (·.1)
  let q : State × List (Nat × Bool) :=
    if put then s.cmdRead c sp (tailCode c.nf sp.ty) (ms.map (·.1))
    else ((srcs.foldl (fun s e => s.cmdUse c .load e) s).readHomes srcs, ms.map fun m => match m.1 with
      | some e => (s.getHome c e, true)
      | none => (tailCode c.nf sp.ty, false))
  let vals := ((q.2.zip (ms.map (·.2))).zipIdx).filterMap fun r => r.1.2.map fun e => (r.2, e, r.1.1.1)
  let t := if put then vals.foldl (fun s v =>
      (s.cmdUse c .store v.2.1).putHome c.team (v.2.1.write (if all.any v.2.1.meets then undefCode s.tick v.1 else v.2.2))) q.1
    else q.1.cmdStore c dp all vals
  (if r.2.isSome then t else { t with mem := t.mem.unpoison clear }).cmdStep c ms r.2 [] fin

/-- PUTR and GETR carried out up to a fault; without a free command number they wait.  A PUTR is complete once its packets have been
acknowledged end to end, a GETR once what it asked other packages for has come back (R375). -/
def State.runRemote (s : State) (c : Cmd) (sp dp : Ptr) : State :=
  let put := c.kind == .putr
  let pairs := c.tab.pairs
  let srcs := s.elemsAt c sp .load (pairs.filterMap (·.1))
  let dsts := s.elemsAt c dp .store (pairs.map (·.2))
  let src := s.cmdSource c
  if (srcs ++ dsts).any fun e => s.waits e.place then s.recallAll ((srcs ++ dsts).map (·.place))
  else match c.sentAt with
    | some (_, ids) =>
      if put then (if ids.all s.ackedMsg then s.cmdArrive c else s)
      else if c.back.length < ids.length then s
      else s.remoteMove c sp dp State.cmdArrive
    | none => match s.freeNumber src with
      | none => s
      | some no =>
        if put then s.remoteMove c sp dp fun t c => t.sendPackets c no (t.packets true src no dsts) State.cmdArrive
        else s.sendPackets c no (s.packets false src no srcs) fun t c => t.remoteMove c sp dp State.cmdArrive

/-! ## HALO (R376) -/

/-- The HALO command, and the HALOs of this member with that peer and tag counted. -/
def State.haloNew (s : State) (f : ENF) (sl : FoldSlot) (rt st rp sp : QWord) (ty : Ty) (obj : Option (Space × Nat)) : State :=
  let peer := (s.cg.sreg f.sa.toNat).toNat
  let tag := (s.cg.sreg f.sb.toNat).toNat
  let num := ((sl.halos.find? fun h => h.1 == peer && h.2.1 == tag).map (·.2.2)).getD 0
  let rest := sl.halos.filter fun h => !(h.1 == peer && h.2.1 == tag)
  let h : HaloPart :=
    { fold := sl.fid, me := sl.rank.toNat, peer, tag, num, rtile := rt, stile := st, sent := false, written := false, received := false }
  let c := { s.cmdOf .halo 0x09 with dst := rp, src := sp, ty, obj, halo := some h }
  ((s.newCmd c).modFold s.cur.g f.slot.toNat fun x => { x with halos := rest ++ [(peer, tag, num + 1)] }).advance f.y

/-- HALO (R376): the receive tile's pointer is the destination, the send tile's the source. -/
def execHalo (f : ENF) (s : State) : Host.Outcome State Fault Refusal :=
  ok (s.cmdForm fun s =>
    let g := s.cg
    let k := f.slot.toNat
    let sl := g.fold k
    let rt := g.tile (f.dst.toNat % 8)
    let st := g.tile f.tsel.toNat
    let rp := g.tilePtr rt
    let sp := g.tilePtr st
    let peer := g.sreg f.sa.toNat
    let tag := g.sreg f.sb.toNat
    if !g.homes.isEmpty then s.collBad 0x06
    else if !sl.valid then s.collBad 0x01
    else if !tileV rt || !tileV st then s.collBad 0x02
    else match s.ptrCheck2 s.cur.g (some rp) (some sp), ptrOf rp, ptrOf sp with
      | some (c, sub), _, _ => s.userTrap c sub
      | none, some d, some p =>
        if d.ty != p.ty then s.userTrap 0x04 0x04
        else if !glbLoc d || !glbLoc p then s.userTrap 0x04 0x06
        else if tileBeyond rt d || tileBeyond st p then s.collBad 0x03
        else if peer.toNat ≥ 2 ^ 23 || peer == sl.rank || bits tag 16 16 != 0 then s.collBad 0x04
        else match g.objOf f with
          | some o =>
            if (s.objPlace g.team o.1 o.2).isNone then s.objFault o.2 else s.haloNew f sl rt st rp sp p.ty (some o)
          | none => s.haloNew f sl rt st rp sp p.ty none
      | none, _, _ => s)

/-- A command that is neither over nor waiting for a record. -/
def State.liveCmd (s : State) (id : Nat) : Option Cmd := s.cmds.find? fun c => c.id == id && !c.done && !c.held

/-- The peer's key while it is a member of the fold (R376). -/
def State.haloKey (s : State) (h : HaloPart) : Option Nat :=
  match s.foldOf h.fold with
  | none => none
  | some f => match f.members[h.peer]? with
    | none => none
    | some k => if f.left.contains k then none else some k

def Cmd.setHalo (c : Cmd) (f : HaloPart → HaloPart) : Cmd := { c with halo := c.halo.map f }

/-- The elements of a HALO leave for the peer: here, or in another package, which acknowledges them once they are written (R374, R376). -/
def State.haloSend (s : State) (c : Cmd) (h : HaloPart) (p : Ptr) (key : Nat) : State :=
  if h.sent then s
  else match s.cmdMoves c (some p) none [] ((tileElems h.stile).map fun k => (some k, 0)) with
    | (_, some f) => s.cmdFault c f.1 f.2
    | (ms, none) =>
      let ps := ms.filterMap fun m => m.1.map (·.place)
      if ps.any s.waits then s.recallAll ps
      else
        let q := s.cmdRead c p (tailCode c.nf p.ty) (ms.map (·.1))
        let m : Msg := .halo h.fold h.me h.peer h.tag h.num (q.2.map fun v => BitVec.ofNat 128 v.1)
        let t := q.1.modCmd c.id fun x => x.setHalo fun y => { y with sent := true }
        if s.ownKey key then t.send m else { t with out := t.out ++ [m] }

/-- The HALO whose elements have been written at its peer is told so. -/
def State.haloWritten (s : State) (fold src dst tag num : Nat) : State :=
  { s with cmds := s.cmds.map fun (x : Cmd) => match x.halo with
    | some y => if y.fold == fold && y.me == src && y.peer == dst && y.tag == tag && y.num == num && y.sent then
        x.setHalo fun z => { z with written := true } else x
    | none => x }

/-- Elements of the peer written to the receive tile: as many as both sides have (R376). -/
def State.haloWrite (s : State) (c : Cmd) (h : HaloPart) (d : Ptr) (els : List QWord) : State :=
  let ks := (tileElems h.rtile).take els.length
  let clear := s.cmdClears c (tracked d.cls d.sc) d ks
  let r := s.cmdMoves c none (some d) clear (ks.map fun k => (none, k))
  let t := s.cmdStore c d [] ((r.1.zip els).zipIdx.filterMap fun m => m.1.1.2.map fun e => (m.2, e, m.1.2.toNat))
  match r.2 with
  | some f => t.cmdFault c f.1 f.2
  | none =>
    ({ t with mem := t.mem.unpoison clear }.modCmd c.id fun x => x.setHalo fun y => { y with received := true }).haloWritten
      h.fold h.peer h.me h.tag h.num

/-- The places that a HALO writes for so many elements of its peer. -/
def State.haloPlaces (s : State) (c : Cmd) (h : HaloPart) (d : Ptr) (n : Nat) : List Place :=
  (s.elemsAt c d .store ((tileElems h.rtile).take n)).map (·.place)

/-- A message of another package acknowledged end to end (R374). -/
def State.ackOut (s : State) (m : Msg) (dst : Nat) (key : List Nat) : State :=
  if s.msgs.contains m then s else { s with out := s.out ++ [.ack dst key] }

/-- Room in the rick: one chunk for each 32 KiB of it (R373). -/
def State.rickRoom (s : State) : Bool := (s.pkg.rick.length + 1) * 32768 ≤ (s.pkg.reg 0x31008).toNat

/-- The data of a HALO that wait in a slot or are on their way. -/
def State.haloData (s : State) (h : HaloPart) : Option (Msg × List QWord) :=
  (s.pkg.slots.map (·.2) ++ s.msgs).findSome? fun m => match m with
    | .halo fold src dst tag num els =>
      if fold == h.fold && src == h.peer && dst == h.me && tag == h.tag && num == h.num then some (m, els) else none
    | _ => none

/-- A message taken from its slot, or from those on their way. -/
def State.takeMsg (s : State) (m : Msg) : State :=
  if s.pkg.slots.any fun x => x.2 == m then { s with pkg := { s.pkg with slots := s.pkg.slots.filter fun x => x.2 != m } }
  else { s with msgs := s.msgs.erase m }

/-- HALO carried as far as it can go: sent, received, and complete once both are done or the peer has left the fold (R376). -/
def State.runHalo (s : State) (c : Cmd) (p d : Ptr) : State :=
  match c.halo with
  | none => s
  | some h =>
    match s.haloKey h with
    | none => s.cmdArrive c
    | some key =>
      let s1 := s.haloSend c h p key
      match s1.liveCmd c.id, s1.haloData h with
      | some c1, data =>
        let got := (c1.halo.map (·.received)).getD true
        let s2 := match data with
          | some (m, els) => if got then s1
            else if (s1.haloPlaces c1 h d els.length).any s1.waits then s1.recallAll (s1.haloPlaces c1 h d els.length)
            else
              let t := s1.haloWrite c1 h d els
              if (t.liveCmd c.id).isNone then t
              else
                let t1 := t.takeMsg m
                if s.ownKey key then t1 else { t1 with out := t1.out ++ [Msg.ack (key / 2 ^ 14) [2, h.fold, h.peer, h.me, h.tag, h.num]] }
          | none => s1
        (match s2.liveCmd c.id with
          | some c2 => if c2.halo.any fun (y : HaloPart) => y.written && y.received then s2.cmdArrive c2 else s2
          | none => s2)
      | none, _ => s1

/-- A free slot of the shared pool (R373). -/
def State.sharedSlot (s : State) : Option Nat := ((List.range 64).map (960 + ·)).find? fun i => !s.pkg.slots.any fun x => x.1 == i

/-- The package of a rank of a fold. -/
def State.rankPkg (s : State) (fold rank : Nat) : Nat :=
  match s.foldOf fold with
  | some f => f.members.getD rank 0 / 2 ^ 14
  | none => s.pkg.num.toNat

/-- Data of a HALO arrive: a repeat is dropped and acknowledged once more where it has been written, and data that come before their HALO, or
that it cannot take yet, wait in a free slot of the shared pool, else in the rick; without room the sender repeats them (R373, R374, R376). -/
def execHaloReceive (fold src dst tag num : Nat) (elems : List (BitVec 128)) (s : State) : Host.Outcome State Fault Refusal :=
  let m : Msg := .halo fold src dst tag num elems
  let member := ((List.range s.groups.length).flatMap fun g => (List.range 4).map fun k => (s.group g).fold k).find? fun f =>
    f.valid && f.fid == fold && f.rank.toNat == dst
  let isHere := s.cmds.any fun c => !c.done && c.halo.any fun h =>
    h.fold == fold && h.me == dst && h.peer == src && h.tag == tag && h.num == num && !h.received
  let past := member.any fun f => f.halos.any fun h => h.1 == src && h.2.1 == tag && num < h.2.2
  let held := s.pkg.slots.any fun x => x.2 == m
  let s1 := { s with msgs := s.msgs.erase m }
  ok (match member with
    | none => s
    | some _ =>
      if held || s.pkg.rick.contains m then s1
      else if past && !isHere then { s.ackOut m (s.rankPkg fold src) [2, fold, src, dst, tag, num] with msgs := s.msgs.erase m }
      else match s.sharedSlot with
        | some i => { s1 with pkg := { s1.pkg with slots := s1.pkg.slots ++ [(i, m)] } }
        | none => if s.rickRoom then { s1 with pkg := { s1.pkg with rick := s1.pkg.rick ++ [m] } } else s)

/-! ## Commands complete (R280, R375, R376) -/

/-- A command is carried out (R279, R280, R375, R376). -/
def execCopyComplete (id : Nat) (s : State) : Host.Outcome State Fault Refusal :=
  ok (match s.liveCmd id with
    | none => s
    | some c =>
      let t := match c.kind, c.sptr, c.dptr with
        | .putr, some p, some d | .getr, some p, some d => s.runRemote c p d
        | .halo, some p, some d => s.runHalo c p d
        | _, _, _ => s.runCmd c
      t.teamLocks c.team)

/-! ## Packets of other packages (R374, R375) -/

/-- The command of this package that a packet belongs to (R375). -/
def State.cmdOfPacket (s : State) (src cmd : Nat) : Option Cmd :=
  s.cmds.find? fun c => !c.done && !c.held && s.cmdSource c == src && (c.sentAt.map (·.1)) == some cmd

/-- A packet comes back to the command that asked for it, once; one without bytes tells of a poisoned line, which faults its command
(R374, R375, R438). -/
def State.packetBack (s : State) (src cmd num pa : Nat) (bytes : List Byte) : State :=
  match s.cmdOfPacket src cmd with
  | none => s
  | some c =>
    if bytes.isEmpty then s.cmdFault c ⟨0x07, 0, BitVec.ofNat 64 pa⟩ (c.kind == .putr)
    else if c.kind != .getr || c.back.any fun b => b.1 == num then s
    else s.modCmd c.id fun x => { x with back := x.back ++ [(num, pa, bytes)] }

/-- A packet of a remote copy: what a peer returns goes to the command that asked for it and is acknowledged.  A PUTR packet of another package
is written at its home once and acknowledged, of a GETR the bytes are read at their home and returned (R374, R375); a poisoned line that a write
covers whole is cleared, any other is told to the source (R438). -/
def execRemotePacket (src cmd num pa : Nat) (body : PacketBody) (s : State) : Host.Outcome State Fault Refusal :=
  let key := (src, cmd, num)
  let back := src / 2 ^ 8
  let ack (s : State) (dst : Nat) : State := { s with out := s.out ++ [.remoteAck dst cmd num] }
  let n := if body.put then body.bytes.length else body.count
  let lns := linesOf pa n
  let bad := lns.find? fun ln => s.mem.poisoned ln && !(body.put && lineMask ln pa n == BitVec.allOnes 128)
  ok (if body.put && s.pkg.window.contains key then ack s back
    else if body.put && back == s.pkg.num.toNat && paPkg pa != s.pkg.num.toNat then ack (s.packetBack src cmd num pa body.bytes) (paPkg pa)
    else if paPkg pa != s.pkg.num.toNat || isIo pa then s
    else if lns.any fun ln => s.waits (.mem (ln * 128)) then s.recallAll (lns.map fun ln => .mem (ln * 128))
    else match bad with
      | some ln => { s with out := s.out ++ [.remoteBad back src cmd num (ln * 128)] }
      | none =>
        if !body.put then
          { s with
            out := s.out ++ [.remote back src cmd num pa ((List.range n).map fun k => s.mem.homeByte (pa + k))], mem := s.mem.homeRead lns }
        else
          ack (State.homePut { s with
            mem := s.mem.unpoison lns, pkg := { s.pkg with window := s.pkg.window ++ [key] } } pa n (leNat body.bytes) none) back)

/-- 10 ms after a command's last packet its packets are no longer kept (R375). -/
def execRepeatWindowExpire (src cmd : Nat) (s : State) : Host.Outcome State Fault Refusal :=
  ok { s with pkg := { s.pkg with window := s.pkg.window.filter fun w => !(w.1 == src && w.2.1 == cmd) } }

/-- The path to the peer of a remote copy is lost: the command ends, with MCHK in its context (R246, R375). -/
def execRemotePathLost (id : Nat) (s : State) : Host.Outcome State Fault Refusal :=
  ok (match s.cmds.find? fun c => c.id == id && !c.done with
    | none => s
    | some c =>
      if c.kind == .putr || c.kind == .getr then
        let x : XFault := ⟨0x07, 0, Config.undef s.tick 0⟩
        if (s.team c.team).user then (s.raise (s.cmdRec c x (c.kind == .putr))).cmdFail c (s.failCode 0x07) []
        else s.cmdFault c x (c.kind == .putr)
      else s)

/-! ## The status of collectives (R371) -/

/-- CLSTAT (R371). -/
def execClstat (f : ENF) (s : State) : Host.Outcome State Fault Refusal :=
  ok (s.unlessAhead fun s =>
    let t := s.ct
    (s.modCt fun t => if bit f.fn 2 then { t with collStat := t.collStat &&& 0x7FFFFFFF#32 } else t).issue f.y fun g =>
      g.send false [.s f.dst.toNat t.collStat ones32, .s (f.dst.toNat + 1) t.collDone ones32] [])

end Sys2Proof.Machine
end

