-- ==== Sys2Proof/Machine/Collective.lean ====
section
/-! DEFINITION. The collectives of class 10 (R364-R374): their issue and start, their contributions and chunks, the chunk slots and
the rick, and their completion. -/

namespace Sys2Proof.Machine
open Sys2Proof

/-! ## Issue (R364) -/

/-- COLL of one group: a team-barrier instruction that does not wait (R364).  A team has at most 8 collectives in flight. -/
def collForm (f : ENF) (s : State) : State :=
  s.unlessAhead fun s =>
    if !s.cg.homes.isEmpty then s.collBad 0x06
    else s.whole fun s =>
      let t := s.ct
      let mine := (t.collWords.filter fun w => w.1 == s.cur.g).length
      if 8 ≤ (t.colls.filter fun c => !c.done).length + mine then s.stall
      else (s.modCt fun t => { t with collWords := t.collWords ++ [(s.cur.g, s.cur.word, s.cur.pc)] }).advance f.y

/-- COLL.ar (R364, R365). -/
def execCollAr (f : ENF) (s : State) : Host.Outcome State Fault Refusal := ok (collForm f s)
/-- COLL.rs (R364, R365). -/
def execCollRs (f : ENF) (s : State) : Host.Outcome State Fault Refusal := ok (collForm f s)
/-- COLL.ag (R364, R365). -/
def execCollAg (f : ENF) (s : State) : Host.Outcome State Fault Refusal := ok (collForm f s)
/-- COLL.bc (R364, R365). -/
def execCollBc (f : ENF) (s : State) : Host.Outcome State Fault Refusal := ok (collForm f s)
/-- COLL.rd (R364, R365). -/
def execCollRd (f : ENF) (s : State) : Host.Outcome State Fault Refusal := ok (collForm f s)
/-- COLL.bar (R364, R365). -/
def execCollBar (f : ENF) (s : State) : Host.Outcome State Fault Refusal := ok (collForm f s)

/-! ## What a word says (R361) -/

/-- Kinds of collective by minor opcode. -/
inductive CollKind where
  | ar | rs | ag | bc | rd | bar
deriving DecidableEq, Repr

def collKind (w : DWord) : CollKind :=
  match (wMinor w).toNat with
  | 3 => .ar | 4 => .rs | 5 => .ag | 6 => .bc | 7 => .rd | _ => .bar

def collTy (w : DWord) : Ty := (tyOfCode (wType w)).getD .b8
/-- CN, ND and OP. -/
def collCn (w : DWord) : Bool := bit w 13
def collNd (w : DWord) : Bool := bit w 12
def collOp (w : DWord) : Nat := (bits w 10 2).toNat
/-- What every participant must issue alike: kind, type, OP, ND, CN (R365). -/
def collKey (w : DWord) : BitVec 7 × BitVec 5 × BitVec 4 := (wMinor w, wType w, wFnEn w)
/-- The collective names a root. -/
def collRooted (w : DWord) : Bool := collKind w == .bc || collKind w == .rd

/-- The bytes of one element. -/
def collSize (w : DWord) : Nat := fmtBytes (collTy w)

/-- The elements of a chunk of 32,768 bytes (R372). -/
def collChunk (w : DWord) : Nat := 32768 / collSize w

/-- Ring mode: a source of more than 8,192 bytes (R366). -/
def collRing (w : DWord) (count : Nat) : Bool := 8192 < count * collSize w

/-- The chunks of a source. -/
def collChunks (w : DWord) (count : Nat) : Nat := (count + collChunk w - 1) / collChunk w

/-! ## Combination (R106, R366) -/

/-- OP on two present codes (R127, R171, R173, R366). -/
def redOp (t : Ty) (op a b : Nat) : Nat × Fl :=
  if t == .f64 || t == .f32 || t == .f16 || t == .bf16 then
    nodeOf t (match op with | 0 => fopAdd t .rne | 1 => fopMinmax t false | _ => fopMinmax t true) a b
  else (intElem t false (match op with | 0 => opAdd | 1 => opMin t | _ => opMax t) [a, b], 0)

/-- Comb: an empty input passes the other up; counts and flags go along (R366, R368). -/
def redComb (t : Ty) (op : Nat) (a b : RedEl) : RedEl :=
  match a.v, b.v with
  | none, _ => b
  | _, none => a
  | some x, some y => let r := redOp t op x y; { v := some r.1, n := a.n + b.n, fl := a.fl ||| b.fl ||| r.2 }

/-- A contribution to a reduction: an absent code is empty (R366). -/
def redOf (t : Ty) (code : Nat) : RedEl :=
  if ((codingOf noNf t).read code).isSome then { v := some code, n := 1, fl := 0 } else { v := none, n := 0, fl := 0 }

/-- An element that is copied bit for bit (R365). -/
def copyEl (code : Nat) : RedEl := { v := some code, n := 1, fl := 0 }

/-- Lists combined place by place. -/
def redLists (t : Ty) (op : Nat) : List (List RedEl) → List RedEl
  | [] => []
  | [x] => x
  | x :: xs => xs.foldl (List.zipWith (redComb t op)) x

/-- Lists combined in the order in which they have come, now and then two of them first; which is free (R367; log 16). -/
def looseLists (t : Ty) (op seed : Nat) : Nat → List (List RedEl) → List RedEl
  | 0, ls => redLists t op ls
  | n + 1, ls =>
    let i := (Config.device 12 (seed * 2 ^ 23 + n)).toNat % ls.length
    match ls.drop i with
    | a :: b :: rest => looseLists t op seed n (ls.take i ++ List.zipWith (redComb t op) a b :: rest)
    | _ => redLists t op ls

/-- The package that holds a position of a collective (R341). -/
def Coll.pkgOf (c : Coll) (pos : Nat) : Nat := c.participants.getD pos 0 / 2 ^ 14

/-- The reduction in tree mode: a node for each package, then the switch above them, in position order; under ND the contributions in the order of
their arrival, in any bracketing (R366, R367; log 16). -/
def Coll.treeRed (c : Coll) (choice : Nat) (cs : List Contrib) : List RedEl :=
  let t := collTy c.word
  let op := collOp c.word
  let order := sortBy (fun (a b : Contrib) => a.pos ≤ b.pos) cs
  let els (x : Contrib) : List RedEl := x.elems.map fun e => redOf t e.toNat
  if collNd c.word then looseLists t op choice cs.length (cs.map els)
  else redLists t op ((order.map fun (x : Contrib) => c.pkgOf x.pos).dedup.map fun p =>
    redLists t op ((order.filter fun (x : Contrib) => c.pkgOf x.pos == p).map els))

/-! ## Collectives of this package -/

/-- The collectives that match, each with its team. -/
def State.collsOf (s : State) (p : Coll → Bool) : List (Nat × Coll) :=
  (List.range s.teams.length).flatMap fun t => ((s.team t).colls.filter p).map fun c => (t, c)

/-- The collective of a fold at a position of this package. -/
def State.collAt (s : State) (fold num pos : Nat) : Option (Nat × Coll) :=
  (s.collsOf fun c => c.fold == fold && c.num == num && c.pos == pos).head?

def State.modColl (s : State) (t id : Nat) (f : Coll → Coll) : State :=
  s.modTeam t fun x => { x with colls := x.colls.map fun c => if c.id == id then f c else c }

/-- A position's team is of this package. -/
def State.posHere (s : State) (fold pos : Nat) : Bool :=
  match s.collsOf fun c => c.fold == fold with
  | (_, c) :: _ => match c.participants[pos]? with
    | some k => s.ownKey k
    | none => false
  | [] => match s.foldOf fold with
    | some f => match f.rest[pos]? with
      | some k => s.ownKey k
      | none => false
    | none => false

/-- A command that stands for a collective in its accesses. -/
def Coll.cmd (t : Nat) (c : Coll) : Cmd :=
  { id := c.id, group := c.agent, team := t, kind := .cpy, minor := (wMinor c.word).toNat, batch := none, dst := c.dst, src := c.src,
    ty := collTy c.word, val := 0, tab := .lin 0, obj := none, fs := c.fs, halo := none, know := 0, issue := 0, pos := 0, wrote := [],
    held := c.held, done := false, fls := [] }

/-- The others of a collective fail with it (R371). -/
def State.failOthers (s : State) (c : Coll) : State :=
  let hit (d : Coll) : Coll := if d.fold == c.fold && d.num == c.num && d.id != c.id && !d.done && d.fail.isNone then { d with fail := some 2 } else d
  { s with teams := s.teams.map fun (x : Team) => { x with colls := x.colls.map hit } }

/-- A participant fails with XLATE, and the others with MEMBER, those of other packages being told (R371). -/
def State.collXlate (s : State) (t : Nat) (c : Coll) : State :=
  let s1 := (s.modColl t c.id fun x => { x with fail := some 3, held := false }).failOthers c
  if c.participants.all s.ownKey then s1 else { s1 with out := s1.out ++ [.collFail c.fold c.num c.pos] }

/-- A participant of another package has failed: those here at which the collective has not completed fail with MEMBER (R371). -/
def State.collTold (s : State) (fold num pos : Nat) : State :=
  let hit (d : Coll) : Coll :=
    if d.fold == fold && d.num == num && (d.participants[pos]?).any (fun k => !s.ownKey k) && !d.done && d.fail.isNone then { d with fail := some 2 } else d
  { s with teams := s.teams.map fun (x : Team) => { x with colls := x.colls.map hit } }

/-- A fault on a tile goes to the privileged handler (R371); an S-mode task takes it itself (R421). -/
def State.collFault (s : State) (t : Nat) (c : Coll) (x : XFault) (write : Bool) : State :=
  let k := c.cmd t
  if (s.team t).user then (s.modColl t c.id fun y => { y with held := true }).raise (s.cmdRec k x write)
  else
    let s1 := s.collXlate t c
    if (s.group c.agent).ended then s1.interruptTeam t x.code x.sub x.info none
    else s1.interruptGroup c.agent x.code x.sub x.info none

/-! ## Chunk slots and reservations (R373) -/

/-- The collective that a message belongs to. -/
def msgColl : Msg → Option (Nat × Nat)
  | .chunk fold num .. => some (fold, num)
  | _ => none

/-- The oldest collective of a fold that this package has seen and that has not completed here. -/
def Pkg.oldest (p : Pkg) (fold : Nat) : Option Nat :=
  (sortBy (fun a b => a ≤ b) ((p.resvWait.filter fun x => x.1 == fold).map (·.2))).head?

/-- The fold that holds no reservation, and whose oldest collective was seen first. -/
def Pkg.firstWaiting (p : Pkg) : Option (Nat × Nat) :=
  p.resvWait.find? fun x => p.oldest x.1 == some x.2 && !p.resv.any fun r => r.any fun y => y.1 == x.1

/-- Free reservations given to the folds that wait, in turn. -/
def Pkg.grant : Nat → Pkg → Pkg
  | 0, p => p
  | n + 1, p => match p.resv.findIdx? (·.isNone), p.firstWaiting with
    | some i, some x => Pkg.grant n { p with resv := p.resv.set i (some x) }
    | _, _ => p

/-- A fold's reservation covers its oldest collective; a fold without one gives it up. -/
def Pkg.follow (p : Pkg) (fold : Nat) : Pkg :=
  { p with resv := p.resv.map fun r => if r.any fun x => x.1 == fold then (p.oldest fold).map fun n => (fold, n) else r }

/-- A collective is seen at this package for the first time. -/
def State.seeColl (s : State) (fold num : Nat) : State :=
  if s.pkg.resvWait.contains (fold, num) then s
  else { s with pkg := ({ s.pkg with resvWait := s.pkg.resvWait ++ [(fold, num)] }.follow fold).grant 15 }

/-- A collective has completed at every position of this package: its reservation is passed on. -/
def State.releaseResv (s : State) (fold num : Nat) : State :=
  let mine := (s.collsOf fun c => c.fold == fold && c.num == num).map (·.2)
  let here := ((mine.head?.map fun c => (c.participants.filter s.ownKey).length).getD 0)
  if (mine.filter (·.done)).length < here then s
  else { s with pkg := ({ s.pkg with resvWait := s.pkg.resvWait.filter (· != (fold, num)) }.follow fold).grant 15 }

/-- The slot that an arriving chunk takes. -/
def State.freeSlot (s : State) (fold num : Nat) : Option Nat :=
  let free (i : Nat) : Bool := !s.pkg.slots.any fun x => x.1 == i
  let own := match s.pkg.resv.findIdx? (· == some (fold, num)) with
    | some i => (List.range 64).find? fun k => free (64 * i + k)
    | none => none
  match own, s.pkg.resv.findIdx? (· == some (fold, num)) with
  | some k, some i => some (64 * i + k)
  | _, _ => s.sharedSlot

/-- A chunk put aside: in a slot, else in the rick; none where it must be sent again. -/
def State.putAside (s : State) (fold num : Nat) (m : Msg) : Option State :=
  if (s.pkg.slots.map (·.2) ++ s.pkg.rick).contains m then some s
  else match s.freeSlot fold num with
    | some i => some { s with pkg := { s.pkg with slots := s.pkg.slots ++ [(i, m)] } }
    | none => if s.rickRoom then some { s with pkg := { s.pkg with rick := s.pkg.rick ++ [m] } } else none

/-! ## Chunks on the ring (R372) -/

/-- A chunk as a message. -/
def chunkMsg (c : Coll) (k src pos : Nat) (final : Bool) (els : List RedEl) : Msg :=
  .chunk c.fold c.num k src pos final (els.map fun (e : RedEl) => BitVec.ofNat 128 (e.v.getD 0)) (els.map fun (e : RedEl) => e.n) (els.map fun (e : RedEl) => e.fl)

/-- Its elements. -/
def chunkEls (elems : List QWord) (counts : List Nat) (fls : List (BitVec 5)) : List RedEl :=
  (elems.zip (counts.zip fls)).map fun x => { v := if x.2.1 == 0 then none else some x.1.toNat, n := x.2.1, fl := x.2.2 }

/-- A collective whose chunks are copied, not reduced. -/
def collCopies (w : DWord) : Bool := match collKind w with | .ag | .bc => true | _ => false

/-- A reduction in NONDET mode: each position combines what arrives in the order of arrival (R367). -/
def collLoose (w : DWord) : Bool := collNd w && !collCopies w

/-- A chunk of a collective runs against the ring's order: under ND, either way (R367; log 16). -/
def collBack (w : DWord) (fold num k src : Nat) : Bool :=
  collLoose w && (Config.device 13 (((fold * 2 ^ 20 + num) * 2 ^ 20 + k) * 2 ^ 23 + src)).getLsbD 0

/-- The position after another on a ring of `n`, and the one before it. -/
def ringFwd (n pos : Nat) : Nat := if pos + 1 ≥ n then 0 else pos + 1
def ringBwd (n pos : Nat) : Nat := if pos == 0 then n - 1 else pos - 1

/-- The position where the chain of chunk `k` starts, in deterministic mode (R366). -/
def Coll.chain (c : Coll) (k : Nat) : Nat := k % c.participants.length

/-- A chunk is whole where it starts: it is copied, or each position combines the chunks of the others itself. -/
def Coll.copies (c : Coll) : Bool := collCopies c.word || collLoose c.word

/-- The next position on the ring of chunk `k` that started at `src`. -/
def Coll.next (c : Coll) (k src pos : Nat) : Nat :=
  if collBack c.word c.fold c.num k src then ringBwd c.participants.length pos else ringFwd c.participants.length pos

/-- The position where the chain of a chunk that starts at `src` ends; a whole chunk is final where it starts. -/
def Coll.chainEnd (c : Coll) (src : Nat) : Nat := if c.copies then src else ringBwd c.participants.length src

/-- The root's position: that of the participant with rank sR (R365). -/
def Coll.rootPos (c : Coll) : Nat := c.ranks.findIdx (· == c.root.toNat)

/-- A message to a position: here, or out through a port. -/
def State.toPos (s : State) (c : Coll) (pos : Nat) (m : Msg) : State :=
  if s.ownKey (c.participants.getD pos 0) then s.send m else { s with out := s.out ++ [m] }

/-- The team's own elements of chunk `k`, read now (R372); none where they cannot be read yet: a fault is raised, or a recall sent. -/
def State.ownChunk (s : State) (t : Nat) (c : Coll) (k : Nat) : State × Option (List RedEl) :=
  match ptrOf c.src with
  | none => (s, some [])
  | some p =>
    let ks := ((tileElems c.stile).drop (k * collChunk c.word)).take (collChunk c.word)
    match s.cmdMoves (c.cmd t) (some p) none [] (ks.map fun k => (some k, 0)) with
    | (_, some f) => (s.collFault t c f.1 f.2, none)
    | (ms, none) =>
      let es := ms.filterMap (·.1)
      if es.any fun e => s.waits e.place then (s.recallAll (es.map (·.place)), none)
      else
        let r := s.cmdRead (c.cmd t) p (tailCode (c.cmd t).nf p.ty) (ms.map (·.1))
        (r.1, some (r.2.map fun e => if collCopies c.word then copyEl e.1 else redOf (collTy c.word) e.1))

/-- The places of a source tile. -/
def State.tilePlaces (s : State) (t : Nat) (c : Coll) : List Elem :=
  match ptrOf c.src with
  | none => []
  | some p => s.elemsAt (c.cmd t) p .load (tileElems c.stile)

/-- Codes written to elements of a pointer, up to a fault, with which of them were written; lines they cover whole lose their poison (R438). -/
def State.tileWrite (s : State) (t : Nat) (c : Coll) (p : Ptr) (srcs : List Elem) (ws : List (Int × Nat)) :
    State × List Bool × Option (XFault × Bool) :=
  let clear := s.cmdClears (c.cmd t) (tracked p.cls p.sc) p (ws.map (·.1))
  let r := s.cmdMoves (c.cmd t) none (some p) clear (ws.map fun w => (none, w.1))
  let u := s.cmdStore (c.cmd t) p srcs ((r.1.zip ws).zipIdx.filterMap fun m => m.1.1.2.map fun e => (m.2, e, m.1.2.2))
  (if r.2.isSome then u else { u with mem := u.mem.unpoison clear }, r.1.map (·.2.isSome), r.2)

/-- Results written to elements of the destination tile, each with its number in tile order: values, then counts; the flags of those written,
or the fault (R365, R368). -/
def State.collDeliver (s : State) (t : Nat) (c : Coll) (els : List (Nat × RedEl)) : Except (State × XFault × Bool) (State × List Fl) :=
  let at_ (tile : QWord) (n : Nat) : Int := (tileElems tile).getD n 0
  match ptrOf c.dst with
  | none => .ok (s, [])
  | some d =>
    if els.isEmpty then .ok (s, [])
    else
      let inPlace := collKind c.word == .ar && c.src == c.dst && c.stile == c.dtile
      let srcs := if inPlace then [] else s.tilePlaces t c
      match s.tileWrite t c d srcs (els.map fun e => (at_ c.dtile e.1, e.2.v.getD (tailCode noNf (collTy c.word)))) with
      | (u, _, some f) => .error (u, f)
      | (u, hits, none) =>
        let fls := (els.zip hits).filterMap fun x => if x.2 then some x.1.2.fl else none
        match collCn c.word, ptrOf c.cptr with
        | true, some k => match u.tileWrite t c k [] (els.map fun e => (at_ c.ctile e.1, e.2.n)) with
          | (v, _, some f) => .error (v, f)
          | (v, _, none) => .ok (v, fls)
        | _, _ => .ok (u, fls)

/-- The elements of the destination that a final chunk gives a position (R365). -/
def Coll.place (c : Coll) (k src : Nat) (els : List RedEl) : List (Nat × RedEl) :=
  let E := tileCount c.stile
  let P := c.participants.length
  let all := els.zipIdx (k * collChunk c.word) |>.map fun x => (x.2, x.1)
  match collKind c.word with
  | .ar | .bc => all
  | .rd => if c.pos == c.rootPos then all else []
  | .rs => all.filterMap fun x => if c.pos * (E / P) ≤ x.1 && x.1 < (c.pos + 1) * (E / P) then some (x.1 - c.pos * (E / P), x.2) else none
  | .ag => all.map fun x => (src * E + x.1, x.2)
  | .bar => []

/-- What a final chunk gives a position to write: a chunk that each position combines itself gives nothing before the last has come (R367). -/
def State.chunkFinal (s : State) (c : Coll) (k : Nat) (els : List RedEl) : List RedEl :=
  if collLoose c.word then
    let all := (c.got.filter fun g => g.chunk == k).map (·.els) ++ [els]
    if all.length < c.participants.length then [] else looseLists (collTy c.word) (collOp c.word) s.tick all.length all
  else els

/-- A final chunk written, kept, and passed on until it has gone round from the position where it became final; false where it must wait (R372). -/
def State.finalChunk (s : State) (t : Nat) (c : Coll) (k src : Nat) (els : List RedEl) : State × Bool :=
  match s.collDeliver t c (c.place k src (s.chunkFinal c k els)) with
  | .error (u, f) => (u.collFault t c f.1 f.2, false)
  | .ok (u, fls) =>
    let s1 := u.modColl t c.id fun x => { x with got := x.got ++ [{ chunk := k, src, els }], fls := x.fls ++ fls }
    let nxt := c.next k src c.pos
    (if nxt == c.chainEnd src then s1 else s1.toPos c nxt (chunkMsg c k src nxt true els), true)

/-- A chunk reaches a position that can use it: it is combined with the position's own elements and goes on, or is final; false where it must
wait (R372). -/
def State.takeChunk (s : State) (t : Nat) (c : Coll) (k src : Nat) (final : Bool) (els : List RedEl) : State × Bool :=
  let seen (r : State × Bool) : State × Bool :=
    if r.2 then (r.1.modColl t c.id fun x => { x with seen := x.seen ++ [(k, src, final)] }, true) else r
  seen (if final then s.finalChunk t c k src els
    else match s.ownChunk t c k with
      | (u, none) => (u, false)
      | (u, some own) =>
        let mine := List.zipWith (redComb (collTy c.word) (collOp c.word)) els own
        if c.pos == c.chainEnd src then u.finalChunk t c k src mine
        else (u.toPos c (c.next k src c.pos) (chunkMsg c k src (c.next k src c.pos) false mine), true))

/-- The chunks that a position starts on the ring, in order (R366, R372). -/
def Coll.starts (c : Coll) : List Nat :=
  let ks := List.range (collChunks c.word (tileCount c.stile))
  match collKind c.word with
  | .bar => []
  | .ag => ks
  | .bc => if c.pos == c.rootPos then ks else []
  | _ => if collLoose c.word then ks else ks.filter fun k => c.chain k == c.pos

/-- The next of them that has not left. -/
def Coll.toStart (c : Coll) : Option Nat := c.starts.find? fun k => !c.seen.contains (k, c.pos, false)

/-- A position starts a chunk. -/
def State.startChunk (s : State) (t : Nat) (c : Coll) (k : Nat) : State :=
  match s.ownChunk t c k with
  | (u, none) => u
  | (u, some own) =>
    let nxt := c.next k c.pos c.pos
    let r := if c.pos == c.chainEnd c.pos then u.finalChunk t c k c.pos own
      else (u.toPos c nxt (chunkMsg c k c.pos nxt false own), true)
    if r.2 then r.1.modColl t c.id fun x => { x with seen := x.seen ++ [(k, c.pos, false)] } else r.1

/-- A position that can take chunks now. -/
def State.takes (s : State) (t : Nat) (c : Coll) : Bool :=
  c.loaded && !c.done && !c.held && c.fail.isNone && (s.team t).st == .resident

/-- The chunks in slots that a position can use are taken. -/
def State.drainSlots (s : State) (t : Nat) (c : Coll) : State :=
  (s.pkg.slots).foldl (fun s x => match x.2, (s.team t).colls.find? fun d => d.id == c.id with
    | .chunk fold num k src pos final elems counts fls, some c =>
      if fold == c.fold && num == c.num && pos == c.pos && s.takes t c then
        let s1 := { s with pkg := { s.pkg with slots := s.pkg.slots.filter fun y => y.1 != x.1 } }
        if c.seen.contains (k, src, final) then s1
        else match s1.takeChunk t c k src final (chunkEls elems counts fls) with
          | (u, true) => u
          | (u, false) => { u with pkg := { u.pkg with slots := s.pkg.slots } }
      else s
    | _, _ => s) s

/-- The package of a position of a fold. -/
def State.posPkg (s : State) (fold pos : Nat) : Nat :=
  match s.foldOf fold with
  | some f => f.rest.getD pos 0 / 2 ^ 14
  | none => s.pkg.num.toNat

/-- The package from which a chunk has come: that of the position before on the ring, as the collective's word says (R372, R374). -/
def State.hopPkg (s : State) (fold num chunk src pos : Nat) : Nat :=
  let n := match s.foldOf fold with | some f => f.rest.length | none => 0
  let back := match s.pkg.contribs.find? fun c => c.fold == fold && c.num == num with
    | some c => collBack c.word fold num chunk src
    | none => false
  s.posPkg fold (if back then ringFwd n pos else ringBwd n pos)

/-- A chunk arrives at a position of this package: a repeat is dropped, one that can be used is combined or kept and passed on, another
waits; each of them is acknowledged to the hop that sent it, unless there is no room for it (R372-R374). -/
def execChunkReceive (fold num chunk src pos : Nat) (final : Bool) (elems : List (BitVec 128)) (counts : List Nat)
    (fls : List (BitVec 5)) (s : State) : Host.Outcome State Fault Refusal :=
  let m : Msg := .chunk fold num chunk src pos final elems counts fls
  let told := s.ackOut m (s.hopPkg fold num chunk src pos) [0, fold, num, chunk, src, pos, if final then 1 else 0]
  let gone := { told with msgs := s.msgs.erase m }
  let aside (s1 : State) : State := ((s1.seeColl fold num).putAside fold num m).getD s
  ok (if !s.posHere fold pos then s
    else match s.collAt fold num pos with
      | none => if (s.collsOf fun c => c.fold == fold && c.pos == pos && num < c.num).isEmpty then aside gone else gone
      | some (t, c) =>
        if c.done || c.fail.isSome || c.seen.contains (chunk, src, final) then gone
        else if s.takes t c then
          match gone.takeChunk t c chunk src final (chunkEls elems counts fls) with
          | (u, true) => u
          | (u, false) => ((u.seeColl fold num).putAside fold num m).getD s
        else aside gone)

/-- The order in which spilled chunks come back (R373). -/
def State.rickKey (s : State) (m : Msg) : List Nat :=
  match m with
  | .chunk fold num chunk src .. => [if s.pkg.resv.contains (some (fold, num)) then 0 else 1, num, chunk, src]
  | _ => [2]

/-- The slot that a spilled message can return to. -/
def State.slotFor (s : State) (m : Msg) : Option Nat :=
  match m with
  | .chunk fold num .. => s.freeSlot fold num
  | _ => s.sharedSlot

/-- The first spilled message that finds a slot returns to it (R373), and a chunk is taken if its position can use it. -/
def execRickFetch (s : State) : Host.Outcome State Fault Refusal :=
  ok (match (sortBy (fun a b => s.rickKey a ≤ s.rickKey b) s.pkg.rick).findSome? fun m => (s.slotFor m).map fun i => (m, i) with
    | none => s
    | some (m, i) =>
      let s1 := { s with pkg := { s.pkg with rick := s.pkg.rick.erase m, slots := s.pkg.slots ++ [(i, m)] } }
      match m with
      | .chunk fold num _ _ pos .. => (match s.collAt fold num pos with
        | some (t, c) => if s1.takes t c then s1.drainSlots t c else s1
        | none => s1)
      | _ => s1)

/-- 50 µs after a message that R374 covers left the package: it has been acknowledged end to end, for a HALO by the peer that has written its
elements (R376), or it leaves again. -/
def execChunkResend (msg : MsgFate) (s : State) : Host.Outcome State Fault Refusal :=
  ok (match s.out[msg.id]? with
    | none => s
    | some m =>
      let covered := match m with | .chunk .. | .tree .. | .halo .. | .remote .. | .remoteGet .. => true | _ => false
      if !covered || s.pkg.ackedOut.contains msg.id then s
      else if msg.acked then
        let s1 := { s with pkg := { s.pkg with ackedOut := s.pkg.ackedOut ++ [msg.id] } }
        match m with
        | .halo fold src dst tag num _ => s1.haloWritten fold src dst tag num
        | _ => s1
      else { s with out := s.out ++ [m] })

/-! ## Start (R364) -/

/-- The pointers that a collective uses: each with its check as for a store, its format, and its tile. -/
def collPtrs (w : DWord) (g : Group) : List (QWord × Bool × Ty × QWord) :=
  if collKind w == .bar then []
  else
    let d := g.tile ((wDst w).toNat % 8)
    let x := g.tile (wTsel w).toNat
    let k := g.tile (((wDst w).toNat + 1) % 8)
    [(g.tilePtr d, true, collTy w, d), (g.tilePtr x, false, collTy w, x)] ++
      (if collCn w then [(g.tilePtr k, true, .n32, k)] else [])

/-- The first check of R364 that fails, beyond the words and the agent: its cause and subcode; 0x94 stands for BOUNDS. -/
def State.collCheck (s : State) (g : Nat) (w : DWord) : Option (Nat × Nat) :=
  let x := s.group g
  let ps := collPtrs w x
  if ps.any fun p => !tileV p.2.2.2 then some (0x0C, 0x02)
  else match [1, 2, 3, 4, 5, 6, 7, 8].findSome? fun n => ps.findSome? fun p => s.ptrStep g p.1 (· == p.2.2.1) p.2.1 n with
    | some e => some e
    | none =>
      let qs := ps.filterMap fun p => (ptrOf p.1).map fun q => (q, p.2.2.2)
      if qs.any fun q => !glbLoc q.1 then some (0x04, 0x06)
      else if qs.any fun q => tileBeyond q.2 q.1 then some (0x0C, 0x03)
      else if collRooted w && (x.sreg (wSa w).toNat).toNat ≥ 2 ^ 23 then some (0x0C, 0x04)
      else if (s.objPlace x.team .loc (x.sreg (wSc w).toNat).toNat).isNone then some (0x94, 0)
      else none

/-- Every live group of the team takes the trap of a collective that may not start, with TRAPPC at its COLL (R364). -/
def State.collTrap (s : State) (ws : List (Nat × DWord × DWord)) (cause sub : Nat) : State :=
  ws.foldl (fun s w =>
    let x := s.group w.1
    if x.ended then s
    else if cause == 0x94 && (s.team x.team).user then
      let k := Config.undef s.tick 0
      let e := x.firstSet
      s.park w.1 e w.2.2 ((lanesOf (x.set e).lanes).map fun L =>
        { lane := L, code := 0x14, elem := k, va := k, info := k, flags := 1 })
    else s.trapGroup w.1 { entry := x.firstSet, cause, sub, word := w.2.1, lit := 0, pc := w.2.2, waits := [], info := none, seqTeam := none }) s

/-- The contribution of a position sent to the root, and to the other packages (R365, R366): when it starts, without elements, and in tree mode
again once they are read. -/
def State.collTell (s : State) (c : Coll) (els : List Nat) : State :=
  let bar := collKind c.word == .bar
  let m : Msg := .tree c.fold c.num c.pos c.word c.root (if bar then 0 else tileCount c.stile) (if bar then 0 else tileCount c.dtile)
    (els.map (BitVec.ofNat 128))
  let s1 := s.send m
  if c.participants.all s.ownKey then s1 else { s1 with out := s1.out ++ [m] }

/-- A position's part begins, once every participant has started (R370): in tree mode its source is read and sent, in ring mode it takes and
starts chunks (R366, R372). -/
def State.collLoad (s : State) (t : Nat) (c : Coll) (ring : Bool) : State :=
  let go (s : State) (els : List Nat) : State := s.modColl t c.id fun x => { x with loaded := true, elems := els }
  if collKind c.word == .bar then go s []
  else if ring then
    let s1 := go s []
    s1.drainSlots t { c with loaded := true }
  else match ptrOf c.src with
    | none => s
    | some p =>
      match s.cmdMoves (c.cmd t) (some p) none [] ((tileElems c.stile).map fun k => (some k, 0)) with
      | (_, some f) => s.collFault t c f.1 f.2
      | (ms, none) =>
        let es := ms.filterMap (·.1)
        if es.any fun e => s.waits e.place then s.recallAll (es.map (·.place))
        else
          let r := s.cmdRead (c.cmd t) p (tailCode (c.cmd t).nf p.ty) (ms.map (·.1))
          (go r.1 (r.2.map (·.1))).collTell c (r.2.map (·.1))

/-- A collective created with what the agent holds at the start (R364). -/
def State.collNew (s : State) (t g k : Nat) (w : DWord) (f : Fold) : State :=
  let x := s.group g
  let sl := x.fold k
  let num := sl.colls % 2 ^ 20
  let ct := x.tile (((wDst w).toNat + 1) % 8)
  let failed := !(s.collsOf fun c => c.fold == f.id && c.num == num && c.fail.any (· != 1)).isEmpty
  let c : Coll :=
    { id := s.cmdNo, fold := f.id, num, word := w, agent := g, participants := f.rest
      ranks := f.rest.map fun key => f.members.findIdx (· == key), pos := f.rest.findIdx (· == sl.key)
      src := x.tilePtr (x.tile (wTsel w).toNat), stile := x.tile (wTsel w).toNat
      dst := x.tilePtr (x.tile ((wDst w).toNat % 8)), dtile := x.tile ((wDst w).toNat % 8)
      cptr := x.tilePtr ct, ctile := ct, root := if collRooted w then x.sreg (wSa w).toNat else 0
      obj := (x.sreg (wSc w).toNat).toNat, fs := x.regs.f
      loaded := false, elems := [], fls := [], got := [], seen := [], held := false, fail := if failed then some 2 else none, done := false }
  let s1 := { s with cmdNo := s.cmdNo + 1 }.modTeam t fun y => { y with colls := y.colls ++ [c] }
  ((s1.modFold g k fun y => { y with colls := y.colls + 1 }).seeColl f.id num).collTell c []

/-- The oldest COLL of each group of a team. -/
def Team.firstWords (t : Team) : List (Nat × DWord × DWord) :=
  (t.collWords.map (·.1)).dedup.filterMap fun g => t.collWords.find? fun w => w.1 == g

/-- A team's collective starts once its last live group has issued its COLL (R364). -/
def execCollectiveStart (t : Nat) (s : State) : Host.Outcome State Fault Refusal :=
  let x := s.team t
  let ws := x.firstWords
  let live := (s.teamGroups t).filter fun g => !(s.group g).ended
  ok (if x.st != .resident || !(live.all fun g => ws.any fun w => w.1 == g) then s
    else match ws with
      | [] => s
      | (_, w, _) :: _ =>
        let k := (wSlot w).toNat
        let s1 := s.modTeam t fun y => { y with collWords := ws.foldl (fun l w => l.erase w) y.collWords }
        if ws.any fun v => v.2.1 != w then s1.collTrap ws 0x0C 0x05
        else match live.filter fun g => ((s.group g).fold k).valid with
          | [g] =>
            (match s.collCheck g w with
              | some (c, sub) => s1.collTrap ws c sub
              | none => match s.foldOf ((s.group g).fold k).fid with
                | some f => s1.collNew t g k w f
                | none => s)
          | _ => s1.collTrap ws 0x0C 0x01)

/-- The contribution of a position to a collective. -/
def State.contribOf (s : State) (fold num pos : Nat) : Option Contrib :=
  s.pkg.contribs.find? fun c => c.fold == fold && c.num == num && c.pos == pos

/-- A contribution reaches the package's node, once for each position: first that it has started, then its elements (R366, R374). -/
def execTreeContribution (fold num pos : Nat) (word : BitVec 64) (root : BitVec 32) (count dcount : Nat) (elems : List (BitVec 128))
    (s : State) : Host.Outcome State Fault Refusal :=
  let m : Msg := .tree fold num pos word root count dcount elems
  let x : Contrib := { fold, num, pos, word, root, count, dcount, elems }
  let add (s : State) : State :=
    if (s.foldOf fold).isNone then s
    else match s.contribOf fold num pos with
      | some c =>
        if !c.elems.isEmpty || elems.isEmpty then s
        else { s with pkg := { s.pkg with contribs := s.pkg.contribs.map fun d => if d == c then x else d } }
      | none => let s1 := s.seeColl fold num; { s1 with pkg := { s1.pkg with contribs := s1.pkg.contribs ++ [x] } }
  ok (if s.msgs.contains m then add { s with msgs := s.msgs.erase m }
    else if s.posHere fold pos then s
    else add { s with out := s.out ++ [.ack (s.posPkg fold pos) [1, fold, num, pos]] })

/-! ## Completion (R365, R368-R371) -/

/-- The requirements of R365 on the contributions of all participants, in position order; the root is named by its rank. -/
def collShapeOk (w : DWord) (ranks : List Nat) (cs : List Contrib) : Bool :=
  let P := ranks.length
  let E := (cs.head?.map (·.count)).getD 0
  let same := cs.all fun (c : Contrib) => collKey c.word == collKey w
  let eqE := cs.all fun (c : Contrib) => c.count == E
  let eqRoot := cs.all fun (c : Contrib) => some c.root == cs.head?.map (fun (x : Contrib) => x.root)
  let root := ranks.findIdx (· == ((cs.head?.map fun (x : Contrib) => x.root).getD 0).toNat)
  same && (match collKind w with
    | .ar => eqE && cs.all fun (c : Contrib) => c.dcount == E
    | .rs => eqE && E % P == 0 && cs.all fun (c : Contrib) => c.dcount == E / P
    | .ag => eqE && cs.all fun (c : Contrib) => c.dcount == P * E
    | .bc => eqRoot && root < P && cs.all fun (c : Contrib) => some c.dcount == cs[root]?.map (fun (x : Contrib) => x.count)
    | .rd => eqE && eqRoot && root < P && cs[root]?.map (fun (x : Contrib) => x.dcount) == some E
    | .bar => true)

/-- The source of position `q`, copied. -/
def copiedFrom (cs : List Contrib) (q : Nat) : List RedEl := ((cs[q]?.map (·.elems)).getD []).map fun e => copyEl e.toNat

/-- What the destination of this position receives in tree mode, in tile order (R365), from contributions in the order of their arrival. -/
def Coll.result (c : Coll) (choice : Nat) (arrived : List Contrib) : List RedEl :=
  let cs := sortBy (fun (a b : Contrib) => a.pos ≤ b.pos) arrived
  let P := c.participants.length
  match collKind c.word with
  | .ar => c.treeRed choice arrived
  | .rs => let l := c.treeRed choice arrived; (l.drop (c.pos * (l.length / P))).take (l.length / P)
  | .ag => (List.range P).flatMap (copiedFrom cs)
  | .bc => copiedFrom cs c.rootPos
  | .rd => if c.pos == c.rootPos then c.treeRed choice arrived else []
  | .bar => []

/-- The collective runs in ring mode: its source, for `.bc` the root's, is longer than tree mode takes (R366). -/
def Coll.ring (c : Coll) (cs : List Contrib) : Bool :=
  let n := match collKind c.word with | .bc => ((cs.find? fun x => x.pos == c.rootPos).map (·.count)).getD 0 | _ => (cs.head?.map (·.count)).getD 0
  collKind c.word != .bar && collRing c.word n

/-- The final chunks that a position must have seen, by number and source (R366, R372). -/
def Coll.finals (c : Coll) (cs : List Contrib) : List (Nat × Nat) :=
  let chunks (n : Nat) : List Nat := List.range (collChunks c.word n)
  let at_ (q : Nat) : Nat := ((cs.find? fun x => x.pos == q).map (·.count)).getD 0
  match collKind c.word with
  | .ag => (List.range c.participants.length).flatMap fun q => (chunks (at_ q)).map fun k => (k, q)
  | .bc => (chunks (at_ c.rootPos)).map fun k => (k, c.rootPos)
  | .bar => []
  | _ =>
    if collLoose c.word then (List.range c.participants.length).flatMap fun q => (chunks (at_ q)).map fun k => (k, q)
    else (chunks (at_ c.pos)).map fun k => (k, c.chain k)

/-- The first failure since the last CLR recorded (R371). -/
def Team.collFail (t : Team) (c : Coll) (code : Nat) : Team :=
  if bit t.collStat 31 then t
  else { t with collStat := 1#1 ++ wMinor c.word ++ BitVec.ofNat 8 code ++ BitVec.ofNat 16 c.num }

/-- A collective is over at a position: its arrival, and the reservation passed on; chunks that still wait for it are dropped (R369, R371,
R373, R374). -/
def State.collEnd (s : State) (t : Nat) (c : Coll) : State :=
  let mine (m : Msg) : Bool := match m with
    | .chunk fold num _ _ pos .. => fold == c.fold && num == c.num && pos == c.pos
    | _ => false
  let s0 := s.modColl t c.id fun x => { x with done := true, elems := [], got := [] }
  let s1 := { s0 with pkg := { s0.pkg with slots := s0.pkg.slots.filter fun x => !mine x.2, rick := s0.pkg.rick.filter fun m => !mine m } }
  let s2 := (s1.objArriveOne t (.loc, c.obj)).releaseResv c.fold c.num
  let s3 := if (s2.foldOf c.fold).isNone then s2.modTeam t fun x => { x with colls := x.colls.filter fun d => d.id != c.id } else s2
  s3.teamLocks t

/-- Flags delivered to a whole team, counted once for each element (R111, R368). -/
def State.flagTeam (s : State) (t : Nat) (fls : List Fl) : State :=
  let fl := joinFl fls
  let s1 := (s.teamGroups t).foldl (fun s g => s.modGroup g fun x =>
    let r := x.ra.map fun r => let y := ({ x with regs := r.regs }.orFlags fl); { r with regs := y.regs }
    { x.orFlags fl with ra := r }) s
  s1.modCtx (s.team t).ctx fun c => { c with exc := addExc c.exc (fls.filter (· != 0)) }

/-- A failed collective: recorded; MEMBER leaves the destination undefined (R6, R371). -/
def State.collFailed (s : State) (t : Nat) (c : Coll) (code : Nat) : State :=
  let gets := match collKind c.word with | .bar => false | .rd => c.pos == c.rootPos | _ => true
  let s1 := if code == 2 && gets then
      match ptrOf c.dst with
      | none => s
      | some d => (s.tileWrite t c d [] ((tileElems c.dtile).zipIdx.map fun k => (k.1, undefCode s.tick k.2))).1
    else s
  (s1.modTeam t fun x => x.collFail c code).collEnd t c

/-- A collective that has everything is over: the flags of what was written, the count of completed ones (R368, R369, R371). -/
def State.collOver (s : State) (t : Nat) (c : Coll) (fls : List Fl) : State :=
  ((s.flagTeam t fls).modTeam t fun x => { x with collDone := x.collDone + 1 }).collEnd t c

/-- A position of another package is over only where it has failed.  A collective goes on at a position of this package: it waits for every participant to start (R370), fails (R371), begins its own part, sends
the next chunk that starts here (R372), or completes (R369). -/
def execCollectiveComplete (fold num pos : Nat) (s : State) : Host.Outcome State Fault Refusal :=
  ok (match s.collAt fold num pos with
    | none => s.collTold fold num pos
    | some (t, c) =>
      if c.done || c.held || (s.team t).st != .resident then s
      else match c.fail with
        | some code => s.collFailed t c code
        | none =>
          let cs := s.pkg.contribs.filter fun x => x.fold == fold && x.num == num
          let P := c.participants.length
          if cs.length < P then s
          else if !collShapeOk c.word c.ranks (sortBy (fun (a b : Contrib) => a.pos ≤ b.pos) cs) then s.collFailed t c 1
          else if !c.loaded then s.collLoad t c (c.ring cs)
          else if c.ring cs then
            match c.toStart with
            | some k => s.startChunk t c k
            | none => if (c.finals cs).all fun x => c.got.any fun g => g.chunk == x.1 && g.src == x.2 then s.collOver t c c.fls
              else s.drainSlots t c
          else if cs.any fun x => x.elems.length != x.count then s
          else match s.collDeliver t c ((c.result (s.tick * 2 ^ 23 + c.pos) cs).zipIdx.map fun x => (x.2, x.1)) with
            | .error (u, f) => u.collFault t c f.1 f.2
            | .ok (u, fls) => u.collOver t c fls)

end Sys2Proof.Machine
end

