-- ==== Sys2Proof/Machine/Link.lean ====
section
/-! DEFINITION. The Sward link layer of the package's ports (R377-R383): flits, acknowledgement and replay, retraining. -/

namespace Sys2Proof.Machine
open Sys2Proof

/-! ## Sending, acknowledgement and replay (R379, R380) -/

/-- Full, half or down (R382). -/
def Port.up (p : Port) : Bool := p.width != 0

/-- The number of flits sent and not acknowledged. -/
def Port.unacked (p : Port) : Nat := p.replay.length

/-- The next flit that may go: the first of a virtual channel with credits, while at most 2,048 are unacknowledged and the port neither trains nor is
down (R379, R380). -/
def Port.nextOut (p : Port) : Option Flit :=
  if p.train || !p.up || 2048 ≤ p.unacked then none else p.queue.find? fun f => vecAt p.credits f.vc.toNat 0 != 0

/-- A flit leaves for the first time: it is numbered, spends a credit of its channel, and is kept for replay. -/
def Port.sendOne (p : Port) (f : Flit) : Port :=
  let g := flitSealed { f with seq := p.sendSeq, kind := 1 }
  { p with
    queue := p.queue.erase f, replay := p.replay ++ [g], out := p.out ++ [g], sendSeq := p.sendSeq + 1
    credits := vecPut p.credits f.vc.toNat (vecAt p.credits f.vc.toNat 0 - 1) }

/-- The flits that may go leave. -/
def Port.pumpN : Nat → Port → Port
  | 0, p => p
  | n + 1, p => match p.nextOut with
    | some f => (p.sendOne f).pumpN n
    | none => p

def Port.pump (p : Port) : Port := p.pumpN p.queue.length

/-- Every flit up to ACKSEQ freed. -/
def Port.free (p : Port) (ack : BitVec 12) : Port :=
  match p.replay with
  | [] => p
  | f :: _ =>
    let d := (ack + 1 - f.seq).toNat
    if d == 0 || p.unacked < d then p else { p with replay := p.replay.drop d, tries := 0 }

/-- The flits sent and not acknowledged leave again, in order, with unchanged bytes; the replays are counted (R380, R382). -/
def Port.replayAll (p : Port) : Port :=
  if p.unacked == 0 then p
  else { p with
    out := p.out ++ p.replay, tries := p.tries + 1
    rplCount := if p.rplCount == BitVec.allOnes 12 then p.rplCount else p.rplCount + 1 }

/-- The virtual channel whose credits go back next, and how many (R379). -/
def Port.owing (p : Port) : BitVec 3 × BitVec 8 :=
  match (List.range 8).find? fun v => vecAt p.owed v 0 != 0 with
  | some v => (BitVec.ofNat 3 v, BitVec.ofNat 8 (min 255 (vecAt p.owed v 0)))
  | none => (0, 0)

/-- An IDLE flit with the acknowledgement, or a NAK, and the credits of one channel; another follows while more are owed. -/
def Port.sendIdle (p : Port) (me : BitVec 9) (nak : Bool) : Port :=
  let c := p.owing
  let owed := vecPut p.owed c.1.toNat (vecAt p.owed c.1.toNat 0 - c.2.toNat)
  { p with out := p.out ++ [ackFlit me p.ackseq nak c.1 c.2], acked := p.ackseq, owed, due := owed.toList.any (· != 0) }

/-- The acknowledgement sent. -/
def Port.sendAck (p : Port) (me : BitVec 9) : Port := p.sendIdle me false

/-- A NAK for the open gap. -/
def Port.sendNak (p : Port) (me : BitVec 9) : Port := { p.sendIdle me true with gap := true, naks := p.naks + 1 }

/-- Retraining begins at the end that detects its cause, or by request (R381, R382). -/
def Port.beginRetrain (p : Port) (me : BitVec 9) (lanes : BitVec 16) (requested : Bool) : Port :=
  Port.sendRetrain { p with train := true, step := 2, mask := p.mask ||| lanes, requested, due := false } me

/-- The replay limit of R381. -/
def Port.limit (p : Port) (me : BitVec 9) : Port := if p.tries ≥ 8 && !p.train then p.beginRetrain me 0 false else p

/-! ## The lanes chosen (R381, R382) -/

/-- Lanes 0 to 7, and 8 to 15. -/
def lowLanes (m : BitVec 16) : Bool := bits m 0 8 != 0
def highLanes (m : BitVec 16) : Bool := bits m 8 8 != 0

/-- The width that a retrain comes to; 0 is DOWN.  An automatic one of a port that runs at half width goes DOWN; with no failed lane
found, one at full width keeps it. -/
def Port.chosen (p : Port) (failed : BitVec 16) : BitVec 2 :=
  if lowLanes failed && highLanes failed then 0
  else if !p.requested && p.width != 3 then 0
  else if lowLanes failed then 2
  else if highLanes failed then 1
  else 3

/-! ## The ports of the package -/

def State.port (s : State) (n : Nat) : Port := vecAt s.pkg.ports n Port.zero
def State.setPort (s : State) (n : Nat) (p : Port) : State := { s with pkg := { s.pkg with ports := vecPut s.pkg.ports n p } }
def State.modPort (s : State) (n : Nat) (f : Port → Port) : State := s.setPort n (f (s.port n))

/-- The width that a retrain of port `n` comes to: one that runs at half width stays there while its lane is tested (R439). -/
def State.chosenWidth (s : State) (n : Nat) (failed : BitVec 16) : BitVec 2 :=
  let p := s.port n
  let w := p.chosen failed
  if w == 3 && s.pkg.tests.any (fun t => t.cls == 4 && t.place == n) then p.width else w

/-- A change of WIDTH, with its bandwidth-change event (R382). -/
def State.setWidth (s : State) (n : Nat) (w : BitVec 2) : State :=
  let old := (s.port n).width
  if n ≥ 12 || old == w then s
  else (s.modPort n fun p => { p with width := w }).postEvent
    (0x21#8 ++ BitVec.ofNat 4 n ++ old ++ w ++ BitVec.ofNat 48 s.pkg.timens)

/-- The port that the routing table names next for a destination, of those that are up: what a port that goes down has held, and newer messages,
leave through the same one (R383).  The table's contents are not the manual's (log 12). -/
def State.nextPort (s : State) (n : Nat) (dpkg : BitVec 9) : Option Nat :=
  let k := (Config.device 9 dpkg.toNat).toNat
  ((List.range 12).map fun i => (k + i) % 12).find? fun i => i != n && (s.port i).up

/-- A port goes DOWN: what it holds leaves through the next ports, in order and before what they have not sent (R383). -/
def State.portDown (s : State) (n : Nat) : State :=
  let p := s.port n
  let s1 := (s.setWidth n 0).modPort n fun p =>
    { p with train := false, step := 0, queue := [], replay := [], requested := false, mask := 0, tries := 0, peerReady := false }
  let s2 := (p.replay ++ p.queue).foldr (fun f s => match s.nextPort n f.dpkg with
    | some k => s.modPort k fun p => { p with queue := f :: p.queue }
    | none => s) s1
  (List.range 12).foldl (fun s k => s.modPort k Port.pump) s2

/-! ## Messages become flits (R379, R380) -/

/-- The virtual channel of a message (R379). -/
def Msg.vc : Msg → BitVec 3
  | .fill .. | .probe .. => 1
  | .atomic .. | .atomicResult .. => 2
  | .chunk .. | .tree .. | .collFail .. => 3
  | .combined .. | .foldAck .. | .join .. | .leave .. | .contribution .. | .formed .. | .refused .. | .result .. | .remoteFormed .. | .remoteRefused .. | .remoteResult .. => 4
  | .halo .. | .remote .. | .remoteAck .. | .remoteBad .. | .ack .. => 5
  | .request .. | .writeBack .. | .probeAck .. | .store .. | .snoopResp .. | .remoteGet .. => 0
  | .manage .. => 6

/-- The packages that a message of this one goes to: those of the keys it names, of the copies it concerns, of the fold's members. -/
def State.msgDests (s : State) (m : Msg) : List Nat :=
  let members (fold : Nat) : List Nat := match s.foldOf fold with
    | some f => f.members.map (· / 2 ^ 14)
    | none => []
  ((match m with
    | .fill pkg .. => [pkg]
    | .remote dst .. | .remoteAck dst .. | .remoteBad dst .. | .remoteGet dst .. | .ack dst _ => [dst]
    | .atomicResult dst .. => [dst]
    | .remoteFormed key .. | .remoteRefused key .. | .remoteResult key .. | .foldAck _ _ key => [key / 2 ^ 14]
    -- towards the switch, over the first of the other packages
    | .combined id .. | .leave id _ => ((members id).filter (· != s.pkg.num.toNat)).take 1
    | .collFail fold _ _ => members fold
    | .chunk fold _ _ _ pos .. => match s.foldOf fold with
      | some f => [f.rest.getD pos 0 / 2 ^ 14]
      | none => []
    | .tree fold .. => members fold
    | .halo fold _ dst .. => match s.foldOf fold with
      | some f => [f.members.getD dst 0 / 2 ^ 14]
      | none => []
    | .request _ ln _ | .writeBack _ ln .. | .probeAck _ ln _ => [paPkg (ln * 128)]
    | .atomic dst .. | .manage dst .. | .store dst .. => [dst]
    | .probe _ _ mode sharers =>
      let ptr (k : Nat) : Nat := (bits sharers (14 * k + 5) 9 : BitVec 9).toNat
      match mode.toNat with
      | 1 => [ptr 0]
      | 2 => [ptr 0, ptr 1]
      | 3 => ((List.range 64).filter fun g => bit sharers (32 + g)).flatMap fun g => (List.range 8).map (8 * g + ·)
      | _ => []
    | _ => []).dedup).filter (· != s.pkg.num.toNat)

/-- The bytes of a message: R375 gives those of a packet; the layout of the others, and their length, are not the manual's (log 48). -/
def Msg.body (id : Nat) (m : Msg) : List Byte :=
  match m with
  | .remote _ src cmd num pa bytes =>
    leBytes 8 pa ++ leBytes 2 bytes.length ++ leBytes 2 0 ++ leBytes 4 (src % 2 ^ 17 + cmd % 2 ^ 15 * 2 ^ 17) ++ leBytes 4 num ++ leBytes 12 0 ++ bytes
  | _ => Config.wire id

/-- The flits of a message to a package: 224 bytes each, marked as a whole message, or its first, middle and last part (R378). -/
def msgFlits (me : BitVec 9) (dst : Nat) (vc : BitVec 3) (body : List Byte) : List Flit :=
  let parts := inParts 224 body
  parts.zipIdx.map fun p =>
    let frag : BitVec 2 := if parts.length == 1 then 0 else if p.2 == 0 then 1 else if p.2 + 1 == parts.length then 3 else 2
    { seq := 0, ackseq := 0, av := false, nak := false, kind := 1, cred := 0, cvc := 0, vc, dpkg := BitVec.ofNat 9 dst, spkg := me
      plen := BitVec.ofNat 8 p.1.length, frag, rsv := 0, payload := BitVec.ofNat 1792 (leNat p.1), crc := 0, hits := [] }

/-- A message given to the port towards each of its packages; where no port is up it is lost (R246, R356, R375, R383). -/
def State.postMsg (s : State) (id : Nat) (m : Msg) : State :=
  (s.msgDests m).foldl (fun s d => match s.nextPort 12 (BitVec.ofNat 9 d) with
    | some k => s.modPort k fun p => Port.pump { p with queue := p.queue ++ msgFlits s.pkg.num d m.vc (m.body id) }
    | none => s) s

/-- The messages that have left since the last step are given to the ports. -/
def State.postAll (s : State) : State :=
  let new := (s.out.zipIdx).drop s.pkg.posted
  if new.isEmpty then s
  else
    let s1 := new.foldl (fun s m => s.postMsg m.2 m.1) s
    { s1 with pkg := { s1.pkg with posted := s1.out.length } }

/-! ## Events (R380-R382) -/

/-- A DATA flit as the recorder keeps it (R441). -/
def State.recordFlit (s : State) (n : Nat) (f : Flit) : State := s.record 2 n (flitBytes f)

/-- RETRAIN arrives: DATA flits stop, and the lanes are chosen; one with an empty mask is a requested retrain (R381, R382). -/
def State.gotRetrain (s : State) (n : Nat) (lanes : BitVec 16) (ack : BitVec 12) : State :=
  s.modPort n fun p =>
    let q := p.free ack
    { q with train := true, step := 4, mask := q.mask ||| lanes, requested := q.requested || lanes == 0 }

/-- Both ends are READY: replay resumes on the chosen lanes, and PORTSTAT and the event follow (R381, R382). -/
def State.linkReady (s : State) (n : Nat) : State :=
  let p := s.port n
  let lf := if p.requested then p.mask else p.lfail ||| p.mask
  let q := { p with train := false, step := 0, lfail := lf, mask := 0, requested := false, tries := 0, gap := false, peerReady := false }
  let s1 := (s.setPort n q).setWidth n (s.chosenWidth n p.mask)
  s1.modPort n fun p => p.replayAll.pump

/-- READY arrives: before this end has come so far itself, it is kept (R381). -/
def State.gotReady (s : State) (n : Nat) (ack : BitVec 12) : State :=
  let s1 := s.modPort n fun p => if p.train then { p.free ack with peerReady := true } else p
  if (s.port n).train && (s.port n).step == 6 then s1.linkReady n else s1

/-- What the header of a good flit says beside its payload: acknowledgement, NAK, credits; a port that trains replays nothing (R379-R381). -/
def Port.header (p : Port) (f : Flit) : Port :=
  let q := if f.av then p.free f.ackseq else p
  let q1 := if f.nak && !q.train then q.replayAll else q
  Port.pump (if f.cred == 0 then q1
    else { q1 with credits := vecPut q1.credits f.cvc.toNat (vecAt q1.credits f.cvc.toNat 0 + f.cred.toNat) })

/-- A flit arrives (R380): a bad one, or a DATA flit out of sequence, opens a gap; a DATA flit in sequence is accepted, and its message
goes on to the unit it is for, which gives its buffer back (R379). -/
def execFlitReceive (port : Nat) (f : Flit) (s : State) : Host.Outcome State Fault Refusal :=
  let me := s.pkg.num
  let p := s.port port
  ok (if port ≥ 12 || !p.up || s.pkg.replay then s
    else if !flitGood f then (if p.gap || p.train then s else s.setPort port (p.sendNak me))
    else
      let q := (p.header f).limit me
      if f.kind == 2 then
        let lanes : BitVec 16 := bits f.payload 8 16
        let ack : BitVec 12 := bits f.payload 24 12
        let t := s.setPort port q
        match (bits f.payload 0 8 : BitVec 8).toNat with
        | 1 => t.gotRetrain port lanes ack
        | 2 => t.gotReady port ack
        | 3 => t.portDown port
        | _ => t
      else if f.kind != 1 || q.train then s.setPort port q
      else if f.seq == q.expected then
        let q1 := { q with expected := q.expected + 1, gap := false, due := true, owed := vecPut q.owed f.vc.toNat (vecAt q.owed f.vc.toNat 0 + 1) }
        (s.setPort port (if (q1.ackseq - q1.acked).toNat ≥ 64 then q1.sendAck me else q1)).recordFlit port f
      else s.setPort port (if q.gap then q else q.sendNak me))

/-- A NAK arrives (R380). -/
def execNakReceive (port : Nat) (ack : BitVec 12) (s : State) : Host.Outcome State Fault Refusal :=
  ok (if port ≥ 12 || !(s.port port).up || (s.port port).train then s
    else s.modPort port fun p => ((p.free ack).replayAll.pump).limit s.pkg.num)

/-- The acknowledgement is due (R380). -/
def execAckTimer (port : Nat) (s : State) : Host.Outcome State Fault Refusal :=
  ok (if port < 12 && (s.port port).up && (s.port port).due then s.modPort port fun p => p.sendAck s.pkg.num else s)

/-- A gap has stayed open for 1 µs (R380). -/
def execNakRepeat (port : Nat) (s : State) : Host.Outcome State Fault Refusal :=
  ok (if port < 12 && (s.port port).up && (s.port port).gap && !(s.port port).train then s.modPort port fun p => p.sendNak s.pkg.num else s)

/-- No progress of ACKSEQ for 2 µs (R380). -/
def execReplayTimeout (port : Nat) (s : State) : Host.Outcome State Fault Refusal :=
  ok (if port < 12 && (s.port port).up && !(s.port port).train then s.modPort port fun p => p.replayAll.limit s.pkg.num else s)

/-- Lanes lose lock or need too many corrections (R381). -/
def execLaneLossOfLock (port : Nat) (lanes : BitVec 16) (s : State) : Host.Outcome State Fault Refusal :=
  ok (if port < 12 && (s.port port).up then s.modPort port fun p => p.beginRetrain s.pkg.num lanes (p.requested && p.train) else s)

/-- RETRAIN of the other end (R381). -/
def execCtrlRetrain (port : Nat) (lanes : BitVec 16) (ack : BitVec 12) (s : State) : Host.Outcome State Fault Refusal :=
  ok (if port < 12 then s.gotRetrain port lanes ack else s)

/-- Training, lock and deskew are complete; the test pattern found `lanesFound` (R381, R382). -/
def execRetrainLockComplete (port : Nat) (lanesFound : BitVec 16) (s : State) : Host.Outcome State Fault Refusal :=
  let p := s.port port
  let failed := p.mask ||| lanesFound
  ok (if port ≥ 12 || !p.train || p.step > 5 then s
    else if s.chosenWidth port failed == 0 then
      (s.modPort port fun q => { q with lfail := q.lfail ||| failed, out := q.out ++ [ctrlFlit s.pkg.num 3 failed q.ackseq] }).portDown port
    else
      let s1 := s.setPort port { p with mask := failed, step := 6, out := p.out ++ [ctrlFlit s.pkg.num 2 failed p.ackseq] }
      if p.peerReady then s1.linkReady port else s1)

/-- READY of the other end (R381). -/
def execCtrlReady (port : Nat) (ack : BitVec 12) (s : State) : Host.Outcome State Fault Refusal :=
  ok (if port < 12 then s.gotReady port ack else s)

/-- DOWN of the other end (R378, R383). -/
def execCtrlDown (port : Nat) (s : State) : Host.Outcome State Fault Refusal := ok (if port < 12 then s.portDown port else s)

/-- A retrain requested through PORTCTL (R382). -/
def execPortctlRetrain (port : Nat) (s : State) : Host.Outcome State Fault Refusal :=
  ok (if port < 12 then s.retrainRequest port else s)

/-- RETRAIN again while it is not answered (R381). -/
def execRetrainResend (port : Nat) (s : State) : Host.Outcome State Fault Refusal :=
  ok (if port < 12 && (s.port port).train && (s.port port).step == 2 then s.modPort port fun p => p.sendRetrain s.pkg.num else s)

end Sys2Proof.Machine
end

