-- ==== Sys2Proof/Machine/Scale.lean ====
section
/-! DEFINITION. Scale codes (R312, R313) and index tables (R314), as class 8 and the matrix stream use them. -/

namespace Sys2Proof.Machine
open Sys2Proof

/-- ScaleVal of a present code in units of 2⁻¹⁸ (R312). -/
def scaleNat (c : Nat) : Nat := if c == 0 then 0 else (8 + c % 8) * 2 ^ (c / 8)

/-- ScaleVal of a present code (R312). -/
def scaleVal (c : Nat) : Xv := .fin false (scaleNat c) (-18) false

/-- A scale applied to a present element, by multiplication or division (R313); none is absent. -/
def scaleBy (op : Xv → Xv → Xv × Fl) (x : Xv) (c : Nat) : Option (Xv × Fl) :=
  if c == 0xFF then none
  else if c == 0 then
    match x with
    | .nan s => some (.nan false, if s then Fl.iv else 0)
    | .inf _ => some (.nan false, Fl.iv)
    | .fin n _ _ _ => some (.fin n 0 0 false, 0)
  else some (op x (scaleVal c))

/-- Byte `k` of a word. -/
def byteAt (v k : Nat) : Nat := v / 2 ^ (8 * k) % 256

/-- Index table `n` of a team. -/
def Team.table (t : Team) (n : Nat) : Vector (BitVec 8) 128 := vecAt t.xt n xtIdentity

/-- Entry `k` of index table `n`. -/
def Team.tableAt (t : Team) (n k : Nat) : Nat := (vecAt (t.table n) k 0).toNat

/-- Table `n` is valid for K (R314). -/
def Team.tableValid (t : Team) (n K : Nat) : Bool :=
  (List.range K).all fun k => t.tableAt n k < K && (List.range K).any fun j => t.tableAt n j == k

end Sys2Proof.Machine
end

