-- ==== Sys2Proof/Machine/Matrix.lean ====
section
/-! DEFINITION. The matrix stream (R286-R310, R326-R330): each word in its frame of checks, wait and arrival, and its effect. The
team that issues is the state's `cur.t`. -/

namespace Sys2Proof.Machine
open Sys2Proof

/-! ## Faults and the frame of a word (R303, R307) -/

/-- The causes of R309. -/
abbrev mxEnc : Nat := 1
abbrev mxFetch : Nat := 2
abbrev mxAddr : Nat := 3
abbrev mxOpnd : Nat := 4

/-- The oldest image of a team's drains reaches the scratchpad, at a moment of its own (R303, R306; log 8). -/
def State.drainOne (s : State) (t : Nat) : State :=
  match (s.team t).order.images with
  | [] => s
  | i :: is => (s.padWrite t i.1 i.2.1 i.2.2).modTeam t fun x => { x with order := { x.order with images := is } }

/-- All images of a team's drains reach the scratchpad, the oldest first: what MSYNC waits for (R302), and what a later word of the stream
reads (R306). -/
def State.drained (s : State) (t : Nat) : State :=
  let is := (s.team t).order.images
  if is.isEmpty then s
  else (is.foldl (fun s i => s.padWrite t i.1 i.2.1 i.2.2) s).modTeam t fun x => { x with order := { x.order with images := [] } }

/-- The sequencer of team `t` stops in FAULT with a cause; `waited` says that the word has consumed its wait (R307, R421, R460). -/
def State.mxFault (s : State) (t cause : Nat) (waited : Bool) : State :=
  match s.seqOf t with
  | none => s
  | some q =>
    let s1 := s.modSeq t fun q => { q with st := .fault, cause, wdone := waited }
    let s2 :=
      if !(s.team t).user then s1.interruptTeam t (0x0C + cause) 0 q.pc (some t)
      else s1.raise { s.teamRec t (0x0C + cause) 0 .seq q.pc q.pc with
        extra := leBytes 8 s.cur.word.toNat ++ leBytes 8 s.cur.lit.toNat }
    s2.teamLocks t

/-- The barrier that a word arrives on, and the sequencer moved on (R303). -/
def State.mxNext (s : State) (t : Nat) (w : MXW) (pc : DWord) (st : SeqSt) : State :=
  let s1 := s.modSeq t fun q => { q with pc := pc &&& 0x01FF_FFFF_FFFF_FFFF#64, st, wdone := false, cause := 0 }
  (if w.av then s1.arriveSeq t w.ab.toNat else s1).teamLocks t

/-- What a word does once its wait is over: the state after it, the next address and state; or the cause of its fault. -/
abbrev MxRes := Except Nat (State × DWord × SeqSt)

/-- The address after the word at `pc` (R301). -/
def mxAfter (pc : DWord) : DWord := pc + 16

/-- A matrix word: its address check, its wait, its effect, its arrival (R303, R307).  An address that only the format read with the tile
shows to be wrong faults before the wait all the same: the phase stays (R307, R330; log 42). -/
def mxForm (w : MXW) (addrOk : Team → Seq → Bool) (k : State → Seq → MxRes) (s : State) : State :=
  let t := s.cur.t
  match s.seqOf t with
  | none => s
  | some q =>
    if !addrOk (s.team t) q then s.mxFault t mxAddr q.wdone
    else if w.wv && !q.wdone && !((s.team t).bar w.wb.toNat).passable 32 then
      (s.modSeq t fun q => { q with st := .wait, waitOn := w.wb.toNat }).teamLocks t
    else
      let s1 := if w.wv && !q.wdone then
          (s.modHb fun h => h.consume (.bar t w.wb.toNat) (vecAt ((s.team t).bar w.wb.toNat).wph 32 0).toNat (mxParty t)).modTeam t fun x => x.consume w.wb.toNat 32
        else s
      match k s1 q with
      | .error c => if c == mxAddr then s.mxFault t c q.wdone else s1.mxFault t c (w.wv || q.wdone)
      | .ok (s2, pc, st) => s2.mxNext t w pc st

/-- A word whose effect changes the sequencer only, and which goes on at the next word. -/
def mxStep (w : MXW) (f : Seq → Seq) (s : State) : State :=
  mxForm w (fun _ _ => true) (fun s q => .ok (s.modSeq s.cur.t f, mxAfter q.pc, .run)) s

/-- A scratchpad address of a word: q register plus offset, modulo 2³² (R293, R297, R300). -/
def Seq.base (q : Seq) (r : BitVec 4) (off : Nat) : Nat := ((vecAt q.q r.toNat 0) + BitVec.ofNat 32 off).toNat

/-- `n` bytes from `a`, aligned, lie in the team's scratchpad. -/
def Team.mxInside (t : Team) (a al n : Nat) : Bool := a % al == 0 && a + n ≤ t.padSize

/-! ## The consumer groups (R294, R330) -/

/-- The consumer groups of a team by rank. -/
def State.consumers (s : State) (t : Nat) : List Nat :=
  (sortBy (fun a b => (s.group a).gidx ≤ (s.group b).gidx) (s.teamGroups t)).filter fun g => (s.group g).consumer

/-- Vector registers `r` to `r+n-1` of a consumer group can be read (R307). -/
def Group.mxReadable (g : Group) (r n : Nat) : Bool := !g.ended && (r + n ≤ 64 || g.ext)

/-- The formats that a word takes up for the type codes in `ks` (R330): MXOPND where a consumer group has ended, MXENC where the four
values differ or are invalid. -/
def State.mxFormats (s : State) (t : Nat) (ks : List (BitVec 3)) : Except Nat (BitVec 3 → Word) :=
  let cs := (s.consumers t).map s.group
  match cs with
  | [] => if ks.isEmpty then .ok fun _ => 0 else .error mxOpnd
  | c :: _ =>
    if ks.isEmpty then .ok c.nf
    else if cs.length < 4 || cs.any (·.ended) then .error mxOpnd
    else if ks.all fun k => nfValid (c.nf k) && cs.all fun d => d.nf k == c.nf k then .ok c.nf
    else .error mxEnc

/-- The narrow format that a type names. -/
def tyNf : Ty → List (BitVec 3)
  | .nf k => [k]
  | _ => []

/-- A vector register's lane in the banks (R304). -/
def Group.bankLane (g : Group) (r L : Nat) : Word := laneOf (vecAt g.regs.v r (Vector.replicate 32 0)) L

/-! ## Multiplication (R292-R296, R326-R329) -/

/-- K of a type's row (R292). -/
def mxK (nf : BitVec 3 → Word) (t : Ty) : Nat :=
  match t with
  | .f16 | .bf16 => 16
  | .nf k => if nfWidth (nf k) ≤ 4 then 128 else 64
  | _ => 64

/-- Registers of a B quarter. -/
def mxRegs (t : Ty) : Nat := match t with | .f16 | .bf16 => 1 | _ => 2

/-- The bytes of A (R293). -/
def mxASize (t : Ty) : Nat := match t with | .f16 | .bf16 => 1024 | _ => 2048

/-- A factor with its block's scale; none is absent (R313, R329). -/
abbrev Factor := Option (Xv × Fl)

/-- The scaled value of a code: `sc` is the scale code, none without SV. -/
def mxFactor (c : Coding) (code : Nat) (sc : Option Nat) : Factor :=
  match c.read code with
  | none => none
  | some x => match sc with
    | none => some (x, 0)
    | some k => scaleBy Xv.mul x k

/-- A product term (R295). -/
def mxProd (neg : Bool) (a b : Factor) : Factor :=
  match a, b with
  | some (x, fx), some (y, fy) =>
    let p := x.mul y
    some (if neg then p.1.neg else p.1, fx ||| fy ||| p.2)
  | _, _ => none

/-- SumRound over the incoming value and the product terms (R296). -/
def sumRound (v : Xv) (ps : List (Xv × Fl)) : Nat × Fl :=
  let fl := joinFl (ps.map (·.2))
  let ts := v :: ps.map (·.1)
  if ts.any Xv.isNan then (FFmt.f32.canon, fl)
  else
    let r := sumX .rne ts
    let q := FFmt.f32.round .rne r.1
    (q.1, fl ||| r.2 ||| q.2)

/-- An entry after the terms of a word (R295). -/
def mxEntry (z : Bool) (e : DWord) (ps : List (Xv × Fl)) : DWord :=
  let v := if z then Xv.negZero else FFmt.f32.value (accRead e).toNat
  let n := (if z then 0 else accCount e) + ps.length
  let fl := if z then 0 else accFl e
  let r := sumRound v ps
  accEntry ((!z && accCsat e) || n > 2 ^ 24 - 1) (fl ||| r.2) (min n (2 ^ 24 - 1)) (BitVec.ofNat 32 r.1)

/-- The tile of a word: row, column, and the entry's position in the store (R291). -/
def tileCells (trow : BitVec 5) (tcol : BitVec 2) : List (Nat × Nat × Nat) :=
  (List.range 32).flatMap fun i => (List.range 16).map fun j => (i, j, (16 * trow.toNat + i) * 64 + 16 * tcol.toNat + j)

/-- Every entry of a tile replaced by what `f` gives for its row, column and old value. -/
def Seq.mapTile (q : Seq) (trow : BitVec 5) (tcol : BitVec 2) (f : Nat → Nat → DWord → DWord) : Seq :=
  { q with acc := (tileCells trow tcol).foldl (fun a c => accPut a c.2.2 (f c.1 c.2.1 (accGet q.acc c.2.2))) q.acc }

/-- Element `e` of a memory image of type `t` (R82). -/
def imgElem (nf : BitVec 3 → Word) (t : Ty) (img e : Nat) : Nat := img / 2 ^ (e * contW nf t) % 2 ^ (codingOf nf t).w

/-- The registers that an MX word reads of the consumer group of rank `r` (R294, R327): the first register and how many. -/
def mxReads (f : MXF) (r : Nat) : List (Nat × Nat) :=
  [(f.breg.toNat, mxRegs f.bty)] ++ (if f.sv then [(f.sbreg.toNat, 1)] else []) ++ (if f.sv && r == 0 then [(f.sareg.toNat, 1)] else [])

/-- Element (k, col) of B in its stored position (R294), as a code. -/
def mxB (nf : BitVec 3 → Word) (f : MXF) (K : Nat) (gs : List Group) (k col : Nat) : Nat :=
  let E := elemsOf nf f.bty
  let p := col % 4 * K + k
  let g := gs.getD (col / 4) Group.dead
  elemGet nf f.bty (g.bankLane (f.breg.toNat + p / (32 * E)) (p % (32 * E) / E)).toNat (p % E)

/-- The stored position of logical position `k` (R328). -/
def mxPos (t : Team) (f : MXF) (k : Nat) : Nat := if f.xv then t.tableAt f.xsel.toNat k else k

/-- The 32 rows of A as factors (R293, R327, R328). -/
def mxRows (s : State) (t : Nat) (tr : Bool) (f : MXF) (nf : BitVec 3 → Word) (K a : Nat) (gs : List Group) : List (List Factor) :=
  let img := s.padNat t a (mxASize f.aty)
  (List.range 32).map fun i => (List.range K).map fun k =>
    let p := mxPos (s.team t) f k
    let sc := ((gs.getD 0 Group.dead).bankLane f.sareg.toNat i).toNat
    mxFactor (codingOf nf f.aty) (imgElem nf f.aty img (if tr then p * 32 + i else i * K + p))
      (if f.sv then some (byteAt sc (f.sasel.toNat + k / 32)) else none)

/-- The 16 columns of B as factors (R294, R327, R328). -/
def mxCols (s : State) (t : Nat) (f : MXF) (nf : BitVec 3 → Word) (K : Nat) (gs : List Group) : List (List Factor) :=
  (List.range 16).map fun j => (List.range K).map fun k =>
    let sc := ((gs.getD (j / 4) Group.dead).bankLane f.sbreg.toNat (j % 4)).toNat
    mxFactor (codingOf nf f.bty) (mxB nf f K gs (mxPos (s.team t) f k) j)
      (if f.sv then some (byteAt sc (f.sbsel.toNat + k / 32)) else none)

/-- Lanes of the result of instruction `n` made undefined in registers `r` on, wherever it stands: on its way, or in a register that nothing has
written since. -/
def Group.openResult (g : Group) (n r regs : Nat) (lanes : Word) (tick : Nat) : Group :=
  let free (k : Nat) : RegW := .v (r + k) (vregOf fun i => (Config.undef tick (32 * k + i)).toNat) lanes ones32
  let redo (w : RegW) : RegW := match w with
    | .v x val ls bm => .v x (mergeV val (vregOf fun i => (Config.undef tick (32 * (x - r) + i)).toNat) lanes ones32) ls bm
    | w => w
  { g with
    out := g.out.map fun p => if p.n == n then { p with ws := p.ws.map redo } else p
    regs := ((List.range regs).filter fun k => vecAt g.regs.vNo (r + k) 0 == n).foldl (fun x k => x.write n (free k)) g.regs }

/-- The values that an accumulator form has read of `cells` become undefined where they still stand (R283). -/
def State.openUse (s : State) (t : Nat) (u : AccUse) (cells : List Nat) : State :=
  match u.into with
  | .none => s
  | .regs g n r regs row =>
    let lanes : Word := maskOf fun L => u.rows.contains (row + L) && cells.contains ((row + L) * 64 + u.col)
    s.modGroup g fun x => x.openResult n r regs lanes s.tick
  | .elems cls sc ws => (ws.filter fun w => cells.contains w.1).foldl (fun s w =>
      let x := s.team t
      if w.2.val != codeOf w.2.nib (s.readPlace x.core cls sc w.2.place w.2.bytes).2.1 then s
      else match s.writePlace x.core (.group x.ctx) cls sc none { w.2 with val := (Config.undef s.tick w.1).toNat } with
        | .ok s1 => s1
        | .error _ => s) s

/-- What accumulator forms have read of the entries that a word touches, and with which it is not ordered, becomes undefined (R283). -/
def State.openReads (s : State) (t : Nat) (cells : List Nat) : State :=
  if cells.isEmpty then s
  else ((s.team t).order.uses.filter (s.team t).order.unordered).foldl (fun s u => s.openUse t u cells) s

/-- The frame of a word that touches a tile (R283): entries in which it is not ordered after an accumulator form are undefined before it and
after it, and so is what the form has read of them; `whole` says that it replaces every entry, `first` that its own arrival comes after the touch (R303, R306). -/
def mxTile (trow : BitVec 5) (tcol : BitVec 2) (whole first : Bool) (k : State → Seq → MxRes) (s : State) (q : Seq) : MxRes :=
  let t := s.cur.t
  let bs := tileBlocks trow tcol
  let o := (s.team t).order
  let cells := if o.uses.isEmpty then [] else
    ((tileCells trow tcol).map fun c => c.2.2).filter fun c => o.wordClash (c / 64) (c % 64)
  match k (s.modSeq t fun q => q.openCells s.tick cells) (q.openCells s.tick cells) with
  | .error c => .error c
  | .ok (s2, pc, st) =>
    .ok (((s2.openReads t cells).modSeq t fun q => q.openCells s.tick cells).modTeam t fun x =>
      let o1 := x.order.touched bs (if first then some x.order.arrivals else none)
      { x with order := if whole then o1.overwritten bs else o1 }, pc, st)

/-- What the formats of an MX word demand (R292, R326): one row of types, the scale bytes of every block, a valid table. -/
def mxTypesOk (t : Team) (f : MXF) (nf : BitVec 3 → Word) : Bool :=
  let K := mxK nf f.aty
  K == mxK nf f.bty && (!f.sv || (f.sasel.toNat + K / 32 ≤ 4 && f.sbsel.toNat + K / 32 ≤ 4)) &&
    (!f.xv || t.tableValid f.xsel.toNat K)

/-- The effect of MMA, MMS and MMAT (R295): `neg` for MMS, `tr` for MMAT. -/
def mxMul (neg tr : Bool) (f : MXF) (s : State) (q : Seq) : MxRes :=
  let t := s.cur.t
  let gs := (s.consumers t).map s.group
  let ranks := List.range 4
  let readable := ranks.all fun r => match gs[r]? with
    | none => false
    | some g => (mxReads f r).all fun x => g.mxReadable x.1 x.2
  if !readable then .error mxOpnd
  else match s.mxFormats t ((tyNf f.aty ++ tyNf f.bty).dedup) with
    | .error c => .error c
    | .ok nf =>
      if !mxTypesOk (s.team t) f nf then .error mxEnc
      else
        let next : DWord := mxAfter q.pc
        let o := (s.team t).order
        let cs := s.consumers t
        let settled := ranks.all fun r => (mxReads f r).all fun x => s.settledRegs (cs.getD r 0) x.1 x.2
        if !settled then
          .ok (s.modSeq t fun q => q.mapTile f.trow f.tcol fun i j _ => undefEntry s.tick (16 * i + j), next, .run)
        else
          let K := mxK nf f.aty
          let rows := mxRows (s.drained t) t tr f nf K (q.base f.qa f.aoff.toNat) gs
          let cols := mxCols s t f nf K gs
          let reads := ranks.map fun r =>
            let i := (gs.getD r Group.dead).gidx
            ({ gidx := i, regs := mxReads f r, since := s.hb.knows (mxParty t) (groupParty (cs.getD r 0)), stamp := o.arrivals, blocks := tileBlocks f.trow f.tcol } : MxRead)
          .ok ((s.modSeq t fun q => q.mapTile f.trow f.tcol fun i j e =>
            mxEntry f.z e ((List.zipWith (mxProd neg) (rows.getD i []) (cols.getD j [])).filterMap id)).modTeam t fun x =>
              { x with order := { x.order with reads := x.order.reads ++ reads } }, next, .run)

/-- The effect of an MX word on its tile: with Z it replaces every entry, and older reads no longer count. -/
def mxMulTile (neg tr : Bool) (f : MXF) : State → Seq → MxRes :=
  mxTile f.trow f.tcol false false fun s q =>
    mxMul neg tr f (if f.z then s.modTeam s.cur.t fun x => { x with order := x.order.overwritten (tileBlocks f.trow f.tcol) } else s) q

/-- The address check of an MX word (R293). -/
def mxMulAddr (f : MXF) (t : Team) (q : Seq) : Bool := t.mxInside (q.base f.qa f.aoff.toNat) 64 (mxASize f.aty)

/-- MMA (R295). -/
def execMma (f : MXF) (s : State) : Host.Outcome State Fault Refusal := ok (mxForm f.w (mxMulAddr f) (mxMulTile false false f) s)
/-- MMS (R295). -/
def execMms (f : MXF) (s : State) : Host.Outcome State Fault Refusal := ok (mxForm f.w (mxMulAddr f) (mxMulTile true false f) s)
/-- MMAT (R293, R295). -/
def execMmat (f : MXF) (s : State) : Host.Outcome State Fault Refusal := ok (mxForm f.w (mxMulAddr f) (mxMulTile false true f) s)

/-! ## Drains and tile moves (R297-R299) -/

/-- The bytes of a tile image. -/
def imgSize (nf : BitVec 3 → Word) (t : Ty) : Nat := 64 * contW nf t

/-- The address check of an MD word before its wait: of a narrow image the least size, its format being read with the tile (R330). -/
def mxImgAddr (f : MDF) (t : Team) (q : Seq) : Bool :=
  t.mxInside (q.base f.qd f.doff.toNat) 64 (match f.dty with | .nf _ => 256 | ty => imgSize (fun _ => 0) ty)

/-- What a format demands of the other fields of a drain (R297). -/
def mxDrainOk (f : MDF) (nf : BitVec 3 → Word) : Bool :=
  match f.dty with
  | .nf k => (f.rnd != .rto || 1 ≤ nfE (nf k)) && (!f.fv || f.fill.toNat < 2 ^ nfWidth (nf k))
  | _ => true

/-- The code that a drain delivers from an entry, and its flags (R98, R298). -/
def drainElem (f : MDF) (nf : BitVec 3 → Word) (e : DWord) : Nat × Fl :=
  let c := codingOf nf f.dty
  let v := FFmt.f32.value (accRead e).toNat
  match f.dmode.toNat with
  | 2 => ((c.round .rne true (Xv.ofInt (accCount e))).1, 0)
  | 3 => (e.toNat, 0)
  | m =>
    if accCount e == 0 then (if f.fv then f.fill.toNat else c.absent.getD 0, 0)
    else if m == 0 then c.round f.rnd false v
    else
      let d := v.div (Xv.ofInt (if accCsat e then 2 ^ 24 - 1 else accCount e))
      let r := c.round f.rnd false d.1
      (r.1, r.2 ||| d.2)

/-- The flags of a drain kept in its entry (R298). -/
def accOrFl (e : DWord) (fl : Fl) : DWord :=
  if fl == 0 then e else accEntry (accCsat e) (accFl e ||| fl) (accCount e) (accValue e)

/-- The effect of MDRN and MDRZ (R298): the image may reach the scratchpad later (R303). -/
def mxDrain (reset : Bool) (f : MDF) (s : State) (q : Seq) : MxRes :=
  let t := s.cur.t
  match s.mxFormats t (tyNf f.dty) with
  | .error c => .error c
  | .ok nf =>
    let d := q.base f.qd f.doff.toNat
    if !mxDrainOk f nf then .error mxEnc
    else if !(s.team t).mxInside d 64 (imgSize nf f.dty) then .error mxAddr
    else
      let w := contW nf f.dty
      let img := (tileCells f.trow f.tcol).foldr (fun c n => (drainElem f nf (accGet q.acc c.2.2)).1 + n * 2 ^ w) 0
      let s1 := s.modTeam t fun x => { x with order := { x.order with images := x.order.images ++ [(d, imgSize nf f.dty, img)] } }
      .ok (s1.modSeq t fun q => q.mapTile f.trow f.tcol fun _ _ e =>
        if reset then accReset else accOrFl e (drainElem f nf e).2, mxAfter q.pc, .run)

/-- The entry that an element of MLDC makes (R299). -/
def loadEntry (f : MDF) (code : Nat) : DWord :=
  if f.dmode == 3 then BitVec.ofNat 64 code &&& accBits
  else match (codingOf (fun _ => 0) f.dty).read code with
    | none => accReset
    | some x => let r := FFmt.f32.round .rne x; accEntry false r.2 1 (BitVec.ofNat 32 r.1)

/-- The effect of MLDC (R299). -/
def mxLoad (f : MDF) (s : State) (q : Seq) : MxRes :=
  let t := s.cur.t
  let img := (s.drained t).padNat t (q.base f.qd f.doff.toNat) (imgSize (fun _ => 0) f.dty)
  .ok (s.modSeq t fun q => q.mapTile f.trow f.tcol fun i j _ => loadEntry f (imgElem (fun _ => 0) f.dty img (16 * i + j)),
    mxAfter q.pc, .run)

/-- MDRN (R298). -/
def execMdrn (f : MDF) (s : State) : Host.Outcome State Fault Refusal := ok (mxForm f.w (mxImgAddr f) (mxTile f.trow f.tcol false true (mxDrain false f)) s)
/-- MDRZ (R298). -/
def execMdrz (f : MDF) (s : State) : Host.Outcome State Fault Refusal := ok (mxForm f.w (mxImgAddr f) (mxTile f.trow f.tcol true false (mxDrain true f)) s)
/-- MLDC (R299). -/
def execMldc (f : MDF) (s : State) : Host.Outcome State Fault Refusal := ok (mxForm f.w (mxImgAddr f) (mxTile f.trow f.tcol true false (mxLoad f)) s)
/-- MZERO (R299). -/
def execMzero (f : MDF) (s : State) : Host.Outcome State Fault Refusal :=
  ok (mxForm f.w (fun _ _ => true) (mxTile f.trow f.tcol true false fun s q =>
    .ok (s.modSeq s.cur.t fun q => q.mapTile f.trow f.tcol fun _ _ _ => accReset, mxAfter q.pc, .run)) s)

/-! ## Control (R301, R302) -/

/-- A branch of the stream: `f` gives whether it is taken and what it does to the q registers. -/
def mxBranch (f : MCF) (op : Word → Bool × Word) (s : State) : State :=
  mxForm f.w (fun _ _ => true) (fun s q =>
    let r := op (vecAt q.q f.qc.toNat 0)
    .ok (s.modSeq s.cur.t fun q => { q with q := vecPut q.q f.qc.toNat r.2 },
      if r.1 then q.pc + (f.tgt.signExtend 64 <<< 4) else mxAfter q.pc, .run)) s

/-- MJMP (R301). -/
def execMjmp (f : MCF) (s : State) : Host.Outcome State Fault Refusal := ok (mxBranch f (fun v => (true, v)) s)
/-- MBNZ (R301). -/
def execMbnz (f : MCF) (s : State) : Host.Outcome State Fault Refusal := ok (mxBranch f (fun v => (v != 0, v)) s)
/-- MDJNZ (R301). -/
def execMdjnz (f : MCF) (s : State) : Host.Outcome State Fault Refusal := ok (mxBranch f (fun v => (v - 1 != 0, v - 1)) s)
/-- MBLT (R301). -/
def execMblt (f : MCF) (s : State) : Host.Outcome State Fault Refusal := ok (mxBranch f (fun v => (v.ult f.imm, v)) s)

/-- Every earlier word has completed every effect (R302): later arrivals come after them (R306). -/
def State.mxSynced (s : State) : State :=
  (s.drained s.cur.t).modTeam s.cur.t fun x => { x with order := x.order.synced }

/-- MSYNC: earlier words have completed every effect, each being whole here (R302). -/
def execMsync (f : MSF) (s : State) : Host.Outcome State Fault Refusal :=
  ok (mxForm f.w (fun _ _ => true) (fun s q => .ok (s.mxSynced, mxAfter q.pc, .run)) s)
/-- MEND (R302). -/
def execMend (f : MSF) (s : State) : Host.Outcome State Fault Refusal :=
  ok (mxForm f.w (fun _ _ => true) (fun s q => .ok (s.mxSynced, q.pc, .ended)) s)

/-! ## Sequencer registers (R300) -/

/-- The second source. -/
def Seq.src2 (q : Seq) (f : MQF) : Word := if f.ib then f.imm else vecAt q.q f.qb.toNat 0

/-- Arithmetic on q registers. -/
def mxArith (f : MQF) (op : Word → Word → Word) (s : State) : State :=
  mxStep f.w (fun q => { q with q := vecPut q.q f.qd.toNat (op (vecAt q.q f.qa.toNat 0) (q.src2 f)) }) s

/-- MQSET (R300). -/
def execMqset (f : MQF) (s : State) : Host.Outcome State Fault Refusal := ok (mxArith f (fun _ y => y) s)
/-- MQADD (R300). -/
def execMqadd (f : MQF) (s : State) : Host.Outcome State Fault Refusal := ok (mxArith f (fun x y => x + y) s)
/-- MQSUB (R300). -/
def execMqsub (f : MQF) (s : State) : Host.Outcome State Fault Refusal := ok (mxArith f (fun x y => x - y) s)
/-- MQMUL (R300). -/
def execMqmul (f : MQF) (s : State) : Host.Outcome State Fault Refusal := ok (mxArith f (fun x y => x * y) s)
/-- MQSHL (R300). -/
def execMqshl (f : MQF) (s : State) : Host.Outcome State Fault Refusal :=
  ok (mxArith f (fun x y => if y.toNat ≥ 32 then 0 else x <<< y.toNat) s)
/-- MQAND (R300). -/
def execMqand (f : MQF) (s : State) : Host.Outcome State Fault Refusal := ok (mxArith f (fun x y => x &&& y) s)

/-- MQLD (R300). -/
def execMqld (f : MQF) (s : State) : Host.Outcome State Fault Refusal :=
  ok (mxForm f.w (fun t q => t.mxInside (q.base f.qa f.imm.toNat) 4 4) (fun s q =>
    let v := BitVec.ofNat 32 ((s.drained s.cur.t).padNat s.cur.t (q.base f.qa f.imm.toNat) 4)
    .ok (s.modSeq s.cur.t fun q => { q with q := vecPut q.q f.qd.toNat v }, mxAfter q.pc, .run)) s)

end Sys2Proof.Machine
end

