-- ==== Sys2Proof/Machine/Shuffle.lean ====
section
/-! DEFINITION. Class 3: shuffles, permutes and interleaving (R185-R195). -/

namespace Sys2Proof.Machine
open Sys2Proof

/-- An index, count or lane operand in SC: one 32-bit value, a short immediate sign-extended (R188). -/
def Group.lane32 (g : Group) (f : VF) (L : Nat) : Nat :=
  match f.ck with
  | .reg => (laneOf (g.vreg f.sc.toNat) L).toNat
  | .uni => (g.sreg f.sc.toNat).toNat
  | .imm => (f.sc.signExtend 32).toNat
  | .lit => f.lit.toNat % 2 ^ 32

/-- The present virtual lanes (R185). -/
def Group.presentLanes (g : Group) : Word := g.live

/-- What a lane receives from a source lane that is no member (R187): `own` for a B type. -/
def notMember (g : Group) (t : Ty) (own : Nat) : Nat :=
  if t.isB then own else replicateElem g.nf t ((codingOf g.nf t).absent.getD 0)

/-- The source lane of a shuffle; none names no lane (R189). -/
def shflLane (_ x : Nat) : Option Nat := if x < 32 then some x else none
def shupLane (L x : Nat) : Option Nat := if x ≤ L then some (L - x) else none
def shdnLane (L x : Nat) : Option Nat := if L + x < 32 then some (L + x) else none
def shxrLane (L x : Nat) : Option Nat := if L ^^^ x < 32 then some (L ^^^ x) else none
def shrtLane (L x : Nat) : Option Nat := some ((L + x % 32) % 32)

/-- A result written whole to the active lanes. -/
def laneState (f : VF) (n : Nat) (val : Group → Nat → Nat) (s : State) : State :=
  s.issue f.y fun g => g.put f.t (vWrites f.dst.toNat n (val g) (g.active s.cur.e f.msk) (fullBits n))

/-- SHFL, SHUP, SHDN, SHXR, SHRT: `lane` gives the source lane (R189).  Bits above W in the container of a narrow element move with the lane
(DESIGN CHOICE, log 98). -/
def shuffle (lane : Nat → Nat → Option Nat) (f : VF) (s : State) : State :=
  laneState f f.ty.regs (fun g L =>
    let a := g.vlane f.sa.toNat f.ty.regs
    match lane L (g.lane32 f L) with
    | some p => if bit (g.presentLanes &&& g.mreg f.sb.toNat) p then a p else notMember g f.ty (a L)
    | none => notMember g f.ty (a L)) s

/-- PRM2 (R189): a below 32, b from 32 to 63.  Bits above W move with the lane (DESIGN CHOICE, log 98). -/
def permute2 (f : VF) (s : State) : State :=
  laneState f f.ty.regs (fun g L =>
    let a := g.srcA false f f.ty
    let b := g.srcB false f f.ty
    let x := g.lane32 f L
    if x < 32 && bit g.presentLanes x then a x
    else if 32 ≤ x && x < 64 && bit g.presentLanes (x - 32) then b (x - 32)
    else notMember g f.ty (a L)) s

/-- The lane value of a in the lowest active lane, written to uniform registers (R190). -/
def firstLane (f : VF) (nonunif : Bool) (s : State) : State :=
  let act := s.act f.msk
  s.issue f.y fun g => match lanesOf act with
    | [] => g
    | L :: _ =>
      let a := g.vlane f.sa.toNat f.ty.regs
      let g1 := g.put f.t (sWrites f.dst.toNat f.ty.regs (a L) (fullBits f.ty.regs))
      if nonunif && (lanesOf act).any (fun k => a k != a L) then g1.orStatus 4 else g1

/-- INSL (R192). -/
def insertLane (f : VF) (s : State) : State :=
  let act := s.act f.msk
  s.issue f.y fun g =>
    let k := g.lane32 f 0
    if k < 32 && bit act k then
      g.put f.t (vWrites f.dst.toNat f.ty.regs (fun _ => g.sval f.sa.toNat f.ty.regs) (1#32 <<< k) (fullBits f.ty.regs))
    else g

/-- A source of BPRM: one 32-bit register, or for c an immediate or literal (R193). -/
def bytesOf (a b c : Nat) : Nat :=
  (List.range 4).foldl (fun acc k =>
    let sel := b / 2 ^ (8 * k) % 256
    acc + (if sel ≥ 128 then 0 else (c * 2 ^ 32 + a) / 2 ^ (8 * (sel % 8)) % 256 * 2 ^ (8 * k))) 0

/-- Where ZIPn and UNZn find flat index w·P + q: unit and position (R194). -/
def zipSource (n P w q : Nat) : Nat × Nat := ((w * P + q) % n, (w * P + q) / n)
def unzSource (n P w q : Nat) : Nat × Nat := ((q * n + w) / P, (q * n + w) % P)

/-- ZIPn and UNZn (R194). -/
def interleave (n : Nat) (source : Nat → Nat → Nat → Nat × Nat) (f : VF) (s : State) : State :=
  let act := s.act f.msk
  s.issue f.y fun g =>
    let G := f.ty.regs
    let E := elemsOf g.nf f.ty
    let unit (u L : Nat) : Nat := g.vlane (f.sa.toNat + G * u) G L
    let el (w L j : Nat) : Nat :=
      let us := source (32 * E) w (E * L + j)
      if bit g.presentLanes (us.2 / E) then elemGet g.nf f.ty (unit us.1 (us.2 / E)) (us.2 % E)
      else if f.ty.isB then elemGet g.nf f.ty (unit w L) j
      else (codingOf g.nf f.ty).absent.getD 0
    g.put f.t ((List.range n).flatMap fun w =>
      vWrites (f.dst.toNat + G * w) G (fun L => elemPack g.nf f.ty ((List.range E).map (el w L))) act (fullBits G))

/-! ## The instructions -/

/-- SHFL (R189). -/
def execShfl (f : VF) (s : State) : Host.Outcome State Fault Refusal :=
  ok (shuffle shflLane f s)
/-- SHUP (R189). -/
def execShup (f : VF) (s : State) : Host.Outcome State Fault Refusal :=
  ok (shuffle shupLane f s)
/-- SHDN (R189). -/
def execShdn (f : VF) (s : State) : Host.Outcome State Fault Refusal :=
  ok (shuffle shdnLane f s)
/-- SHXR (R189). -/
def execShxr (f : VF) (s : State) : Host.Outcome State Fault Refusal :=
  ok (shuffle shxrLane f s)
/-- SHRT (R189). -/
def execShrt (f : VF) (s : State) : Host.Outcome State Fault Refusal :=
  ok (shuffle shrtLane f s)
/-- PRM2 (R189). -/
def execPrm2 (f : VF) (s : State) : Host.Outcome State Fault Refusal :=
  ok (permute2 f s)
/-- RFAL (R190). -/
def execRfal (f : VF) (s : State) : Host.Outcome State Fault Refusal :=
  ok (firstLane f false s)
/-- RFAU (R190, R191). -/
def execRfau (f : VF) (s : State) : Host.Outcome State Fault Refusal :=
  ok (firstLane f true s)
/-- INSL (R192). -/
def execInsl (f : VF) (s : State) : Host.Outcome State Fault Refusal :=
  ok (insertLane f s)
/-- BPRM (R193). -/
def execBprm (f : VF) (s : State) : Host.Outcome State Fault Refusal :=
  ok (laneState f 1 (fun g L =>
    bytesOf (g.srcA false f f.ty L) (g.srcB false f f.ty L) (g.srcC false f f.ty L)) s)
/-- ZIP2 (R194). -/
def execZip2 (f : VF) (s : State) : Host.Outcome State Fault Refusal :=
  ok (interleave 2 (zipSource 2) f s)
/-- ZIP3 (R194). -/
def execZip3 (f : VF) (s : State) : Host.Outcome State Fault Refusal :=
  ok (interleave 3 (zipSource 3) f s)
/-- ZIP4 (R194). -/
def execZip4 (f : VF) (s : State) : Host.Outcome State Fault Refusal :=
  ok (interleave 4 (zipSource 4) f s)
/-- UNZ2 (R194). -/
def execUnz2 (f : VF) (s : State) : Host.Outcome State Fault Refusal :=
  ok (interleave 2 (unzSource 2) f s)
/-- UNZ3 (R194). -/
def execUnz3 (f : VF) (s : State) : Host.Outcome State Fault Refusal :=
  ok (interleave 3 (unzSource 3) f s)
/-- UNZ4 (R194). -/
def execUnz4 (f : VF) (s : State) : Host.Outcome State Fault Refusal :=
  ok (interleave 4 (unzSource 4) f s)

end Sys2Proof.Machine
end

