-- ==== Sys2Proof/Machine/Narrow.lean ====
section
/-! DEFINITION. Class 8: narrow formats, scales and index tables (R312-R325). -/

namespace Sys2Proof.Machine
open Sys2Proof

/-! ## Format registers and index tables (R318-R320) -/

/-- FSET: all 32 bits, whatever they say (R318). -/
def execFset (f : VF) (s : State) : Host.Outcome State Fault Refusal :=
  ok (s.issue f.y fun g =>
    { g with regs := { g.regs with f := vecPut g.regs.f f.dst.toNat (BitVec.ofNat 32 (g.lane32 f 0)) } })

/-- FGET (R318). -/
def execFget (f : VF) (s : State) : Host.Outcome State Fault Refusal :=
  ok (s.issue f.y fun g => g.put f.t [.s f.dst.toNat (vecAt g.regs.f f.sa.toNat 0) ones32])

/-- A write of a whole index table of the team; it waits in run-ahead (R315). -/
def tableWrite (f : VF) (tab : State → Nat → Nat) (s : State) : State :=
  s.unlessAhead fun s =>
    (s.modCt fun t => { t with xt := vecPut t.xt f.dst.toNat (Vector.ofFn fun k => BitVec.ofNat 8 (tab s k.val % 128)) }).advance f.y

/-- Byte `k` of a vector register over the virtual lanes; a lane that names no thread supplies zero, that of a thread that has ended its
bytes (R185, R319). -/
def Group.tableByte (g : Group) (r k : Nat) : Nat :=
  if bit g.present (k / 4) then byteAt (laneOf (g.vreg r) (k / 4)).toNat (k % 4) else 0

/-- XSET (R319). -/
def execXset (f : VF) (s : State) : Host.Outcome State Fault Refusal :=
  ok (tableWrite f (fun s k => s.cg.tableByte f.sa.toNat k) s)

/-- XID (R319). -/
def execXid (f : VF) (s : State) : Host.Outcome State Fault Refusal := ok (tableWrite f (fun _ k => k) s)

/-- XINV: the last k with xA[k] = j, or j where there is none (R319). -/
def execXinv (f : VF) (s : State) : Host.Outcome State Fault Refusal :=
  ok (tableWrite f (fun s j =>
    (((List.range 128).reverse).find? fun k => s.ct.tableAt f.sa.toNat k == j).getD j) s)

/-- XGET (R319). -/
def execXget (f : VF) (s : State) : Host.Outcome State Fault Refusal :=
  let t := s.ct
  ok (laneState f 1 (fun _ L => 
    (List.range 4).foldl (fun acc i => acc + t.tableAt f.sa.toNat (4 * L + i) * 2 ^ (8 * i)) 0) s)

/-- XPRM (R320). -/
def execXprm (f : VF) (s : State) : Host.Outcome State Fault Refusal :=
  let t := s.ct
  ok (laneState f 1 (fun g L =>
    let e := t.tableAt f.sb.toNat (32 * (f.sc.toNat % 4) + L)
    let r := g.vreg (f.sa.toNat + e / 32)
    (laneOf r (if bit g.presentLanes (e % 32) then e % 32 else L)).toNat) s)

/-! ## Scales (R321, R322) -/

/-- Max(t) (R321). -/
def maxFinite (nf : BitVec 3 → Word) (t : Ty) : Xv :=
  match codingOf nf t with
  | .flt F => F.value (F.maxMag false)
  | .fix s mb b => (Coding.fix s mb b).value (if s then 2 ^ mb - 1 else 2 ^ mb - 2)
  | c => Xv.ofInt c.maxInt

/-- The greater of two magnitudes. -/
def magMax (a b : Xv) : Xv := if a.abs.cmp b.abs == .lt then b.abs else a.abs

/-- The scale code of a block from its elements (R321). -/
def scaleCode (nf : BitVec 3 → Word) (t : Ty) (codes : List Nat) : Nat :=
  let present := codes.filterMap (codingOf noNf .f32).read
  let fin := present.filter fun x => !x.isNan && !x.isInf
  let m := fin.foldl magMax .zero
  if present.isEmpty then 0xFF
  else if fin.isEmpty || m.isZero then 0x78
  else ((List.range 0xFE).map (· + 1)).find? (fun c => m.cmp ((maxFinite nf t).mul (scaleVal c)).1 != .gt) |>.getD 0xFE

/-- SCALC (R321). -/
def execScalc (f : VF) (s : State) : Host.Outcome State Fault Refusal :=
  let act := s.act f.msk
  ok (s.issue f.y fun g =>
    let c := scaleCode g.nf f.ty ((lanesOf act).map fun L => (laneOf (g.vreg f.sa.toNat) L).toNat)
    g.put f.t [.s f.dst.toNat (BitVec.ofNat 32 c) ones32])

/-- The F32 value of a scale code (R322). -/
def scaleF32 (c : Nat) : Nat := if c == 0xFF then 0xFFFFFFFF else (FFmt.f32.round .rne (scaleVal c)).1

/-- SCVAL (R322). -/
def execScval (f : VF) (s : State) : Host.Outcome State Fault Refusal :=
  ok (laneState f 1 (fun g L => scaleF32 (byteAt (g.src f.ak f.sa.toNat 1 L) (f.sc.toNat % 4))) s)

/-- Of two candidate codes, the one nearer to a product in units of 2⁻³⁶, the even one on a tie (R322). -/
def nearer (p a b : Nat) : Nat :=
  let d (c : Nat) : Nat := ((scaleNat c * 2 ^ 18 : Nat) - (p : Int)).natAbs
  if d b < d a || (d b == d a && b % 2 == 0) then b else a

/-- The product of two scale codes (R322). -/
def scaleMulCode (a b : Nat) : Nat :=
  if a == 0xFF || b == 0xFF then 0xFF
  else if a == 0 || b == 0 then 0
  else (List.range 0xFF).foldl (nearer (scaleNat a * scaleNat b)) 0

/-- SCMUL (R322). -/
def execScmul (f : VF) (s : State) : Host.Outcome State Fault Refusal :=
  ok (laneState f 1 (fun g L =>
    let a := g.src f.ak f.sa.toNat 1 L
    let b := g.srcC false f .b32 L
    (List.range 4).foldl (fun acc i => acc + scaleMulCode (byteAt a i) (byteAt b i) * 2 ^ (8 * i)) 0) s)

/-! ## Quantisation (R323, R324) -/

/-- The sub-element and the scale byte that SC names (R316). -/
def selSub (f : VF) : Nat := f.sc.toNat / 4 % 8
def selByte (f : VF) : Nat := f.sc.toNat % 4

/-- One element quantised (R323). -/
def quantElem (nf : BitVec 3 → Word) (t : Ty) (rnd : Rnd) (x sc : Nat) : Nat × Fl :=
  match (codingOf nf .f32).read x with
  | none => ((codingOf nf t).absent.getD 0, 0)
  | some v => match scaleBy Xv.div v sc with
    | none => ((codingOf nf t).absent.getD 0, 0)
    | some (y, fl) => let r := (codingOf nf t).round rnd false y; (r.1, r.2 ||| fl)

/-- QNT: one sub-element of each active lane (R323). -/
def execQnt (f : VF) (s : State) : Host.Outcome State Fault Refusal :=
  let g := s.cg
  let w := contW g.nf f.ty
  let one (L : Nat) : Nat × Fl :=
    quantElem g.nf f.ty f.rnd (g.src f.ak f.sa.toNat 1 L) (byteAt (g.src f.bk f.sb.toNat 1 L) (selByte f))
  ok (fltState f 1 (fun L => (one L).1 * 2 ^ (selSub f * w)) ((2 ^ w - 1) * 2 ^ (selSub f * w))
    ((lanesOf (s.act f.msk)).map fun L => (one L).2) s)

/-- One element dequantised (R324). -/
def dequantElem (nf : BitVec 3 → Word) (t : Ty) (rnd : Rnd) (x sc : Nat) : Nat × Fl :=
  match (codingOf nf t).read x with
  | none => (0xFFFFFFFF, 0)
  | some v => match scaleBy Xv.mul v sc with
    | none => (0xFFFFFFFF, 0)
    | some (y, fl) => let r := FFmt.f32.round rnd y; (r.1, r.2 ||| fl)

/-- DQNT (R324). -/
def execDqnt (f : VF) (s : State) : Host.Outcome State Fault Refusal :=
  let g := s.cg
  let one (L : Nat) : Nat × Fl :=
    dequantElem g.nf f.ty f.rnd (elemGet g.nf f.ty (g.src f.ak f.sa.toNat 1 L) (selSub f))
      (byteAt (g.src f.bk f.sb.toNat 1 L) (selByte f))
  ok (fltState f 1 (fun L => (one L).1) (fullBits 1) ((lanesOf (s.act f.msk)).map fun L => (one L).2) s)

/-! ## Dot product and greatest magnitude (R325) -/

/-- A product of two elements, absent where a factor is. -/
def prodOf (c : Coding) (a b : Nat) : Option (Xv × Fl) :=
  match c.read a, c.read b with
  | some x, some y => some (x.mul y)
  | _, _ => none

/-- NDOT of one lane. -/
def ndotLane (nf : BitVec 3 → Word) (t : Ty) (k : Bool) (rnd : Rnd) (a b c : Nat) : Nat × Fl :=
  let ps := (List.range (elemsOf nf t)).map fun j => prodOf (codingOf nf t) (elemGet nf t a j) (elemGet nf t b j)
  let c' := (codingOf nf .f32).read c
  let have' := ps.filterMap id
  if (!k && (ps.any (·.isNone) || c'.isNone)) || (have'.isEmpty && c'.isNone) then (0xFFFFFFFF, 0)
  else sumTerms .f32 rnd (joinFl (have'.map (·.2))) (have'.map (·.1) ++ c'.toList)

/-- NDOT (R325). -/
def execNdot (f : VF) (s : State) : Host.Outcome State Fault Refusal :=
  let g := s.cg
  let one (L : Nat) : Nat × Fl :=
    ndotLane g.nf f.ty f.k f.rnd (g.src f.ak f.sa.toNat 1 L) (g.src f.bk f.sb.toNat 1 L) (g.srcC false f .f32 L)
  ok (fltState f 1 (fun L => (one L).1) (fullBits 1) ((lanesOf (s.act f.msk)).map fun L => (one L).2) s)

/-- NAMAX of one lane. -/
def namaxLane (nf : BitVec 3 → Word) (t : Ty) (a : Nat) : Nat × Fl :=
  let vs := (elemList nf t a).filterMap (codingOf nf t).read
  let sig : Fl := if vs.any Xv.isSig then Fl.iv else 0
  let ns := vs.filter fun x => !x.isNan
  if vs.isEmpty then (0xFFFFFFFF, 0)
  else if ns.isEmpty then (FFmt.f32.canon, sig)
  else let r := FFmt.f32.round .rne (ns.foldl magMax .zero); (r.1, r.2 ||| sig)

/-- NAMAX (R325). -/
def execNamax (f : VF) (s : State) : Host.Outcome State Fault Refusal :=
  let g := s.cg
  let one (L : Nat) : Nat × Fl := namaxLane g.nf f.ty (laneOf (g.vreg f.sa.toNat) L).toNat
  ok (fltState f 1 (fun L => (one L).1) (fullBits 1) ((lanesOf (s.act f.msk)).map fun L => (one L).2) s)

end Sys2Proof.Machine
end

