-- ==== Sys2Proof/Machine/Place.lean ====
section
/-! DEFINITION. Where units fit (R12, R17, R18, R20, R114, R400, R401): quarters, cores, paddocks and pinned grids. -/

namespace Sys2Proof.Machine
open Sys2Proof

/-! ## What a team needs (R69, R114) -/

/-- The role of group `i`, with its index. -/
def Header.roleOf (h : Header) (i : Nat) : Option (Nat × Role) :=
  (h.roles.zipIdx.find? fun r => r.1.first ≤ i && i < r.1.first + r.1.count).map fun r => (r.2, r.1)

/-- Group `i` is a consumer. -/
def Header.isConsumer (h : Header) (i : Nat) : Bool := (h.roleOf i).any fun r => r.2.consumer

/-- The extended reservation (R114). -/
def Header.extNeed (h : Header) : Nat :=
  min 16 ((h.roles.filter fun (r : Role) => r.vlim ≥ 64).foldl (fun n r => n + r.count) 0)

/-- The consumer groups, by rank. -/
def Header.consumers (h : Header) : List Nat := (List.range h.groups).filter h.isConsumer

/-! ## Quarters and slots (R401) -/

/-- The quarter of a group slot of a core (DEDUCED: 16 slots to a quarter, in order). -/
def quarterOf (slot : Nat) : Nat := slot / 16

/-- The lowest free slot of a quarter. -/
def freeSlotIn (used : List Nat) (q : Nat) : Option Nat := ((List.range 16).map fun k => 16 * q + k).find? fun k => !used.contains k

/-- How many of the slots in `mine` lie in quarter `q`. -/
def countIn (mine : List (Nat × Nat)) (q : Nat) : Nat := (mine.filter fun x => quarterOf x.2 == q).length

/-- Groups whose quarter is fixed: the consumer groups of a matrix team, rank r on quarter r, or those that keep their quarter. -/
def assignFixed (used : List Nat) : List (Nat × Nat) → List (Nat × Nat) → Option (List (Nat × Nat))
  | [], mine => some mine
  | (g, q) :: rest, mine => match freeSlotIn (used ++ mine.map (·.2)) q with
    | some k => assignFixed used rest (mine ++ [(g, k)])
    | none => none

/-- The quarter that the next group takes: with a free slot, the fewest groups of the team, the lowest number. -/
def nextQuarter (used : List Nat) (mine : List (Nat × Nat)) : Option Nat :=
  let qs := (List.range 4).filter fun q => (freeSlotIn (used ++ mine.map (·.2)) q).isSome
  (sortBy (fun a b => countIn mine a ≤ countIn mine b) qs).head?

/-- The other groups, in ascending index. -/
def assignRest (used : List Nat) : List Nat → List (Nat × Nat) → Option (List (Nat × Nat))
  | [], mine => some mine
  | g :: rest, mine =>
    match nextQuarter used mine with
    | none => none
    | some q => match freeSlotIn (used ++ mine.map (·.2)) q with
      | none => none
      | some k => assignRest used rest (mine ++ [(g, k)])

/-- What a team asks of a core: its kernel, the groups that take a slot, and for a saved team the core it left and the quarter of each
group there, which it keeps on that core (R16). -/
structure Need where
  hdr : Header
  groups : List Nat
  left : Option Nat := none
  kept : List (Nat × Nat) := []
deriving DecidableEq, Repr

/-- A new team's need: every group of its kernel. -/
def Header.need (h : Header) : Need := { hdr := h, groups := List.range h.groups }

/-- The slot of each group of a team on a core where the slots `used` are taken (R16, R401). -/
def Need.assign (n : Need) (used : List Nat) (core : Nat) : Option (List (Nat × Nat)) :=
  let fixed := if n.left == some core then n.kept else if n.hdr.matrix then n.hdr.consumers.zipIdx.filter fun c => n.groups.contains c.1 else []
  match assignFixed used fixed [] with
  | none => none
  | some xs => assignRest used (n.groups.filter fun g => !xs.any fun x => x.1 == g) xs

/-! ## Cores (R401) -/

/-- What a resident team takes of its core. -/
structure Load where
  team : Nat
  core : Nat
  slots : List Nat
  ext : Nat
  gran : Nat
  mx : Bool
deriving DecidableEq, Repr

/-- The loads of the resident teams; the slot of a group is free once the group has ended (R139), and the engine once its images are written
(R308). -/
def State.loads (s : State) : List Load :=
  (((List.range s.teams.length).filter fun t => (s.team t).resident).map fun t =>
    let x := s.team t
    { team := t, core := x.core, slots := (s.liveGroups t).map fun g => (s.group g).slot, ext := x.hdr.extNeed, gran := x.hdr.scratch,
      mx := x.hdr.matrix && x.st != .saving }) ++
  -- the granules of a departed team that accesses in flight still reach (R218)
  (((List.range s.teams.length).filter s.inFlight).map fun t =>
    { team := t, core := (s.team t).core, slots := [], ext := 0, gran := (s.team t).hdr.scratch, mx := false })

/-- The sum of a figure over the loads of a core. -/
def sumOn (ls : List Load) (core : Nat) (f : Load → Nat) : Nat := (ls.filter fun l => l.core == core).foldl (fun n l => n + f l) 0

/-- The clusters that a grid may use: CLMASK, and the partition of its context (R401, R415). -/
def State.clusterOk (s : State) (ctx : Nat) (clmask : Word) (c : Nat) : Bool :=
  let part : QWord := vecAt s.pkg.parts (bits (s.ctx ctx).cfg 0 4).toNat 0
  c < 32 && bit part c && (clmask == 0 || bit clmask c)

/-- A test is of a core, as a unit of a class. -/
def testsCore (cls core : Nat) (t : UnitTest) : Bool := t.cls == cls && t.place == core

/-- Where a team fits on a core: the slot of each group. -/
def State.fitsCore (s : State) (ls : List Load) (n : Need) (ctx : Nat) (clmask : Word) (core : Nat) : Option (List (Nat × Nat)) :=
  if core ≥ 256 || !s.clusterOk ctx clmask (clusterOf core) || s.pkg.retired.contains core || s.pkg.tests.any (testsCore 0 core) then none
  else if sumOn ls core (·.ext) + n.hdr.extNeed > 16 || sumOn ls core (·.gran) + n.hdr.scratch > 20 then none
  else if n.hdr.matrix && (s.pkg.noEngine.contains core || s.pkg.tests.any (testsCore 2 core) || ls.any fun l => l.core == core && l.mx) then none
  else n.assign ((ls.filter fun l => l.core == core).flatMap (·.slots)) core

/-- A team placed. -/
structure Placed where
  team : Nat
  core : Nat
  slots : List (Nat × Nat)
deriving DecidableEq, Repr

/-- The load of a placed team. -/
def Placed.load (p : Placed) (h : Header) : Load :=
  { team := p.team, core := p.core, slots := p.slots.map (·.2), ext := h.extNeed, gran := h.scratch, mx := h.matrix }

/-- Teams placed in turn, each on the first of its candidate cores on which it fits. -/
def State.placeEach (s : State) (ctx : Nat) (clmask : Word) : List Load → List (Nat × Need × List Nat) → Option (List Placed)
  | _, [] => some []
  | ls, (t, n, cores) :: rest =>
    match cores.findSome? fun c => (s.fitsCore ls n ctx clmask c).map fun k => (c, k) with
    | none => none
    | some (c, k) =>
      let p : Placed := { team := t, core := c, slots := k }
      match s.placeEach ctx clmask (p.load n.hdr :: ls) rest with
      | none => none
      | some ps => some (p :: ps)

/-- A team that looks for a place with its unit: its index, its TEAMID, its need, and in a paddock the half and core number that it keeps
(R406). -/
structure Seat where
  team : Nat
  tid : Nat
  need : Need
  keep : Option (Bool × Nat) := none
deriving DecidableEq, Repr

/-- The cores of a cluster. -/
def coresOf (c : Nat) : List Nat := (List.range 8).map fun k => c * 8 + k

/-- Dies that a bridge joins, the lower-numbered first (R12). -/
def adjacentDies : List (Nat × Nat) :=
  [(0, 1), (2, 3), (4, 5), (6, 7), (0, 2), (2, 4), (4, 6), (1, 3), (3, 5), (5, 7)]

/-- The places of a paddock: a cluster, or with PADX a cluster on each of two adjacent dies. -/
def paddockPlaces (padx : Bool) : List (Nat × Option Nat) :=
  (List.range 32).map (fun c => (c, none)) ++
    (if padx then (List.range 32).flatMap fun a => ((List.range 32).filter fun b => adjacentDies.contains (a / 4, b / 4)).map fun b => (a, some b)
      else [])

/-- What is placed together, and how (R400). -/
inductive UnitKind where
  | single
  | paddock (k : Nat)
  | pinned (core : Nat)
deriving DecidableEq, Repr

/-- The candidates of a team in a paddock at a place: any core, or the core number and the half that it keeps (R406). -/
def padCores (place : Nat × Option Nat) (keep : Option (Bool × Nat)) : List Nat :=
  match keep with
  | none => coresOf place.1 ++ (match place.2 with | some c => coresOf c | none => [])
  | some (false, k) => [place.1 * 8 + k]
  | some (true, k) => match place.2 with | some c => [c * 8 + k] | none => []

/-- A unit placed where it fits (R401, R406). -/
def State.placeTeams (s : State) (ls : List Load) (kind : UnitKind) (ctx : Nat) (clmask : Word) (padx : Bool) (ts : List Seat) :
    Option (List Placed × Nat × Option Nat) :=
  match kind with
  | .single =>
    let fit := (List.range 256).filter fun c => ts.all fun t => (s.fitsCore ls t.need ctx clmask c).isSome
    let best := sortBy (fun a b => sumOn ls a (·.slots.length) ≤ sumOn ls b (·.slots.length)) fit
    (s.placeEach ctx clmask ls (ts.map fun t => (t.team, t.need, best.take 1))).map fun ps => (ps, 0, none)
  | .pinned core => (s.placeEach ctx clmask ls (ts.map fun t => (t.team, t.need, [core + t.tid]))).map fun ps => (ps, 0, none)
  | .paddock _ =>
    (paddockPlaces padx).findSome? fun pl =>
      if pl.2.isNone && ts.any (fun t => t.keep.any (·.1)) then none
      else (s.placeEach ctx clmask ls (ts.map fun t => (t.team, t.need, padCores pl t.keep))).map fun ps => (ps, pl.1, pl.2)

/-- Some placement can ever hold a unit of the task, on cores that a self-test withholds for a while too (R390). -/
def State.everFits (s : State) (kind : UnitKind) (h : Header) (ctx : Nat) (clmask : Word) (padx : Bool) (n : Nat) : Bool :=
  (State.placeTeams { s with pkg := { s.pkg with tests := [] } } [] kind ctx clmask padx
    ((List.range n).map fun i => { team := i, tid := i, need := h.need })).isSome

end Sys2Proof.Machine
end

