-- ==== Sys2Proof/Machine/Scope.lean ====
section
/-! DEFINITION. Class 5, retyping (R223-R228), and the coherence events: fills, probes, write-backs, resends, poison, the CXL
pool's snoops, region rewrites and granules (R218, R219, R242-R249). -/

namespace Sys2Proof.Machine
open Sys2Proof

/-! ## Retyping (R225, R226) -/

/-- The order of scopes. -/
def scopeRank : Scope → Nat
  | .core => 0 | .clus => 1 | .die => 2 | .pkg => 3 | .pod => 4

/-- R225: whether a class may become another. -/
def classMove (widen : Bool) (a b : Share) : Bool :=
  a == b ||
  (if widen then (match a, b with | .priv, .rsh | .priv, .syn | .syn, .rsh => true | _, _ => false)
   else (match a, b with | .rsh, .priv | .rsh, .syn | .syn, .priv => true | _, _ => false))

/-- R225 without the form of the result. -/
def retypeOk (widen : Bool) (p : Ptr) (cls : Share) (sc : Scope) : Bool :=
  classMove widen p.cls cls && (if widen then scopeRank p.sc ≤ scopeRank sc else scopeRank sc ≤ scopeRank p.sc)

def shareCode : Share → BitVec 2
  | .priv => 0 | .rsh => 1 | .syn => 2
def scopeCode : Scope → BitVec 3
  | .core => 0 | .clus => 1 | .die => 2 | .pkg => 3 | .pod => 4

/-- The pointer image with class, scope and home replaced. -/
def retyped (p : QWord) (cls : Share) (sc : Scope) (home : BitVec 17) : QWord :=
  home ++ bits p 109 2 ++ scopeCode sc ++ shareCode cls ++ bits p 0 104

/-- The range of an S form: first element and count; none where the request is out of range (R226). -/
def subRange (nf : BitVec 3 → Word) (p : Ptr) (e : Int) (count : Option (Option Nat)) : Option (Nat × Nat) :=
  let n : Option Int := match count with
    | none => some (p.len - e)
    | some none => none
    | some (some n) => some n
  match n with
  | none => none
  | some n =>
    if e < 0 || e > p.len || n < 0 || n > p.len - e || (contW nf p.ty == 4 && (e % 2 == 1 || n % 2 == 1)) then none
    else some (e.toNat, n.toNat)

/-- The bytes that the elements of a pointer span. -/
def Ptr.span (nf : BitVec 3 → Word) (p : Ptr) : Nat :=
  if contW nf p.ty == 4 then (p.len + 1) / 2 else p.len * (contW nf p.ty / 8)

/-- The lines of a range that the issuing cluster holds untracked: those of its translated pages, or every one when the range is
over 8 MiB (R226). -/
def State.untrackedIn (s : State) (g base n : Nat) : List Nat :=
  let t := s.team (s.group g).team
  let c := clusterOf t.core
  let mine := (s.mem.lines.filter fun l => l.clus == c && (l.st == .uc || l.st == .ud)).map (·.line)
  if n == 0 then []
  else if 2 ^ 23 < n then mine
  else
    let first := base / 128
    let vas := (List.range ((base + n - 1) / 128 - first + 1)).map fun k => (first + k) * 128
    let lns := vas.filterMap fun va => match s.lookup t.core t.ctx false .load va with
      | .ok l => some (l.pa va / 128)
      | .error _ => none
    mine.filter lns.contains

/-- PWIDEN and PNARROW, whole or of a range (R226). -/
def retype (widen sForm : Bool) (f : RTF) (s : State) : State :=
  s.unlessAhead fun s =>
    let g := s.cur.g
    let x := s.cg
    let img := x.preg f.pa.toNat
    match s.ptrCheck g img (fun _ => true) false with
    | .error (c, sub) => s.userTrap c sub
    | .ok p =>
      let home : BitVec 17 := if f.hs then BitVec.ofNat 17 (s.core17 g) else bits img 111 17
      let q := retyped img f.nclass f.nscope home
      if !retypeOk widen p f.nclass f.nscope || (ptrOf q).isNone then s.userTrap 0x04 0x05
      else
        let count : Option (Option Nat) := match f.ik with
          | .uni => let v := x.sreg f.idx.toNat; some (if v == ones32 then none else some v.toNat)
          | _ => none
        let range := if sForm then subRange x.nf p (if f.ol then f.lit.toInt else f.off.toInt) count else some (0, p.len)
        match range with
        | none => s.issue f.y fun y => y.put false [.p f.pd.toNat (setPtrV q false)]
        | some (e, n) =>
          let base := p.base + byteStep x.nf p.ty e
          let q' := if sForm then setPtrRange q base n else q
          let drops := p.sp == .glb && (!widen || 2 ≤ scopeRank f.nscope)
          let lns := if drops then s.untrackedIn g base ({ p with len := n }.span x.nf) else []
          s.issue f.y fun y =>
            { y with
              retype := some { pd := f.pd.toNat, q := q', lines := lns, drop := !widen, n := y.issueNo }
              out := y.out ++ [{ n := y.issueNo, t := false, ws := [.p f.pd.toNat q'], fls := [], ready := false }] }

/-- One line of a retyping: its dirty bytes written back, and the line dropped or left clean (R226). -/
def MemSys.retypeLine (m : MemSys) (c : Nat) (drop : Bool) (ln : Nat) : MemSys :=
  match m.line? c ln with
  | some l =>
    if l.st == .uc || l.st == .ud then
      if m.poisoned ln then m.dropLine c ln
      else
        let m1 := m.writeBack l
        if drop then m1.dropLine c ln else m1.putLine { l with st := .uc, dirty := 0 }
    else m
  | none => m

/-- A retyping completes: write-backs and drops done, pD written, the accesses it held may issue (R227).  A line whose path is
lost completes it with MCHK (R246). -/
def execRetypeComplete (g : Nat) (s : State) : Host.Outcome State Fault Refusal :=
  ok (match (s.group g).retype with
    | none => s
    | some r =>
      let t := (s.group g).team
      let c := clusterOf (s.team t).core
      let lost := r.lines.find? fun ln => s.mem.poisoned ln && (s.mem.line? c ln).any fun l => l.st == .ud
      let s1 := { s with mem := r.lines.foldl (fun m ln => m.retypeLine c r.drop ln) s.mem }
      let s2 := (s1.modGroup g fun x =>
        { x with retype := none, out := x.out.filter fun p => p.n != r.n }).deliverTo g r.n false [.p r.pd r.q] []
      match lost with
      | some ln => s2.teamFault t 0x07 0 (BitVec.ofNat 64 (ln * 128))
      | none => s2)

/-- PWIDEN (R226). -/
def execPwiden (f : RTF) (s : State) : Host.Outcome State Fault Refusal := ok (retype true false f s)
/-- PNARROW (R226). -/
def execPnarrow (f : RTF) (s : State) : Host.Outcome State Fault Refusal := ok (retype false false f s)
/-- PWIDENS (R226). -/
def execPwidens (f : RTF) (s : State) : Host.Outcome State Fault Refusal := ok (retype true true f s)
/-- PNARROWS (R226). -/
def execPnarrows (f : RTF) (s : State) : Host.Outcome State Fault Refusal := ok (retype false true f s)

/-! ## Requests at home (R242) -/

/-- A coherence message that was received before (R246). -/
def State.seen (s : State) (pkg clus seq : Nat) (sort : CohSort) : Option CohSeen :=
  s.pkg.cohSeen.find? fun e => e.pkg == pkg && e.clus == clus && e.seq == seq && e.sort == sort

/-- A message noted with its answer, for repeats (R246). -/
def State.note (s : State) (e : CohSeen) : State :=
  { s with pkg := { s.pkg with
      cohSeen := (s.pkg.cohSeen.filter fun x => !(x.pkg == e.pkg && x.clus == e.clus && x.seq == e.seq && x.sort == e.sort)) ++ [e] } }

/-- The partition that a request or a fill names for a line's page (R243; log 83). -/
def State.notePart (s : State) (ln : Nat) (part : BitVec 4) : State :=
  if (s.linePart ln).isSome then s
  else { s with mem := { s.mem with pageParts := s.mem.pageParts ++ [(ln * 128, 128, part.toNat)] } }

/-- A request of a cluster served by its home: probes, the directory, and the fill, which goes out to another package's cluster and
is installed in one of this package. -/
def State.serveRequest (s : State) (r : HomeReq) : State :=
  if r.pkg == s.pkg.num.toNat then
    { s with mem := (s.mem.fill r.pkg r.clus r.line r.kind).1 }.note { pkg := r.pkg, clus := r.clus, seq := r.seq, sort := .request, answer := none }
  else
    let m := s.mem.atHome r.pkg r.clus r.line none r.kind
    let a : Msg := .fill r.pkg r.clus r.line r.seq r.kind (m.homeData r.line) (m.dirOf r.line).rel
    State.note (State.sendOutbox { s with mem := m } |> fun s => { s with out := s.out ++ [a] }) { pkg := r.pkg, clus := r.clus, seq := r.seq, sort := .request, answer := some a }

/-- A request cannot be served yet (R242, R249). -/
def State.requestWaits (s : State) (ln : Nat) : Bool := s.waits (.mem (ln * 128)) || s.dirFull ln

/-- The requests that wait at a home served as far as they can be, in order of arrival; for the others the owner's copy is recalled (R245). -/
def State.serveWaiting (s : State) : State :=
  s.mem.waiting.foldl (fun s r =>
    if s.mem.poisoned r.line then s
    else if s.requestWaits r.line then s.recallFor r.line
    else State.serveRequest { s with mem := { s.mem with waiting := s.mem.waiting.erase r } } r) s

/-- A request reaches the line's home (R242): served, or put to wait while the line is owned elsewhere or its region is
rewritten, the owner's copy being recalled.  A repeat gets the earlier answer again (R246). -/
def execHomeRequest (pkg clus line : Nat) (req : CohReq) (s : State) : Host.Outcome State Fault Refusal :=
  ok (if !s.homedHere line || s.mem.poisoned line || clus ≥ 32 || pkg ≥ 512 then s
    else match s.seen pkg clus req.seq .request with
      | some e => match e.answer with
        | some a => { s with out := s.out ++ [a] }
        | none => s
      | none =>
        let s := s.notePart line req.part
        let r : HomeReq := { pkg, clus, line, seq := req.seq, kind := req.kind }
        if s.requestWaits line then
          let s1 := (s.recallFor line).note { pkg, clus, seq := req.seq, sort := .request, answer := none }
          { s1 with mem := { s1.mem with waiting := s1.mem.waiting ++ [r] } }
        else s.serveRequest r)

/-- A fill arrives at a cluster of this package and is installed in the state its kind gives (R222, R242); a repeated one, and one for a
line that the cluster holds already, is discarded (R246). -/
def execL1Fill (clus line : Nat) (req : CohReq) (s : State) : Host.Outcome State Fault Refusal :=
  ok (if clus ≥ 32 || isIo (line * 128) || (s.mem.line? clus line).isSome || s.mem.poisoned line || s.waits (.mem (line * 128)) then s
    else if (s.seen (paPkg (line * 128)) clus req.seq .fill).isSome then s
    else State.note (s.notePart line req.part |> fun s => { s with mem := (s.mem.fill s.pkg.num.toNat clus line req.kind).1 })
      { pkg := paPkg (line * 128), clus, seq := req.seq, sort := .fill, answer := none })

/-- A message of a home to a cluster of this package takes effect once, with the answer that `act` gives for a home in another package; a
repeat has its answer repeated (R246). -/
def State.probed (s : State) (clus : Nat) (msg : ProbeMsg) (act : State → State × Msg) : State :=
  let home := paPkg (msg.line * 128)
  let told (s : State) (a : Option Msg) : State := match a with
    | some a => { s with out := s.out ++ [a] }
    | none => s
  match s.seen home clus msg.seq .probe with
  | some e => told s e.answer
  | none =>
    let r := act s
    let a := if home == s.pkg.num.toNat then none else some r.2
    (told r.1 a).note { pkg := home, clus, seq := msg.seq, sort := .probe, answer := a }

/-- An invalidation reaches a cluster: a tracked shared copy is dropped; without one it is acknowledged at once (R242, R245). -/
def execInvalidation (clus : Nat) (msg : ProbeMsg) (s : State) : Host.Outcome State Fault Refusal :=
  ok (s.probed clus msg fun s =>
    (match s.mem.line? clus msg.line with
      | some l => if l.st == .ts then { s with mem := s.mem.dropLine clus msg.line } else s
      | none => s, .probeAck clus msg.line msg.seq))

/-- A recall reaches a cluster: an owned copy goes back to its home, and the owner is cleared; without one the cluster answers that its
write-back is on its way (R242, R245). -/
def execRecall (clus : Nat) (msg : ProbeMsg) (s : State) : Host.Outcome State Fault Refusal :=
  ok (s.probed clus msg fun s =>
    match s.mem.line? clus msg.line with
    | some l =>
      if l.st == .tm then
        let m := (s.mem.writeBytes l.line l.data (BitVec.allOnes 128) l.rel).dropLine clus msg.line
        ({ s with mem := m.putDir (m.dirOf msg.line).cleared }, .writeBack clus msg.line msg.seq l.data (BitVec.allOnes 128) l.rel)
      else (s, .probeAck clus msg.line msg.seq)
    | none => (s, .probeAck clus msg.line msg.seq))

/-- Free values for `n` bytes from `a` on (log 4). -/
def undefBytes (tick a n : Nat) : List Byte := (List.range n).map fun k => (Config.undef tick (a + k)).setWidth 8

/-- A snoop of the CXL pool for one half of a line that no other package owns: the tracked copies are recalled, the half's dirty bytes go
back with byte enables, and the half is invalid (R247); what the pool holds there from then on is not this device's (log 13). -/
def State.snoop (s : State) (line half : Nat) : State :=
  let s1 := s
  let m := s1.mem.dropTracked line none
  let m1 := m.putDir (m.dirOf line).cleared
  let a := line * 128 + 64 * half
  { s1 with
    out := s1.out ++ [.snoopResp line half (BitVec.ofNat 512 (leNat (cellsRead m1.cells a 64))) (lookupD m1.cxlDirty (line * 2 + half) 0)]
    mem := { m1 with
      cxl := insertK m1.cxl (line * 2 + half) .i, cxlDirty := m1.cxlDirty.filter fun e => e.1 != line * 2 + half
      cells := cellsWrite m1.cells a (undefBytes s1.tick a 64) } }

/-- The snoops that waited for the owner of line `ln`. -/
def State.serveSnoops (s : State) (ln : Nat) : State :=
  (s.mem.snoops.filter fun h => h / 2 == ln).foldl (fun s h => s.snoop ln (h % 2))
    { s with mem := { s.mem with snoops := s.mem.snoops.filter fun h => h / 2 != ln } }

/-- The cluster that an entry names as owner. -/
def MemSys.owner (m : MemSys) (ln : Nat) : Nat := (bits (m.dirOf ln).sharers 0 14 : BitVec 14).toNat

/-- The entry after its owner's copy has come home. -/
def Dir.uncovered (d : Dir) : Dir := if d.st == .own && d.far then d.cleared else d

/-- A write-back from another package's cluster arrives at home: the tracked copies are recalled and its bytes are applied in order
of arrival.  While another package's cluster owns the line, another's bytes wait for the owner's copy, which is recalled; the owner's
write-back carries the whole line, the waiting bytes go over it, and what waited for it is served (R245).  A repeat has no effect (R246). -/
def execUdWriteBack (msg : LineMsg) (data : BitVec 1024) (mask : BitVec 128) (rel : Option (Nat × Scope)) (s : State) :
    Host.Outcome State Fault Refusal :=
  ok (if !s.homedHere msg.line || s.mem.poisoned msg.line || (s.seen msg.pkg msg.clus msg.seq .request).isSome then s
    else
      let s0 := s.note { pkg := msg.pkg, clus := msg.clus, seq := msg.seq, sort := .request, answer := none }
      if s.mem.ownedFar msg.line && s.mem.owner msg.line != sharerPtr msg.pkg msg.clus then
        { s0 with mem := s0.mem.defer { line := msg.line, data, mask, rel } }
      else
        let m := (s0.mem.putDir (s0.mem.dirOf msg.line).uncovered).applyDirty msg.line data mask rel
        let m1 := { m with recalls := m.recalls.filter (· != msg.line) }.applyDeferred msg.line
        (State.serveSnoops { s0 with mem := m1 } msg.line).serveWaiting)

/-- A line is evicted: dirty bytes are written back, a clean copy goes silently, and an owner is cleared (R222, R242). -/
def execLineEviction (clus line : Nat) (s : State) : Host.Outcome State Fault Refusal :=
  ok (match s.mem.line? clus line with
    | none => s
    | some l => { s with mem := s.mem.evict l })

/-- A coherence message to another package. -/
def Msg.coherence : Msg → Bool
  | .fill .. | .probe .. | .request .. | .writeBack .. => true
  | _ => false

/-- A home that has had no response sends its `n`-th message again, with the same sequence number (R246). -/
def execCoherenceResend (n : Nat) (s : State) : Host.Outcome State Fault Refusal :=
  ok (match s.out[n]? with
    | some m => if m.coherence then { s with out := s.out ++ [m] } else s
    | none => s)

/-- No path for 2 ms: the line becomes POISON at home, and the copies of the cut-off requesters are discarded with their requests
(R246). -/
def execLinePoison (line : Nat) (s : State) : Host.Outcome State Fault Refusal :=
  ok (if !s.homedHere line then s
    else
      let m := s.mem
      let keep := m.lines.filter fun l => !(l.line == line && (l.st == .ts || l.st == .tm))
      let m1 := { m with lines := keep, waiting := m.waiting.filter (fun r => r.line != line), recalls := m.recalls.filter (· != line) }
      { s with mem := m1.putDir { m1.dirOf line with st := .poison, mode := 0, sharers := 0 } })

/-- A back-invalidation snoop from the CXL pool for one half of a line (R247); it waits while another package's cluster owns the line. -/
def execBackInvalidationSnoop (line half : Nat) (s : State) : Host.Outcome State Fault Refusal :=
  ok (if !isCxl (line * 128) || half ≥ 2 || !s.homedHere line then s
    else if s.mem.ownedAway s.pkg.num.toNat line then
      let s1 := s.recall line
      { s1 with mem := { s1.mem with snoops := s1.mem.snoops ++ [line * 2 + half] } }
    else s.snoop line half)

/-! ## Regions (R248, R249) -/

/-- A write to a region entry: checked, refused without effect, or the start of a rewrite (R248, R249). -/
def execRegionEntryWrite (idx : Nat) (val mask : BitVec 64) (s : State) : Host.Outcome State Fault Refusal :=
  ok (if idx ≥ 16 then s
    else
      let old := s.regionNow idx
      let new := (old &&& ~~~mask) ||| (val &&& mask)
      if s.regionOk idx new then s.regionWrite idx new else s)

/-- The bytes of an enabled region that lie in the HBM range. -/
def regHbm (e : DWord) : Nat × Nat :=
  if regEn e then
    let lo := regBase e * 2 ^ 21
    let hi := min ((regBase e + regSize e) * 2 ^ 21) 0x8000000000
    (lo, hi - lo)
  else (0, 0)

/-- The lines of this package that a rewrite of an entry concerns: those of the old region and of the new one. -/
def State.inRegions (s : State) (e : Nat × DWord) (ln : Nat) : Bool :=
  s.homedHere ln && (regCovers (vecAt s.mem.regions e.1 0) (ln * 128) || regCovers e.2 (ln * 128))

/-- One entry switched: the copies of the lines of both regions recalled, those of other packages too, their directory entries dropped,
and the HBM bytes of both undefined from now on (R248, R249). -/
def State.switchRegion (s : State) (e : Nat × DWord) : State :=
  let old : DWord := vecAt s.mem.regions e.1 0
  let s1 := s
  let m := ((s.mem.dir.map (·.line)).filter (s.inRegions e)).foldl MemSys.probeFar s.mem
  let m1 := (m.lines.filter fun l => s.inRegions e l.line && (l.st == .ts || l.st == .tm)).foldl MemSys.leaveTracked m
  let m2 := { m1 with
    dir := m1.dir.filter fun (d : Dir) => d.st == DirSt.poison || !s.inRegions e d.line, regions := vecPut m1.regions e.1 e.2 }
  let base := s.pkg.num.toNat * 2 ^ 43
  let wipe (cs : List Host.Cell) (r : Nat × Nat) : List Host.Cell :=
    cellsWrite cs (base + r.1) (undefBytes s.tick (base + r.1) r.2)
  { s1 with mem := { m2 with cells := wipe (wipe m2.cells (regHbm old)) (regHbm e.2) } }

/-- The lines under rewrite that a cluster of another package owns: their data must come back before the switch (R249, step 3). -/
def State.rewriteAway (s : State) : List Nat :=
  (s.mem.dir.map (·.line)).filter fun ln => s.mem.ownedAway s.pkg.num.toNat ln && s.mem.pendingRegions.any fun e => s.inRegions e ln

/-- The table switches once the requests in flight have drained and owned lines are back; the stalled requests go on (R249). -/
def execRegionTableSwitch (s : State) : Host.Outcome State Fault Refusal :=
  ok (if !s.mem.rewriting then s
    else if !s.rewriteAway.isEmpty then s.rewriteAway.foldl State.recall s
    else
      let s1 := s.mem.pendingRegions.foldl State.switchRegion s
      { s1 with mem := { s1.mem with rewriting := false, pendingRegions := [] } }.serveWaiting)

/-! ## Scratchpad granules (R218, R219) -/

/-- HELD granules of a core, of its twenty. -/
def MemSys.held (m : MemSys) (core : Nat) : Nat := (lookupD (m.gran.map fun e => (e.1, e.2.1)) core 0)
/-- Granules of a core in RECLAIM. -/
def MemSys.reclaiming (m : MemSys) (core : Nat) : Nat := (lookupD (m.gran.map fun e => (e.1, e.2.2)) core 0)
def MemSys.setGran (m : MemSys) (core held rec : Nat) : MemSys := { m with gran := insertK m.gran core (held, rec) }

/-- The granules that the resident teams of a core use, and those of ended teams that accesses in flight still reach (R218, R284). -/
def State.granUsed (s : State) (core : Nat) : Nat :=
  ((List.range s.teams.length).filter fun t => (s.team t).core == core && s.hasPad t).foldl (fun n t => n + (s.team t).hdr.scratch) 0

/-- The granules of a departed team become LENT (R218): `gran` of them, of those that no resident team uses and no access reaches. -/
def execGranuleLend (core gran : Nat) (s : State) : Host.Outcome State Fault Refusal :=
  let held := s.mem.held core
  ok (if held < s.granUsed core + gran then s
    else { s with mem := s.mem.setGran core (held - gran) (s.mem.reclaiming core) })

/-- `count` LENT granules taken from the slice of a core (R219): they are in RECLAIM while the lines that the slice can hold no longer
leave it, and HELD then. -/
def State.reclaim (s : State) (core count : Nat) : State :=
  let held := s.mem.held core
  let re := s.mem.reclaiming core
  let s1 := State.evictOver { s with mem := s.mem.setGran core held (re + count) } core
  { s1 with mem := s1.mem.setGran core (held + count) re }

/-- LENT granules drained, cleared and marked HELD for a placement (R219). -/
def execGranuleReclaim (core count : Nat) (s : State) : Host.Outcome State Fault Refusal :=
  ok (if 20 < s.mem.held core + s.mem.reclaiming core + count then s else s.reclaim core count)

end Sys2Proof.Machine
end

