-- ==== Sys2Proof/Machine/Tasks.lean ====
section
/-! DEFINITION. Tasks (R68-R71, R388-R399, R461): task control blocks, submission, release and retirement, spawn bins, and the
instructions of class 11. -/

namespace Sys2Proof.Machine
open Sys2Proof

/-! ## The SYNC word (R388-R390) -/

/-- STATE and PRED. -/
def tcbState (w : DWord) : Nat := (bits w 61 3).toNat
def tcbPred (w : DWord) : Nat := (bits w 0 32).toNat
def setTcbState (w : DWord) (n : Nat) : DWord := BitVec.ofNat 3 n ++ bits w 0 61

/-- Submit on a SYNC word: none when BUSY, else the new word and whether the task is released (R390). -/
def submitSync (w : DWord) : Option (DWord × Bool) :=
  if tcbState w != 0 then none
  else if tcbPred w == 0 then some (setTcbState w 2, true)
  else some (setTcbState w 1, false)

/-- Decrement on a SYNC word: the new word, the old PRED, and whether the task is released (R390). -/
def decSync (w : DWord) : DWord × Nat × Bool :=
  let old := tcbPred w
  let w1 : DWord := if old ≥ 1 then bits w 32 32 ++ BitVec.ofNat 32 (old - 1) else w
  let rel := old == 1 && tcbState w == 1
  (if rel then setTcbState w1 2 else w1, old, rel)

/-- The translation unit of the front-end die, which reads for tasks. -/
abbrev fedCore : Nat := 256

/-- A word written at home by the hardware, as a SYN POD store; its release record names the package's core 0 (R237, R391;
DESIGN CHOICE, log 81). -/
def State.pokeHome (s : State) (pa : Nat) (w : DWord) : State :=
  s.homePut pa 8 w.toNat (some ((s.coreloc 0).toNat, .pod))

/-- Where the SYNC word of a TCB lies, for the hardware acting at S (R461). -/
def State.syncPa (s : State) (ctx : Nat) (tcb : DWord) : Except XFault Nat :=
  match s.lookup fedCore ctx false .store tcb.toNat with
  | .error f => .error f
  | .ok l =>
    if s.mem.poisoned (l.pa tcb.toNat / 128) then .error ⟨0x07, 0, BitVec.ofNat 64 (l.pa tcb.toNat)⟩ else .ok (l.pa tcb.toNat)

/-- The SYNC word at a physical address. -/
def State.syncAt (s : State) (pa : Nat) : DWord := BitVec.ofNat 64 (s.mem.homeNat pa 8)

/-- STATE of a TCB written by the hardware; one that it cannot reach stays as it is. -/
def State.setTcb (s : State) (ctx : Nat) (tcb : DWord) (n : Nat) : State :=
  match s.syncPa ctx tcb with
  | .ok pa => (s.touchS fedCore ctx .store tcb.toNat 8).pokeHome pa (setTcbState (s.syncAt pa) n)
  | .error _ => s

/-! ## Kernel headers (R68-R71) -/

/-- Consecutive fields of `n` bytes of a number. -/
def field (w : Nat) (byte n : Nat) : Nat := w / 2 ^ (8 * byte) % 2 ^ (8 * n)

/-- A role entry (R69). -/
def roleOfWord (w : DWord) : Role :=
  { first := (bits w 0 8).toNat, count := (bits w 8 8).toNat, consumer := bit w 16, vlim := (bits w 17 7).toNat
    slim := (bits w 24 6).toNat, xauto := bit w 30 }

/-- The role entries cover the groups in order (R71). -/
def rolesCover : Nat → List Role → Option Nat
  | n, [] => some n
  | n, r :: rs => if r.first == n && 1 ≤ r.count && r.count ≤ 32 && (!r.xauto || r.vlim ≥ 64) then rolesCover (n + r.count) rs else none

/-- A header from its sixteen words, where it passes R71 but for its safe-point table. -/
def parseHeader (va : DWord) (ws : List Nat) : Option Header :=
  let w (i : Nat) : Nat := ws.getD i 0
  let nroles := field (w 5) 3 1
  let words := (List.range 8).map fun i => BitVec.ofNat 64 (w (8 + i))
  let roles := (words.take nroles).map roleOfWord
  let h : Header :=
    { va, entry := BitVec.ofNat 64 (w 1), traph := BitVec.ofNat 64 (w 2), matrix := field (w 0) 4 1 == 1, mxentry := BitVec.ofNat 64 (w 3)
      sptab := BitVec.ofNat 64 (w 4), spcount := field (w 5) 0 2, groups := field (w 5) 2 1, scratch := field (w 5) 4 1
      const := BitVec.ofNat 64 (w 6), roles }
  let ok := field (w 0) 0 4 == 0x00014B48 && field (w 0) 4 4 ≤ 1 && w 1 % 8 == 0 && w 3 % 16 == 0 && w 4 % 8 == 0 &&
    (h.spcount != 0 || w 4 == 0) && field (w 5) 5 3 == 0 && w 7 == 0 && 1 ≤ h.groups && h.groups ≤ 32 && 1 ≤ nroles && nroles ≤ 8 &&
    h.scratch ≤ 20 && (words.take nroles).all (fun e => bits e 31 33 == 0) && (words.drop nroles).all (· == 0) &&
    rolesCover 0 roles == some h.groups && h.matrix == (w 3 != 0) && (!h.matrix || h.consumers.length == 4)
  if ok then some h else none

/-- A safe point (R70). -/
structure SafePoint where
  pc : DWord
  save : DWord
  restore : DWord
deriving DecidableEq, Repr

/-- The entries of a safe-point table from its words. -/
def safePoints : List Nat → List SafePoint
  | a :: b :: c :: rest => { pc := BitVec.ofNat 64 a, save := BitVec.ofNat 64 b, restore := BitVec.ofNat 64 c } :: safePoints rest
  | _ => []

/-- SPPCs strictly rise and every address is aligned (R70, R71). -/
def pointsOk : List SafePoint → Bool
  | a :: b :: rest => a.pc.toNat < b.pc.toNat && pointsOk (b :: rest)
  | _ => true

/-- A header read and checked: the fault of a read, none where R71 refuses it, or the header (R71, R461). -/
def State.readHeader (s : State) (ctx : Nat) (va : DWord) : Except XFault (Option Header) :=
  if va.toNat % 128 != 0 then .ok none
  else match s.readsS fedCore ctx 8 16 va.toNat with
    | .error f => .error f
    | .ok ws => match parseHeader va ws with
      | none => .ok none
      | some h => match s.readsS fedCore ctx 8 (3 * h.spcount) h.sptab.toNat with
        | .error f => .error f
        | .ok ps => .ok (if pointsOk (safePoints ps) then some h else none)

/-- The reads of a kernel header, and of its safe-point table where the header passes, use their translations (R432, R461). -/
def State.touchHeader (s : State) (ctx : Nat) (va : DWord) (h : Option Header) : State :=
  if va.toNat % 128 != 0 then s
  else
    let s1 := s.touchS fedCore ctx .load va.toNat 128
    match h with
    | some h => s1.touchS fedCore ctx .load h.sptab.toNat (24 * h.spcount)
    | none => s1

/-- The safe points of a team's kernel; none where the table cannot be read. -/
def State.pointsOf (s : State) (t : Nat) : List SafePoint :=
  let x := s.team t
  match s.readsS fedCore x.ctx 8 (3 * x.hdr.spcount) x.hdr.sptab.toNat with
  | .ok ps => safePoints ps
  | .error _ => []

/-! ## Events and faults of a task (R392, R418, R421, R461) -/

/-- A task event. -/
def State.taskEvent (s : State) (type cause : Nat) (tcb : DWord) : State :=
  s.postEvent (BitVec.ofNat 8 type ++ BitVec.ofNat 6 cause ++ bits tcb 7 50)

/-- A task ends in FAIL (R390, R392). -/
def State.failGrid (s : State) (k cause : Nat) : State :=
  let g := s.grid k
  ((s.setTcb g.ctx g.tcb 5).taskEvent 0x11 cause g.tcb).modGrid k fun x => { x with phase := .over, cause, held := false }

/-- A fault of grid scope: a record, or the trap of a group of an S-mode grid (R420, R421). -/
def State.gridFault (s : State) (k code sub : Nat) (info : DWord) : State :=
  let g := s.grid k
  if g.user then
    s.raise { FaultRec.blank with code, sub, scope := .grid, ctx := g.ctx, tcb := g.tcb, info, core := s.coreloc 0, unit := k }
  else match s.byTid ((s.gridTeams k).filter fun t => (s.team t).resident) with
    | t :: _ => s.interruptTeam t code sub info none
    | [] => s.haltContext g.ctx

/-- A read on behalf of a task faults, and what needs it waits (R461). -/
def State.gridWait (s : State) (k : Nat) (f : XFault) : State :=
  (s.modGrid k fun x => { x with held := true }).gridFault k f.code f.sub f.info

/-! ## Release (R390) -/

/-- Every group of a kernel as a mask. -/
def Header.mask (h : Header) : Word := BitVec.ofNat 32 (2 ^ h.groups - 1)

/-- A team of grid `k` that waits to be placed; one of a halted context stands stopped (R421). -/
def newTeam (g : Grid) (halted : Bool) (k tid now : Nat) (h : Header) (prio : Nat) : Team :=
  { Team.dead with
      grid := k, tid, st := .queued, hdr := h, user := g.user, ctx := g.ctx, prio, prio0 := prio,
      bars := Vector.replicate 16 (Bar.fresh h.mask), xfree := h.extNeed, ready := now, tstop := halted }

/-- A task control block as the release reads it, beyond its SYNC word. -/
def gridOfTcb (g : Grid) (ws : List Nat) : Grid :=
  let w (i : Nat) : Nat := ws.getD i 0
  let place := BitVec.ofNat 64 (w 4)
  { g with
    gx := field (w 3) 0 2, gy := field (w 3) 2 2, gz := field (w 3) 4 2, prio := min (field (w 3) 6 1 % 16) g.cap, padt := field (w 3) 7 1
    padx := bit (BitVec.ofNat 64 (w 5)) 17, pin := if bit place 63 then some (bits place 48 8).toNat else none, clmask := bits place 0 32
    paramw := field (w 5) 0 1, param := BitVec.ofNat 64 (w 2), pt := bit (BitVec.ofNat 64 (w 5)) 18, ev := bit (BitVec.ofNat 64 (w 5)) 16
    nspawn := field (w 5) 3 1, succs := ((ws.drop 8).take (field (w 5) 1 1)).map (BitVec.ofNat 64), ovf := BitVec.ofNat 64 (w 7)
    novf := field (w 5) 4 4, ctxa := BitVec.ofNat 64 (w 6), count := field (w 3) 0 2 * field (w 3) 2 2 * field (w 3) 4 2 }

/-- The checks of R390 under TCBBAD. -/
def tcbOk (g : Grid) (ws : List Nat) : Bool :=
  let w (i : Nat) : Nat := ws.getD i 0
  let nsucc := field (w 5) 1 1
  bits (BitVec.ofNat 64 (w 0)) 32 29 == 0 && field (w 3) 6 1 < 16 && bits (BitVec.ofNat 64 (w 4)) 56 7 == 0 &&
    bits (BitVec.ofNat 64 (w 4)) 32 16 == 0 && field (w 5) 2 1 < 8 && 1 ≤ g.count && g.count + g.nspawn ≤ 2 ^ 32 - 1 &&
    g.ctxa.toNat % 0x200000 == 0 && (g.paramw == 0 || g.param != 0) && g.paramw ≤ 64 && g.padt ≤ 16 && nsucc ≤ 8 &&
    ((ws.drop (8 + nsucc)).all (· == 0)) && (g.padt == 0 || (g.count % g.padt == 0 && g.pin.isNone))

/-- The kind of a grid's units. -/
def Grid.kind (g : Grid) : UnitKind :=
  match g.pin with
  | some c => .pinned c
  | none => if g.padt == 0 then .single else .paddock 0

/-- The teams of a unit of a grid. -/
def Grid.unitSize (g : Grid) : Nat := if g.pin.isSome then g.count else if g.padt == 0 then 1 else g.padt

/-- A task released: its teams and paddocks are queued (R390, R400). -/
def State.queueTeams (s : State) (k : Nat) (g : Grid) : State :=
  let p0 := s.paddocks.length
  let t0 := s.teams.length
  let teams := (List.range g.count).map fun i =>
    { newTeam g (bit (s.ctx g.ctx).cfg 62) k i s.pkg.timens g.hdr g.prio with paddock := if g.padt == 0 then none else some (p0 + i / g.padt) }
  let pads := if g.padt == 0 then [] else (List.range (g.count / g.padt)).map fun p =>
    ({ grid := k, teams := (List.range g.padt).map fun i => t0 + p * g.padt + i, clus0 := 0, clus1 := none, bars := Vector.replicate 4 {} } : Paddock)
  { s with grids := s.grids.set k { g with phase := .active }, teams := s.teams ++ teams, paddocks := s.paddocks ++ pads }

/-- Release of grid `k`: its reads, the TCB's once, then its checks; one that faults waits (R390, R461). -/
def State.release (s : State) (k : Nat) : State :=
  let g := s.grid k
  let read : Except XFault (List Nat) := if g.tcbWords.isEmpty then s.readsS fedCore g.ctx 8 16 g.tcb.toNat else .ok g.tcbWords
  match read with
  | .error f => s.gridWait k f
  | .ok ws =>
    let va := BitVec.ofNat 64 (ws.getD 1 0)
    let s := s.touchS fedCore g.ctx .load g.tcb.toNat 128
    match s.readHeader g.ctx va with
    | .error f => (s.modGrid k fun x => { x with tcbWords := ws }).gridWait k f
    | .ok none => (s.touchHeader g.ctx va none).failGrid k 1
    | .ok (some h) =>
      let s := s.touchHeader g.ctx va (some h)
      let g1 := { gridOfTcb g ws with hdr := h }
      if !tcbOk g1 ws then s.failGrid k 2
      else if !s.everFits g1.kind h g1.ctx g1.clmask g1.padx g1.unitSize then s.failGrid k 3
      else s.queueTeams k g1

/-- A task known to the scheduler by its submission, which waits or is released (R390, R395, R410). -/
def State.newGrid (s : State) (ctx : Nat) (tcb : DWord) (user : Bool) (cap : Nat) (service released : Bool) : State :=
  let k := s.grids.length
  let s1 := { s with grids := s.grids ++ [{ Grid.dead with tcb, ctx, user, cap, service, phase := if released then .release else .wait }] }
  if released then s1.release k else s1

/-- A task whose PRED has come to 0 is released as it was submitted (R390). -/
def State.releaseWaiting (s : State) (ctx : Nat) (tcb : DWord) : State :=
  match (List.range s.grids.length).find? fun k => (s.grid k).phase == .wait && (s.grid k).ctx == ctx && (s.grid k).tcb == tcb with
  | some k => (s.modGrid k fun g => { g with phase := .release }).release k
  | none => s.newGrid ctx tcb true 15 false true

/-- Submit at a SYNC word (R390): the state, and whether it was BUSY. -/
def State.submitAt (s : State) (ctx : Nat) (tcb : DWord) (pa : Nat) (user : Bool) (cap : Nat) (service : Bool) : State × Bool :=
  match submitSync (s.syncAt pa) with
  | none => (s, true)
  | some (w, rel) => ((s.pokeHome pa w).newGrid ctx tcb user cap service rel, false)

/-- Decrement at a SYNC word (R390): the state, and the old PRED. -/
def State.decAt (s : State) (ctx : Nat) (tcb : DWord) (pa : Nat) : State × Nat :=
  let r := decSync (s.syncAt pa)
  let s1 := s.pokeHome pa r.1
  (if r.2.2 then s1.releaseWaiting ctx tcb else s1, r.2.1)

/-- The service task of a context submitted at S when its TCB is IDLE or DONE (R420). -/
def State.submitService (s : State) (ctx : Nat) : State :=
  let tcb := (s.ctx ctx).svctcb
  if tcb == 0 then s
  else match s.syncPa ctx tcb with
    | .error _ => s
    | .ok pa =>
      let st := tcbState (s.syncAt pa)
      if st == 0 || st == 4 then (((s.touchS fedCore ctx .store tcb.toNat 8).pokeHome pa (setTcbState (s.syncAt pa) 0)).submitAt ctx tcb pa false 15 true).1 else s

/-! ## Retirement (R391) -/

/-- The dirty untracked lines of clusters written back (R222, R391). -/
def MemSys.cleanClusters (m : MemSys) (cs : List Nat) : MemSys :=
  (m.lines.filter fun l => cs.contains l.clus && l.st == .ud).foldl (fun m l => m.retypeLine l.clus false l.line) m

/-- The conditions under which a task retires. -/
def State.mayRetire (s : State) (k : Nat) : Bool :=
  let g := s.grid k
  let ts := s.gridTeams k
  g.phase == .active && !g.held && g.cause == 0 && ts.all (fun t => (s.team t).st == .ended) &&
    !s.cmds.any (fun c => ts.contains c.team && !c.done) && !ts.any (fun t => (s.team t).colls.any fun c => !c.done) &&
    !s.pkg.bins.any fun b => b.any fun x => x.grid == k

/-- Grid `k` is the service task of its context: it was submitted as that, or its TCB is the one that SVCTCB names (R414, R420). -/
def State.isService (s : State) (k : Nat) : Bool :=
  let g := s.grid k
  g.service || (g.tcb != 0 && g.tcb == (s.ctx g.ctx).svctcb)

/-- The end of a retirement: the event, and the service task again while a record is unclaimed (R391, R420). -/
def State.retired (s : State) (k : Nat) : State :=
  let g := s.grid k
  let s1 := s.modGrid k fun x => { x with phase := .over }
  let s2 := if g.ev then s1.taskEvent 0x10 0 g.tcb else s1
  if s.isService k && (s2.ctx g.ctx).opened.any (fun r => !r.claimed && !r.closed) then s2.submitService g.ctx else s2

/-- The next successor of a retiring task: from the TCB, or from the OVF array (R391); the reads may fault. -/
def State.nextSucc (s : State) (g : Grid) : Except XFault (Option DWord) :=
  match g.succs with
  | t :: _ => .ok (some t)
  | [] => if g.novf == 0 then .ok none else match s.readS fedCore g.ctx g.ovf.toNat 8 with
    | .error f => .error f
    | .ok v => .ok (some (BitVec.ofNat 64 v))

/-- One successor left behind. -/
def Grid.dropSucc (g : Grid) : Grid :=
  match g.succs with
  | _ :: ts => { g with succs := ts }
  | [] => { g with ovf := g.ovf + 8, novf := g.novf - 1 }

/-- One decrement of a retirement, or its end; a read that faults waits (R391, R461). -/
def State.retireStep (s : State) (k : Nat) : State :=
  let g := s.grid k
  match s.nextSucc g with
  | .error f => s.gridWait k f
  | .ok none => s.retired k
  | .ok (some t) =>
    let s := if g.succs.isEmpty then s.touchS fedCore g.ctx .load g.ovf.toNat 8 else s
    match s.syncPa g.ctx t with
    | .error f => s.gridWait k f
    | .ok pa => (((s.touchS fedCore g.ctx .store t.toNat 8).decAt g.ctx t pa).1).modGrid k Grid.dropSucc

/-- A finished task writes back, becomes DONE, and tells its successors one by one (R391). -/
def execTaskRetire (gr : Nat) (s : State) : Host.Outcome State Fault Refusal :=
  let g := s.grid gr
  ok (if s.mayRetire gr then
      ({ s with mem := s.mem.cleanClusters g.clusters }.setTcb g.ctx g.tcb 4).modGrid gr fun x => { x with phase := .retiring }
    else if g.phase == .retiring && !g.held then s.retireStep gr
    else s)

/-! ## LAUNCH and DEPDEC (R395) -/

/-- The checks of pA: R206 with the space and class after step 4 (R395). -/
def State.tcbPtr (s : State) (g : Nat) (p : QWord) : Option (Nat × Nat) :=
  let step := s.ptrStep g p (· == .b128) true
  match [1, 2, 3, 4].findSome? step with
  | some e => some e
  | none => match ptrOf p with
    | some q => if q.sp != .glb || q.cls != .syn then some (0x04, 0x06) else [5, 6, 7, 8].findSome? step
    | none => some (0x04, 0x02)

/-- What lane `L` of LAUNCH or DEPDEC reaches. -/
inductive TcbLane where
  | out
  | fault (f : LaneFault)
  | at (va pa : Nat)
deriving DecidableEq, Repr

/-- The TCB that a lane names. -/
def State.tcbLane (s : State) (p : Ptr) (L : Nat) (k : Option Nat) : TcbLane :=
  let t := s.ct
  match k with
  | none => if p.abs then .out else .fault (boundsFault noNf p L true (Config.undef s.tick L).toInt)
  | some k =>
    if 8 * k + 8 > p.len || p.base + 128 * k + 128 > 2 ^ 57 then
      if p.abs then .out else .fault (boundsFault noNf p L true (max (8 * k) (min p.len (8 * k + 7)) : Nat))
    else
      let va := p.base + 128 * k
      match s.lookup t.core t.ctx t.user .store va with
      | .error f => .fault (walkFault L true (8 * k : Nat) (BitVec.ofNat 64 va) f)
      | .ok l => match s.poisonAt (.mem (l.pa va)) with
        | some f => .fault (walkFault L true (8 * k : Nat) (BitVec.ofNat 64 va) f)
        | none => .at va (l.pa va)

/-- One lane's effect on its TCB, with its result. -/
def State.tcbAct (s : State) (launch : Bool) (va pa : Nat) : State × Nat :=
  let t := s.ct
  let s0 := match s.lookup t.core t.ctx t.user .store va with
    | .ok l => s.useLeaf t.core t.ctx .store l
    | .error _ => s
  -- the issuing cluster gives up its untracked copy (R222, R254)
  let s1 := { s0 with mem := s0.mem.forHome (clusterOf t.core) (pa / 128) }
  let r : State × Nat :=
    if launch then
      let q := s1.submitAt t.ctx (BitVec.ofNat 64 va) pa true t.prio false
      (q.1, if q.2 then 1 else 0)
    else
      let q := s1.decAt t.ctx (BitVec.ofNat 64 va) pa
      (q.1, if q.2 ≥ 1 then q.2 - 1 else 0xFFFFFFFF)
  let m := r.1.mem
  ({ r.1 with mem := m.putDir { m.dirOf (pa / 128) with rel := some (s.core17 s.cur.g, .pod) } }, r.2)

/-- The lanes in ascending order: their effects and results. -/
def State.tcbActs (s : State) (launch : Bool) : List (Nat × TcbLane) → State × List (Nat × Nat)
  | [] => (s, [])
  | (L, .at va pa) :: rest =>
    let r := s.tcbAct launch va pa
    let q := r.1.tcbActs launch rest
    (q.1, (L, r.2) :: q.2)
  | (L, _) :: rest => let q := s.tcbActs launch rest; (q.1, (L, 2) :: q.2)

/-- LAUNCH and DEPDEC (R395). -/
def tcbForm (launch : Bool) (f : ENF) (s : State) : State :=
  s.unlessAhead fun s => s.unlessFresh fun s =>
    let g := s.cg
    let p := g.preg f.sa.toNat
    match s.tcbPtr s.cur.g p, ptrOf p with
    | some (c, sub), _ => s.userTrap c sub
    | none, some q =>
      let lanes := (lanesOf (s.act f.msk)).map fun L => (L, s.tcbLane q L (n32 (BitVec.ofNat 32 (g.vlane f.sb.toNat 1 L))))
      if lanes.any fun l => match l.2 with | .at _ pa => s.waits (.mem pa) | _ => false then s.stallFor (lanes.filterMap fun l => match l.2 with | .at _ pa => some (.mem pa) | _ => none)
      else
        let bad := lanes.filterMap fun l => match l.2 with | .fault x => some x | _ => none
        let good := lanes.filter fun l => match l.2 with | .fault _ => false | _ => true
        s.laneFaults bad fun s =>
          let r := s.tcbActs launch good
          let val (L : Nat) : Nat := ((r.2.find? fun x => x.1 == L).map (·.2)).getD 0
          r.1.issue f.y fun x => x.send false (vWrites f.dst.toNat 1 val (lanesMask (good.map (·.1))) (fullBits 1)) []
    | none, none => s

/-- LAUNCH (R395). -/
def execLaunch (f : ENF) (s : State) : Host.Outcome State Fault Refusal := ok (tcbForm true f s)
/-- DEPDEC (R395). -/
def execDepdec (f : ENF) (s : State) : Host.Outcome State Fault Refusal := ok (tcbForm false f s)

/-! ## SPAWN (R397, R398) -/

def State.bin (s : State) (b : Nat) : Option Bin := (s.pkg.bins[b]?).bind id
def State.setBin (s : State) (b : Nat) (x : Option Bin) : State := { s with pkg := { s.pkg with bins := s.pkg.bins.set b x } }

/-- A spawn record of a grid that no team occupies. -/
def State.freeRecord (s : State) (k : Nat) : Option Nat :=
  (List.range (s.grid k).nspawn).find? fun r => !s.teams.any fun t => t.grid == k && t.st != .ended && t.spawnRec == some r

/-- A bin launched: it becomes a team once a spawn record is free (R398); SPAWNBAD discards its threads. -/
def State.launchBin (s : State) (b : Nat) : State :=
  match s.bin b with
  | none => s
  | some x =>
    let s1 := s.setBin b (some { x with launched := true })
    let g := s.grid x.grid
    if g.held then s1
    else match s.freeRecord x.grid with
      | none => s1
      | some r => match s.readHeader g.ctx x.khdr with
        | .error f => s1.gridWait x.grid f
        | .ok h =>
          let s2 := s.touchHeader g.ctx x.khdr h
          match h.filter fun h => h.groups == 1 && !h.matrix with
          | none => (s2.setBin b none).gridFault x.grid 0x12 0 x.khdr
          | some h =>
            let t := { newTeam g (bit (s.ctx g.ctx).cfg 62) x.grid (g.count + r) s.pkg.timens h g.prio with user := true, spawnRec := some r, threads := x.threads }
            { s2.setBin b none with teams := s.teams ++ [t] }

/-- The bin of a key that takes another thread. -/
def State.openBin (s : State) (k : Nat) (khdr : DWord) : Option Nat :=
  (List.range 64).find? fun b => (s.bin b).any fun x => x.grid == k && x.khdr == khdr && !x.launched && x.threads.length < 32

/-- The bin opened earliest. -/
def State.oldestBin (s : State) : Option Nat :=
  let bs := (List.range 64).filter fun b => (s.bin b).isSome
  (sortBy (fun a b => ((s.bin a).map (·.opened)).getD 0 ≤ ((s.bin b).map (·.opened)).getD 0) bs).head?

/-- A thread enters a bin; a bin that fills is launched. -/
def State.intoBin (s : State) (b : Nat) (x : Bin) (v : DWord) : State :=
  let y := { x with threads := x.threads ++ [v] }
  let s1 := s.setBin b (some y)
  if y.threads.length == 32 then s1.launchBin b else s1

/-- A bin opened for a key, with its first thread. -/
def State.newBin (s : State) (k : Nat) (khdr v : DWord) (b : Nat) : State :=
  let age := (s.pkg.bins.filterMap id).foldl (fun n (x : Bin) => max n (x.opened + 1)) 0
  s.intoBin b { grid := k, khdr, threads := [], opened := age, launched := false, since := s.pkg.timens } v

/-- One thread enters where there is room: the state, and whether it entered. With no bin free the one opened earliest is launched
(R397, R398). -/
def State.spawnOne (s : State) (k : Nat) (khdr v : DWord) : State × Bool :=
  match s.openBin k khdr with
  | some b => (match s.bin b with | some x => s.intoBin b x v | none => s, true)
  | none => match (List.range 64).find? fun b => (s.bin b).isNone with
    | some b => (s.newBin k khdr v b, true)
    | none => match s.oldestBin with
      | none => (s, false)
      | some b =>
        let s1 := s.launchBin b
        if (s1.bin b).isNone then (s1.newBin k khdr v b, true) else (s1, false)

/-- The lanes in order, as far as there is room: the lanes that entered. -/
def State.spawnLanes (s : State) (k : Nat) (khdr : DWord) (val : Nat → DWord) : List Nat → State × List Nat
  | [] => (s, [])
  | L :: rest =>
    let r := s.spawnOne k khdr (val L)
    if r.2 then (let q := r.1.spawnLanes k khdr val rest; (q.1, L :: q.2)) else (r.1, [])

/-- SPAWN (R397, R398): a stalled one goes on with the threads that have not entered. -/
def execSpawn (f : ENF) (s : State) : Host.Outcome State Fault Refusal :=
  ok (s.unlessAhead fun s => s.unlessFresh fun s =>
    let g := s.cg
    let k := s.ct.grid
    if (s.grid k).nspawn == 0 then s.userTrap 0x0D 0
    else
      let lanes := lanesOf (s.act f.msk &&& ~~~s.cset.served)
      let r := s.spawnLanes k (g.spair f.sa.toNat) (fun L => BitVec.ofNat 64 (g.vlane f.sb.toNat 2 L)) lanes
      if r.2.length == lanes.length then r.1.advance f.y
      else r.1.stallWith (s.cset.served ||| lanesMask r.2))

/-- SFLUSH (R397). -/
def execSflush (f : ENF) (s : State) : Host.Outcome State Fault Refusal :=
  ok (s.unlessAhead fun s => s.unlessFresh fun s =>
    let key := s.cg.spair f.sa.toNat
    let bs := (List.range 64).filter fun b => (s.bin b).any fun x => x.grid == s.ct.grid && x.khdr == key && !x.launched
    (bs.foldl State.launchBin s).advance f.y)

/-- A bin's timer expires (R397). -/
def execSpawnBinTimer (b : Nat) (s : State) : Host.Outcome State Fault Refusal :=
  ok (if (s.bin b).any fun x => !x.launched then s.launchBin b else s)
/-- A launched bin that waited for a spawn record tries again (R398). -/
def execSpawnBinLaunch (b : Nat) (s : State) : Host.Outcome State Fault Refusal :=
  ok (if (s.bin b).any fun x => x.launched then s.launchBin b else s)

/-! ## Priority and quantum (R399) -/

/-- A unit that waits to be placed. -/
def Team.waitsPlace (t : Team) : Bool := (t.st == .queued || t.st == .saved) && !t.held && !t.tstop

/-- The effective priority of a waiting unit by its first team (R403). -/
def Team.waitPrio (t : Team) : Nat := if t.raised then 16 else t.prio

/-- PRIOGET (R399): an unchecked result. -/
def execPrioget (f : SPF) (s : State) : Host.Outcome State Fault Refusal :=
  ok (s.issue f.y fun g => g.send false [.s f.dst.toNat (BitVec.ofNat 32 (s.ct.prio % 16 + if s.ct.at16 then 16 else 0)) ones32] [])

/-- PRIOSET (R399). -/
def execPrioset (f : SPF) (s : State) : Host.Outcome State Fault Refusal :=
  ok (s.unlessAhead fun s => s.unlessFresh fun s =>
    let v := (s.cg.sreg f.sa.toNat).toNat
    (s.modCt fun t => { t with prio := min (min v 15) t.prio0 }).advance f.y)

/-- QYIELD (R399): no effect unless a unit of equal or higher effective priority waits. -/
def execQyield (f : SPF) (s : State) : Host.Outcome State Fault Refusal :=
  ok (s.unlessAhead fun s => s.unlessFresh fun s =>
    let wanted := s.teams.any fun t => t.waitsPlace && t.waitPrio ≥ s.ct.prio
    (if wanted then s.modCt fun t => { t with qexp := true } else s).advance f.y)

/-- PREQ (R399): an unchecked result. -/
def execPreq (f : SPF) (s : State) : Host.Outcome State Fault Refusal :=
  ok (s.issue f.y fun g => g.send false [.s f.dst.toNat (if s.ct.preq then 1 else 0) ones32] [])

/-- GRDGET (R399): an unchecked result. -/
def execGrdget (f : SPF) (s : State) : Host.Outcome State Fault Refusal :=
  ok (s.issue f.y fun g =>
    let k := s.grid s.ct.grid
    let v := match f.sel.toNat with | 0 => k.gx | 1 => k.gy | 2 => k.gz | _ => k.count
    g.send false [.s f.dst.toNat (BitVec.ofNat 32 v) ones32] [])

end Sys2Proof.Machine
end

