-- ==== Sys2Proof/Machine/Sched.lean ====
section
/-! DEFINITION. The scheduler (R393, R400-R408): placement, quanta and pre-emption requests, and the save and restore of teams. -/

namespace Sys2Proof.Machine
open Sys2Proof

/-! ## Units (R400) -/

/-- The teams placed and pre-empted together with team `t` that have not ended. -/
def State.unitTeams (s : State) (t : Nat) : List Nat :=
  let x := s.team t
  let all := if x.spawnRec.isSome then [t] else match x.paddock with
    | some k => (s.paddock k).teams
    | none => if (s.grid x.grid).pin.isSome then (s.gridTeams x.grid).filter fun u => (s.team u).spawnRec.isNone else [t]
  all.filter fun u => (s.team u).st != .ended

/-- The units that wait to be placed, each by its first team. -/
def State.waitingUnits (s : State) : List Nat :=
  (List.range s.teams.length).filter fun t =>
    (s.team t).waitsPlace && (s.unitTeams t).head? == some t && (s.unitTeams t).all fun u => (s.team u).waitsPlace

/-- The order in which waiting units are considered: effective priority, ready time, entry (R403). -/
def State.byWait (s : State) (us : List Nat) : List Nat :=
  sortBy (fun a b => [16 - (s.team a).waitPrio, (s.team a).ready, a] ≤ [16 - (s.team b).waitPrio, (s.team b).ready, b]) us

/-- The kind of the unit of team `t`. -/
def State.unitKind (s : State) (t : Nat) : UnitKind :=
  let x := s.team t
  if x.spawnRec.isSome then .single else match x.paddock with
    | some k => .paddock k
    | none => match (s.grid x.grid).pin with
      | some c => .pinned c
      | none => .single

/-- What a saved team of a paddock keeps: its die half and its core number within the cluster (R406). -/
def State.keepOf (s : State) (t : Nat) : Option (Bool × Nat) :=
  let x := s.team t
  match x.paddock with
  | some k => if x.st == .saved then some (some (clusterOf x.core) == (s.paddock k).clus1, x.core % 8) else none
  | none => none

/-- What team `t` asks of a core: a saved one for the groups that have not ended, each on its quarter of the core that it left (R16). -/
def State.needOf (s : State) (t : Nat) : Need :=
  let x := s.team t
  if x.st == .saved then
    let gs := s.liveGroups t
    { hdr := x.hdr, groups := gs.map fun g => (s.group g).gidx, left := some x.core, kept := gs.map fun g => ((s.group g).gidx, (s.group g).quarter) }
  else x.hdr.need

/-- Where a waiting unit fits beside the loads `ls` (R401, R406). -/
def State.fitUnit (s : State) (ls : List Load) (t : Nat) : Option (List Placed × Nat × Option Nat) :=
  let x := s.team t
  let g := s.grid x.grid
  s.placeTeams ls (s.unitKind t) x.ctx g.clmask g.padx
    ((s.unitTeams t).map fun u => { team := u, tid := (s.team u).tid, need := s.needOf u, keep := s.keepOf u })

/-! ## Team start (R112, R391, R393, R398) -/

/-- The words that a team's uniform registers receive (R393, R398). -/
def State.paramWords (s : State) (t : Nat) : Except XFault (List Nat) :=
  let x := s.team t
  let g := s.grid x.grid
  if x.spawnRec.isSome then .ok [g.param.toNat % 2 ^ 32, g.param.toNat / 2 ^ 32]
  else s.readsS fedCore x.ctx 4 g.paramw (g.param.toNat + if g.pt then 4 * g.paramw * x.tid else 0)

/-- The parameter words of the teams of a unit. -/
def State.unitParams (s : State) : List Nat → Except XFault (List (Nat × List Nat))
  | [] => .ok []
  | t :: ts => match s.paramWords t, s.unitParams ts with
    | .error f, _ => .error f
    | _, .error f => .error f
    | .ok ws, .ok rest => .ok ((t, ws) :: rest)

/-- The lanes of a new team: 32, or one for each spawned thread (R398). -/
def Team.lanes (t : Team) : Word := if t.spawnRec.isSome then maskOf (· < t.threads.length) else ones32

/-- The registers of a new group (R112, R393, R398). -/
def Team.firstRegs (t : Team) (ws : List Nat) : Regs :=
  let pay (k : Nat) : VReg := vregOf fun L => (t.threads.getD L 0).toNat / 2 ^ (32 * k)
  let r := { Regs.zero with s := Vector.ofFn fun i => BitVec.ofNat 32 (ws.getD i.val 0) }
  if t.spawnRec.isSome then { r with v := vecPut (vecPut r.v 0 (pay 0)) 1 (pay 1) } else r

/-- A group at its creation (R112, R113, R115). -/
def Team.newGroup (tm : Team) (t : Nat) (ws : List Nat) (p : Nat × Nat) : Group :=
  let r := (tm.hdr.roleOf p.1).getD (0, { first := 0, count := 1, consumer := false, vlim := 63, slim := 63, xauto := false })
  { Group.dead with
      team := t, gidx := p.1, slot := p.2, quarter := quarterOf p.2, role := r.1, consumer := r.2.consumer, slim := r.2.slim, vlim := r.2.vlim
      evlim := r.2.vlim, xwait := r.2.xauto, live := tm.lanes, present := tm.lanes, ended := false, regs := tm.firstRegs ws
      sets := vecPut (Vector.replicate 4 {}) 0 { lanes := tm.lanes, st := .ready, pc := tm.hdr.entry }, issueNo := 1 }

/-- The matrix sequencer at team start (R286). -/
def Header.seqStart (h : Header) : Option Seq :=
  if h.matrix then
    some { pc := h.mxentry, st := .run, wdone := false, waitOn := 0, cause := 0, q := Vector.replicate 16 0, acc := [] }
  else none

/-- The untracked lines of a cluster written back and dropped before the first team of a task comes there (R391). -/
def State.enterCluster (s : State) (k c : Nat) : State :=
  if (s.grid k).clusters.contains c then s
  else
    let m := (s.mem.lines.filter fun l => l.clus == c && (l.st == .uc || l.st == .ud)).foldl
      (fun m l => m.retypeLine c true l.line) s.mem
    { s with mem := m }.modGrid k fun g => { g with clusters := g.clusters ++ [c] }

/-- The granules of a placed team are reclaimed as far as they are LENT, and HELD then (R218, R219). -/
def State.holdGranules (s : State) (core : Nat) : State := s.reclaim core (s.granUsed core - s.mem.held core)

/-- A team set on its core; its quantum begins (R219, R403). -/
def Team.seated (t : Team) (core now : Nat) (st : TeamSt) : Team :=
  { t with core, st, placedAt := now, qstart := now, imaged := false, at16 := t.raised, raised := false, qexp := false, preq := false, scratch := [], xfree := t.hdr.extNeed, xq := [] }

/-- A team placed for the first time (R391, R393). -/
def State.startTeam (s : State) (p : Placed) (ws : List Nat) : State :=
  let x := s.team p.team
  let g := s.grid x.grid
  let s1 := if g.clusters.isEmpty then s.setTcb g.ctx g.tcb 3 else s
  let s2 := s1.enterCluster x.grid (clusterOf p.core)
  let first := s2.groups.length
  let gs := (sortBy (fun a b => a.1 ≤ b.1) p.slots).map (x.newGroup p.team ws)
  let s3 := { s2 with groups := s2.groups ++ gs }
  (s3.modTeam p.team fun t =>
    let t1 := t.seated p.core s.pkg.timens .resident
    { t1 with seq := t.hdr.seqStart, xq := (List.range gs.length).filterMap fun i => if (gs.getD i Group.dead).xwait then some (first + i) else none }).holdGranules
      p.core

/-! ## Images (R308-R310, R405-R408, R412, R413) -/

/-- The record of a team in its grid's context area (R407). -/
def State.teamRecord (s : State) (t : Nat) : Nat := (s.grid (s.team t).grid).ctxa.toNat + (s.team t).tid * 0x200000

/-- The record of a group (R407). -/
def State.groupRecord (s : State) (g : Nat) : Nat := s.teamRecord (s.group g).team + 0x44000 + (s.group g).gidx * 0x6000

/-- STATE codes (R138). -/
def setCode : SetSt → Nat
  | .empty => 0 | .ready => 1 | .join => 2 | .bar => 3 | .fault => 4 | .defer => 5
def setOfCode (n : Nat) : Option SetSt :=
  match n with
  | 0 => some .empty | 1 => some .ready | 2 => some .join | 3 => some .bar | 4 => some .fault | 5 => some .defer | _ => none

/-- A lane set as a record (R138). -/
def LaneSet.image (l : LaneSet) : Nat :=
  (l.pc.toNat % 2 ^ 57) + setCode l.st * 2 ^ 60 + (if l.st == .join then l.rj.toNat else 0) * 2 ^ 64 + l.lanes.toNat * 2 ^ 96

/-- A record as a lane set; none where the image is refused (R138, R406). -/
def laneSetOf (n : Nat) : Option LaneSet :=
  let w := BitVec.ofNat 128 n
  match setOfCode (bits w 60 4).toNat with
  | none => none
  | some st =>
    if bits w 57 3 != 0 || bits w 0 3 != 0 || (st == .empty) != (bits w 96 32 == 0) then none
    else
      let pc : DWord := (bits w 0 57 : BitVec 57).setWidth 64
      some (if st == .empty then {} else { lanes := bits w 96 32, rj := bits w 64 32, st, pc })

/-- Values laid from an offset on, each in `n` bytes. -/
def laid (off n : Nat) (vs : List Nat) : Nat :=
  (vs.zipIdx.map fun v => v.1 % 2 ^ (8 * n) * 2 ^ (8 * (off + n * v.2))).foldl (· + ·) 0

/-- A loop record (R408). -/
def LoopRec.image (r : LoopRec) : Nat := r.n % 4 + r.start.toNat % 2 ^ 57 * 2 ^ 7 + r.stop.toNat % 2 ^ 57 * 2 ^ 71

/-- A fold slot (R408), with the word of a result that has not been taken, which stays with the fold unit (log 52). -/
def FoldSlot.image (f : FoldSlot) (res : Nat) : Nat :=
  laid 0 4 [f.id.toNat, f.rank.toNat, f.size.toNat, f.vnum.toNat, f.lastT.toNat, f.lastN.toNat, (if f.pend then 1 else 0) + (if f.pre then 2 else 0), res]

/-- The first 4 KiB of a group record: `points` safe points are recorded, the group runs at S, `unbatched` commands are in no batch, and
`res` is the word of a slot's pending result (R408). -/
def Group.image (g : Group) (points : Nat) (isS : Bool) (unbatched : Nat) (res : Nat → Nat) : Nat :=
  let r := g.regs
  laid 0 16 (g.sets.toList.map LaneSet.image) + laid 0x40 8 [g.stack.length] + laid 0x48 16 (g.loops.map LoopRec.image) +
  laid 0x78 4 (r.lc.toList.map (·.toNat)) + laid 0x84 4 [r.fpflags.toNat, (r.status &&& 0x1C#32).toNat + (if isS then 1 else 0),
    g.evlim + (if g.ext then 256 else 0) + (if g.xwait then 512 else 0)] +
  laid 0x90 4 (r.f.toList.map (·.toNat)) + laid 0xB0 4 ((r.m.toList.drop 1).map (·.toNat)) + laid 0xD0 16 (r.p.toList.map (·.toNat)) +
  laid 0x1D0 16 (r.t.toList.map (·.toNat)) + laid 0x250 32 (g.folds.toList.zipIdx.map fun f => f.1.image (res f.2)) +
  laid 0x2D0 4 [g.batches.closed.toNat, g.batches.done.toNat, g.batches.csw.toNat, unbatched] +
  laid 0x2E0 4 [(vecAt r.s 62 0).toNat, (vecAt r.s 63 0).toNat] + laid 0x2E8 8 [points] + laid 0x800 16 (g.stack.map LaneSet.image)

/-- The word of a pending vote result: the manual gives it no layout (DESIGN CHOICE, log 52). -/
def State.pendingWord (s : State) (g k : Nat) : Nat :=
  if s.msgs.any fun m => match m with | .result g' k' _ => g' == g && k' == k | _ => false then (Config.device 8 (4 * s.tick + k)).toNat else 0

/-- The image of group `g` (R408). -/
def State.groupImage (s : State) (g points : Nat) : Nat :=
  (s.group g).image points (!(s.team (s.group g).team).user) (s.cmds.filter fun c => c.group == g && c.batch.isNone).length (s.pendingWord g)

/-- Words of `n` bytes of an image. -/
def words (img off n count : Nat) : List Nat := (List.range count).map fun i => field img (off + n * i) n

/-- The lane sets of an image; none where one is refused. -/
def setsOf (img : Nat) : Option (List LaneSet × List LaneSet) :=
  let a := (words img 0 16 4).map laneSetOf
  let b := (words img 0x800 16 (field img 0x40 8 % 33)).map laneSetOf
  if (a ++ b).all (·.isSome) then some (a.filterMap id, b.filterMap id) else none

/-- Lane sets that are disjoint and hold exactly the live lanes (R413). -/
def partition (live : Word) (ls : List LaneSet) : Bool :=
  ls.foldl (fun m l => m ||| l.lanes) 0 == live && (ls.map fun l => (lanesOf l.lanes).length).foldl (· + ·) 0 == (lanesOf live).length

/-- The checks of R406 and R413 on a group image. -/
def Group.imageOk (g : Group) (img : Nat) : Bool :=
  match setsOf img with
  | none => false
  | some (a, b) =>
    let xst := field img 0x8C 4
    field img 0x40 8 ≤ 32 && partition g.live (a ++ b) && xst / 1024 == 0 && xst / 128 % 2 == 0 &&
      (xst / 256 % 2 == 0 || xst % 128 ≥ 64) && field img 0xCC 4 == 0

/-- The loop records of an image; a zero record holds none. -/
def loopsOf (img : Nat) : List LoopRec :=
  ((words img 0x48 16 3).filter (· != 0)).map fun v =>
    { n := v % 4, start := BitVec.ofNat 64 (v / 2 ^ 7 % 2 ^ 57), stop := BitVec.ofNat 64 (v / 2 ^ 71 % 2 ^ 57) }

/-- A fold slot with its registers from an image; reserved bits of FOLDID, FOLDRANK and FOLDSIZE stay zero (R7, R337), and what the fold
unit knows of the slot stays. -/
def FoldSlot.ofImage (f : FoldSlot) (v : Nat) : FoldSlot :=
  let w (i : Nat) : Nat := field v (4 * i) 4
  { f with id := BitVec.ofNat 32 (w 0) &&& 0xC000_0FFF#32, rank := BitVec.ofNat 32 (w 1) &&& 0x007F_FFFF#32
           size := BitVec.ofNat 32 (w 2) &&& 0x00FF_FFFF#32, vnum := BitVec.ofNat 32 (w 3),
           lastT := BitVec.ofNat 24 (w 4), lastN := BitVec.ofNat 24 (w 5), pend := w 6 % 2 == 1, pre := w 6 / 2 % 2 == 1 }

/-- The fold slot of an image, as its group held it. -/
def foldOfImage (g : Group) (img k : Nat) : FoldSlot := (g.fold k).ofImage (field img (0x250 + 32 * k) 32)

/-- A restored lane set goes on inside the barrier instruction or CBR where it stood (R268). -/
def Group.resumed (g : Group) (l : LaneSet) : LaneSet :=
  if l.st == .ready then { l with served := lookupD g.resume l.pc.toNat 0 } else l

/-- A group with its image loaded over what its restore routines left (R406, step 4). -/
def Group.ofImage (g : Group) (img : Nat) : Group :=
  match setsOf img with
  | none => g
  | some (a, b) =>
    let r := g.regs
    let vec (n off k : Nat) : Vector Word n := Vector.ofFn fun i => BitVec.ofNat 32 (field img (off + k * i.val) 4)
    let s' := vecPut (vecPut r.s 62 (BitVec.ofNat 32 (field img 0x2E0 4))) 63 (BitVec.ofNat 32 (field img 0x2E4 4))
    let xst := field img 0x8C 4
    { g with
      sets := Vector.ofFn fun i => g.resumed (a.getD i.val {})
      stack := b, loops := loopsOf img, win := [], evlim := xst % 128, xwait := xst / 512 % 2 == 1
      regs := { r with
        s := s', lc := vec 3 0x78 4, fpflags := BitVec.ofNat 32 (field img 0x84 4) &&& 0x1F#32, status := BitVec.ofNat 32 (field img 0x88 4) &&& 0x1C#32
        f := vec 8 0x90 4, m := Vector.ofFn fun i => if i.val == 0 then 0 else BitVec.ofNat 32 (field img (0xB0 + 4 * (i.val - 1)) 4)
        p := Vector.ofFn fun i => BitVec.ofNat 128 (field img (0xD0 + 16 * i.val) 16)
        t := Vector.ofFn fun i => BitVec.ofNat 128 (field img (0x1D0 + 16 * i.val) 16) &&& ~~~0x7FFF_FFF0#128 }
      folds := Vector.ofFn fun i => foldOfImage g img i.val
      batches := { closed := BitVec.ofNat 32 (field img 0x2D0 4), done := BitVec.ofNat 32 (field img 0x2D4 4), csw := BitVec.ofNat 32 (field img 0x2D8 4) }
      routines := [], inRoutine := false, resume := [] }

/-- MXSTATE codes (R309). -/
def seqCode : SeqSt → Nat
  | .run => 0 | .wait => 1 | .ended => 2 | .fault => 3
def seqOfCode : Nat → SeqSt
  | 0 => .run | 1 => .wait | 2 => .ended | _ => .fault

/-- The first page of a sequencer image: the registers and the first entries (R309). -/
def Seq.head (q : Seq) (wph : List Word) : Nat :=
  laid 0 8 [q.pc.toNat % 2 ^ 57] +
  laid 8 4 [seqCode q.st + (if q.wdone && q.st == .fault then 4 else 0) + (if q.st == .wait then q.waitOn * 16 else 0) +
    (if q.st == .fault then q.cause * 256 else 0)] +
  laid 0x10 4 (q.q.toList.map (·.toNat)) + laid 0x50 4 (wph.map (·.toNat))

/-- Page `k` of a sequencer image of 65 pages; the last has 256 bytes. -/
def Seq.page (q : Seq) (wph : List Word) (k : Nat) : Nat :=
  let n := if k == 64 then 32 else 512
  let entries := (List.range n).map fun i => if 512 * k + i < 32 then 0 else (accGet q.acc (512 * k + i - 32)).toNat
  laid 0 8 entries + (if k == 0 then q.head wph else 0)

/-- The checks of R310 on the first page. -/
def seqImageOk (h : Nat) : Bool :=
  let st := field h 8 4
  field h 0 8 < 2 ^ 57 && field h 0 8 % 16 == 0 && st / 2 ^ 16 == 0 && st / 8 % 2 == 0 && field h 12 4 == 0 && field h 0x90 112 == 0 &&
    (st % 4 == 3 || (st / 4 % 2 == 0 && st / 256 % 256 == 0)) && (st % 4 == 1 || st / 16 % 16 == 0) &&
    (st % 4 != 3 || (1 ≤ st / 256 % 256 && st / 256 % 256 ≤ 4))

/-- An entry of a sequencer image: its reserved bits are zero (R290, R310). -/
def accImageOk (e : Nat) : Bool := e / 2 ^ 62 == 0 && e / 2 ^ 57 % 2 == 0

/-- A sequencer from its image: the first page and all 32,768 entries (R310). -/
def seqOfImage (h : Nat) (entries : List Nat) : Seq :=
  let st := field h 8 4
  { pc := BitVec.ofNat 64 (field h 0 8), st := seqOfCode (st % 4), wdone := st / 4 % 2 == 1, waitOn := st / 16 % 16, cause := st / 256 % 256
    q := Vector.ofFn fun i => BitVec.ofNat 32 (field h (0x10 + 4 * i.val) 4)
    acc := (entries.zipIdx).foldl (fun a e => accPut a e.2 (BitVec.ofNat 64 e.1)) [] }

/-- The phases that the sequencer has consumed, from its image (R309). -/
def seqWph (h : Nat) (bars : Vector Bar 16) : Vector Bar 16 :=
  Vector.ofFn fun i => let b := bars[i]; { b with wph := vecPut b.wph 32 (BitVec.ofNat 32 (field h (0x50 + 4 * i.val) 4)) }

/-! ## Save (R405) -/

/-- A group of the team runs a user trap handler, or is about to (R78). -/
def State.inHandler (s : State) (t : Nat) : Bool :=
  (s.liveGroups t).any fun g => (s.group g).handler.isSome || (s.group g).trapReq.isSome

/-- A lane set stands at a safe point (R405). -/
def atPoint (ps : List SafePoint) (l : LaneSet) : Bool := ps.any fun p => p.pc == l.pc

/-- A lane set at a safe point is not inside an instruction that is partly done, other than a BSYNC or a CBR that waits (R268, R405). -/
def State.mayRest (s : State) (g : Nat) (l : LaneSet) : Bool :=
  l.served == 0 || (let w := (s.wordsAt g l.pc).1; wClass w == 6 || (wClass w == 9 && wFmt w == 3))

/-- A request for its team stops this split here (R78, R405). -/
def State.stopsAt (s : State) (g : Nat) (l : LaneSet) : Bool :=
  let t := (s.group g).team
  (s.team t).preq && (s.team t).st == .resident && (s.group g).ra.isNone && !s.inHandler t && atPoint (s.pointsOf t) l && s.mayRest g l

/-- Commands of a team are in flight. -/
def State.copying (s : State) (t : Nat) : Bool := s.cmds.any fun c => c.team == t && !c.done

/-- Every lane set of every group has stopped, nothing is outstanding, and no matrix word that has consumed its phase waits to issue
(R227, R284, R308, R405). -/
def State.mayStop (s : State) (t : Nat) : Bool :=
  let ps := s.pointsOf t
  !ps.isEmpty && (s.team t).seq.all (fun q => !(q.st == .run && q.wdone)) && !s.inHandler t && (s.freshGroups t).isEmpty && !s.copying t &&
    (s.liveGroups t).all fun g =>
      let x := s.group g
      x.ra.isNone && x.retype.isNone && !x.out.any (·.ready) && x.laneSets.all (fun l => atPoint ps l && s.mayRest g l) && x.folds.toList.all (·.joining.isNone)

/-- Pages written one after another through the translation of the context at S (R412). -/
def State.writePages (s : State) (ctx : Nat) : List (Nat × Nat × Nat) → Except XFault State
  | [] => .ok s
  | (va, n, v) :: rest => match s.writeS fedCore ctx va n v with
    | .error f => .error f
    | .ok s1 => s1.writePages ctx rest

/-- The safe points at which lane sets of a group stand, in ascending order. -/
def Group.pointsHit (g : Group) (ps : List SafePoint) : List SafePoint := ps.filter fun p => g.laneSets.any fun l => l.pc == p.pc

/-- The pages of the images of step 3: the sequencer's and the groups' (R308, R405, R408). -/
def State.imagePages (s : State) (t : Nat) : List (Nat × Nat × Nat) :=
  let x := s.team t
  let base := s.teamRecord t
  let ps := s.pointsOf t
  let wph := x.bars.toList.map fun b => vecAt b.wph 32 0
  let seq := match x.seq with
    | none => []
    | some q => (List.range 65).map fun k => (base + 0x2000 + 4096 * k, if k == 64 then 256 else 4096, q.page wph k)
  seq ++ (s.liveGroups t).map fun g => (s.groupRecord g, 4096, s.groupImage g ((s.group g).pointsHit ps).length)

/-! ## The team image (R268, R405, R406)

What it holds stands here as a list of numbers; how the hardware lays that out is its own (log 52). -/

def Bar.words (b : Bar) : List Nat :=
  [b.memb.toNat, b.extra.toNat, b.arrv, b.ph.toNat] ++ b.arrp.toList.map (fun a => (a.map fun w => w.toNat + 1).getD 0) ++ b.wph.toList.map (·.toNat)

def Bar.ofWords (b : Bar) (ws : List Nat) : Bar :=
  let w (i : Nat) : Nat := ws.getD i 0
  { b with
    memb := BitVec.ofNat 32 (w 0), extra := BitVec.ofNat 5 (w 1), arrv := w 2, ph := BitVec.ofNat 32 (w 3)
    arrp := Vector.ofFn fun i => if w (4 + i.val) == 0 then none else some (BitVec.ofNat 32 (w (4 + i.val) - 1))
    wph := Vector.ofFn fun i => BitVec.ofNat 32 (w (36 + i.val)) }

def Donation.words (d : Donation) : List Nat := [d.bar, d.phase.toNat, d.donor, d.recipient.toNat, d.dst, d.n]
def Donation.ofWords (ws : List Nat) : Donation :=
  let w (i : Nat) : Nat := ws.getD i 0
  { bar := w 0, phase := BitVec.ofNat 32 (w 1), donor := w 2, recipient := BitVec.ofNat 32 (w 3), dst := w 4, n := w 5 }

def PBar.words (b : PBar) : List Nat :=
  let pairs (ps : List (Nat × Word)) : List Nat := ps.length :: ps.flatMap fun p => [p.1, p.2.toNat]
  [b.ph.toNat, (if b.local0 then 1 else 0), (if b.local1 then 1 else 0)] ++ pairs b.arrp ++ pairs b.wph

/-- The collectives of a team: what each has read and delivered so far. -/
def Coll.words (c : Coll) : List Nat := [c.fold, c.num, (if c.loaded then 1 else 0), (if c.done then 1 else 0), c.elems.length] ++ c.elems

/-- What the team image of a team holds: barriers, index tables, collective state, donations, the barriers of its paddock (R405). -/
def State.teamWords (s : State) (t : Nat) : List Nat :=
  let x := s.team t
  let pads := match x.paddock with
    | some k => (s.paddock k).bars.toList.flatMap PBar.words
    | none => []
  x.bars.toList.flatMap Bar.words ++ x.xt.toList.flatMap (fun v => v.toList.map (·.toNat)) ++ [x.collDone.toNat, x.collStat.toNat, x.don.length] ++
    x.don.flatMap Donation.words ++ pads ++ x.colls.flatMap Coll.words

/-- Pairs from the front of a list, which gives their number first, and the rest. -/
def pairsOf (ws : List Nat) : List (Nat × Word) × List Nat :=
  let n := ws.getD 0 0
  ((List.range n).map fun i => (ws.getD (1 + 2 * i) 0, BitVec.ofNat 32 (ws.getD (2 + 2 * i) 0)), ws.drop (1 + 2 * n))

/-- Paddock barriers from a list, one after another. -/
def pbarsOf : Nat → List Nat → List PBar
  | 0, _ => []
  | n + 1, ws =>
    let a := pairsOf (ws.drop 3)
    let b := pairsOf a.2
    { ph := BitVec.ofNat 32 (ws.getD 0 0), local0 := ws.getD 1 0 == 1, local1 := ws.getD 2 0 == 1, arrp := a.1, wph := b.1 } :: pbarsOf n b.2

/-- The collectives of a team with what a list says of each. -/
def collsFrom : List Coll → List Nat → List Coll
  | [], _ => []
  | c :: cs, ws =>
    let n := ws.getD 4 0
    { c with loaded := ws.getD 2 0 == 1, done := ws.getD 3 0 == 1, elems := (ws.drop 5).take n } :: collsFrom cs (ws.drop (5 + n))

/-- A team as a team image says. -/
def State.ofTeamWords (s : State) (t : Nat) (ws : List Nat) : State :=
  let w (i : Nat) : Nat := ws.getD i 0
  -- sixteen barriers of 69 numbers, four tables of 128, three numbers, donations of six
  let n := w 1618
  let rest := ws.drop (1619 + 6 * n)
  let bars := pbarsOf 4 rest
  let later := match (s.team t).paddock with
    | some _ => rest.drop (bars.flatMap PBar.words).length
    | none => rest
  let s1 := s.modTeam t fun x => { x with
    bars := Vector.ofFn fun i => x.bars[i].ofWords (ws.drop (69 * i.val))
    xt := Vector.ofFn fun i => Vector.ofFn fun j => BitVec.ofNat 8 (w (1104 + 128 * i.val + j.val))
    collDone := BitVec.ofNat 32 (w 1616), collStat := BitVec.ofNat 32 (w 1617)
    don := (List.range n).map fun k => Donation.ofWords (ws.drop (1619 + 6 * k))
    colls := collsFrom x.colls later }
  match (s.team t).paddock with
  | some k => { s1 with paddocks := s1.paddocks.set k { s1.paddock k with bars := Vector.ofFn fun i => bars.getD i.val {} } }
  | none => s1

/-- The bytes of a team image that holds `ws`: VERSION, then the hardware's own (R407). -/
def teamImage (ws : List Nat) : Nat := 1 + Config.teamImage ws * 2 ^ 32 % 2 ^ 65536

/-- The team image loaded: none where it is refused (R406).  One that stands as it was written says what the team held. -/
def State.ofTeamImage (s : State) (t img : Nat) : Option State :=
  if img % 2 ^ 32 != 1 then none
  else if img == teamImage (s.team t).record then some s
  else (Config.teamOf img).map (s.ofTeamWords t)

/-- The records of a group's divergence stack as the context area holds them while its team runs (R137, R408); one that cannot be
written there is lost to its readers (log 52). -/
def State.putStack (s : State) (g : Nat) : State :=
  let x := s.group g
  let recs := x.stack.map LaneSet.image
  if recs == x.dstack || !x.homes.isEmpty || (s.team x.team).st != .resident then s
  else
    let base := s.groupRecord g
    let s1 := match s.writePages (s.team x.team).ctx ((base + 0x40, 8, recs.length) :: recs.zipIdx.map fun r => (base + 0x800 + 16 * r.2, 16, r.1)) with
      | .ok s1 => s1
      | .error _ => s
    s1.modGroup g fun y => { y with dstack := recs }

/-- The return address that ends a routine: an address of the hardware's own (R405; log 4). -/
def routineRet : DWord := Config.device 3 0 &&& 0x01FF_FFFF_FFFF_FFF8#64

/-- The save pointers of a group: the team's and its own (R405). -/
def State.savePtrs (s : State) (g : Nat) : QWord × QWord :=
  let core17 := BitVec.ofNat 17 (s.core17 g)
  let t := s.teamRecord (s.group g).team
  (makePtr (BitVec.ofNat 64 (t + 0x104000)) 163840#64 .b32 0x08000260#32 core17,
   makePtr (BitVec.ofNat 64 (s.groupRecord g + 0x1000)) 5120#64 .b32 0x08000260#32 core17)

/-- A group about to run routines: p14 and p15 loaded, its next routine started as one split (R405, R406). -/
def Group.runRoutine (g : Group) (rs : List DWord) : Group :=
  let clear := { g with sets := Vector.replicate 4 {}, stack := [], loops := [], win := [] }
  match rs with
  | [] => { clear with routines := [], inRoutine := false }
  | a :: rest =>
    let r := g.regs
    { clear with
      routines := rest, inRoutine := true
      sets := vecPut (Vector.replicate 4 {}) 0 { lanes := g.live, st := .ready, pc := a }
      regs := { r with s := vecPut (vecPut r.s 62 (bits routineRet 0 32)) 63 (bits routineRet 32 32) } }

/-- The save pointers loaded. -/
def Group.withPtrs (g : Group) (q : QWord × QWord) : Group :=
  { g with regs := { g.regs with p := vecPut (vecPut g.regs.p 14 q.1) 15 q.2 }, win := [] }

/-- The routine of a group has returned. -/
def Group.routineDone (g : Group) : Bool :=
  g.inRoutine && g.out.all (fun p => !p.ready) && g.handler.isNone && g.trapReq.isNone &&
    (match g.laneSets with | [l] => l.pc == routineRet && l.st == .ready | [] => true | _ => false)

/-- Groups of a team go on to their next routine. -/
def State.nextRoutines (s : State) (t : Nat) : State :=
  (s.liveGroups t).foldl (fun s g => if (s.group g).routineDone then s.modGroup g fun x => x.runRoutine x.routines else s) s

/-- An access to a context area faults: the save or restore waits (R412). -/
def State.areaFault (s : State) (t : Nat) (f : XFault) : State :=
  if (s.team t).user && !(s.team t).wasS then (s.modTeam t fun x => { x with held := true }).raise (s.teamRec t f.code f.sub .team 0 f.info)
  else s.interruptTeam t f.code f.sub f.info none

/-- What each lane set has done of the instruction in which it stands, kept for the restore (R268). -/
def Group.remembered (g : Group) : Group :=
  { g with resume := (g.laneSets.filter fun l => l.served != 0).map fun l => (l.pc.toNat, l.served) }

/-- Step 3 of R405: the images written, the routines started, which run in user mode; the engine is free (R308). -/
def State.beginSave (s0 : State) (t : Nat) : State :=
  let s := s0.drained t
  match s.writePages (s.team t).ctx (s.imagePages t) with
  | .error f => s.areaFault t f
  | .ok s1 =>
    let ps := s.pointsOf t
    let lastNos := (s.liveGroups t).map fun g => ((s.group g).gidx, (s.group g).regs.vNo)
    (s.liveGroups t).foldl (fun s g => s.modGroup g fun x =>
        { ((x.remembered).withPtrs (s.savePtrs g)).runRoutine ((x.pointsHit ps).map (·.save)) with xwait := false })
      (s1.modTeam t fun x => { x with st := .saving, user := true, wasS := !x.user, seq := none, xq := [], order := { x.order with lastNos } })

/-- Step 5 of R405: the team image written; the team is off its core, its scratchpad there until no access in flight reaches it (R218). -/
def State.endSave (s : State) (t : Nat) : State :=
  let ws := s.teamWords t
  let base := s.teamRecord t
  match s.writePages (s.team t).ctx [(base, 4096, teamImage ws % 2 ^ 32768), (base + 4096, 4096, teamImage ws / 2 ^ 32768)] with
  | .error f => s.areaFault t f
  | .ok s1 =>
    (s.liveGroups t).foldl (fun s g => s.modGroup g fun x => { x with ext := false, xwait := false })
      (s1.modTeam t fun x => { x with
        st := .saved, record := ws, xq := [], preq := false, qexp := false, at16 := false, ready := s.pkg.timens })

/-- No group of a team has a routine left. -/
def State.routinesOver (s : State) (t : Nat) : Bool := (s.liveGroups t).all fun g => !(s.group g).inRoutine

/-- A fresh group of which a thread stands at a safe point dissolves for a request (R153). -/
def State.dissolveStopped (s : State) (t : Nat) : State :=
  let ps := s.pointsOf t
  if s.inHandler t then s
  else ((s.freshGroups t).filter fun f => (s.group f).laneSets.any (atPoint ps)).foldl State.dissolve s

/-- Pre-emption of a team can go on. -/
def State.saveMoves (s : State) (t : Nat) : Bool :=
  let x := s.team t
  !x.held && !x.tstop &&
    ((x.st == .resident && x.preq && (s.mayStop t || (!s.inHandler t && (s.freshGroups t).any fun f => (s.group f).laneSets.any (atPoint (s.pointsOf t))))) ||
     (x.st == .saving && ((s.routinesOver t && !s.copying t) || (s.liveGroups t).any fun g => (s.group g).routineDone)))

/-- Pre-emption of a team goes on (R405): fresh groups dissolve, images are written once everything has stopped, then routines, then
the end. A team under TSTOP stays as it is (R427). -/
def execPreemptSave (t : Nat) (s : State) : Host.Outcome State Fault Refusal :=
  let x := s.team t
  ok (if x.held || x.tstop then s
    else if x.st == .resident && x.preq then
      let s1 := s.dissolveStopped t
      if s1.mayStop t then s1.beginSave t else s1
    else if x.st == .saving then
      let s1 := s.nextRoutines t
      if s1.routinesOver t && !s1.copying t then s1.endSave t else s1
    else s)

/-! ## Disposal (R392, R427) -/

/-- A team ended by the privileged handler, a restore that is refused, or the end of its context. -/
def State.killTeam (s : State) (t : Nat) : State :=
  let s1 := (s.freshGroups t).foldl State.dissolve s
  let s2 := (s1.liveGroups t).foldl (fun s g => s.killLanes g (s.group g).live) s1
  let s3 := s2.modTeam t fun x => if x.st == .ended then x else { x.finish with held := false }
  { s3 with cmds := s3.cmds.filter fun c => !(c.team == t && c.held) }

/-- A grid disposed of: its teams end, its bins empty, and the task ends in FAIL (R392, R427). -/
def State.dispose (s : State) (k cause : Nat) : State :=
  let s1 := (s.gridTeams k).foldl (fun s t => if (s.team t).st == .ended then s else s.killTeam t) s
  let bins := s1.pkg.bins.map fun b => b.filter fun (x : Bin) => x.grid != k
  let s2 := { s1 with pkg := { s1.pkg with bins } }
  match (s2.grid k).phase with
  | .over => s2
  | .retiring => s2.modGrid k fun g => { g with phase := .over, held := false }
  | _ => s2.failGrid k cause

/-! ## Restore (R406) -/

/-- The pages that a restore reads: the team image, the first page of the sequencer image, the group images. -/
def State.readImages (s : State) (t : Nat) : Except XFault (Nat × Nat × List (Nat × Nat)) :=
  let x := s.team t
  let base := s.teamRecord t
  let seqs := if x.hdr.matrix then s.readS fedCore x.ctx (base + 0x2000) 4096 else .ok 0
  let rec go : List Nat → Except XFault (List (Nat × Nat))
    | [] => .ok []
    | g :: gs => match s.readS fedCore x.ctx (s.groupRecord g) 4096, go gs with
      | .error f, _ => .error f
      | _, .error f => .error f
      | .ok v, .ok rest => .ok ((g, v) :: rest)
  match s.readsS fedCore x.ctx 4096 2 base, seqs, go (s.liveGroups t) with
  | .error f, _, _ => .error f
  | _, .error f, _ => .error f
  | _, _, .error f => .error f
  | .ok vs, .ok q, .ok gs => .ok (laid 0 4096 vs, q, gs)

/-- The entries of a sequencer image. -/
def State.readAcc (s : State) (t : Nat) : Except XFault (List Nat) := s.readsS fedCore (s.team t).ctx 8 32768 (s.teamRecord t + 0x2100)

/-- An image is refused: a record for information, and the task fails (R406, R418). -/
def State.ctxBad (s : State) (t : Nat) : State :=
  (s.raise (s.teamRec t 0x13 0 .team 0 0)).dispose (s.team t).grid 5

/-- A group at the beginning of its restore (R406, steps 1 and 3). -/
def Group.restoring (g : Group) (img : Nat) (ps : List SafePoint) : Group :=
  let r := g.regs
  let hit := match setsOf img with
    | some (a, b) => ps.filter fun (p : SafePoint) => (a ++ b).any fun (l : LaneSet) => l.lanes != 0 && l.pc == p.pc
    | none => []
  let g1 := { g with
    ext := field img 0x8C 4 / 256 % 2 == 1
    evlim := field img 0x8C 4 % 128
    regs := { r with v := Vector.replicate 128 (Vector.replicate 32 0), s := Vector.replicate 64 0 }, trap := TrapRegs.zero }
  g1.runRoutine (hit.map fun (p : SafePoint) => p.restore)

/-- A saved team set on its core, each group that lives on its slot (R16, R406). -/
def State.beginRestore (s : State) (p : Placed) : State :=
  let x := s.team p.team
  let s1 := (s.enterCluster x.grid (clusterOf p.core)).modTeam p.team fun t => t.seated p.core s.pkg.timens .restoring
  ((s.liveGroups p.team).foldl (fun s g => s.modGroup g fun y =>
    let slot := ((p.slots.find? fun k => k.1 == y.gidx).map (·.2)).getD y.slot
    { y with slot, quarter := quarterOf slot }) s1).holdGranules p.core

/-- Steps 1 to 3 of a restore: the images checked, extended blocks taken, the routines begun (R406, R413). -/
def State.loadImages (s : State) (t : Nat) : State :=
  let x := s.team t
  match s.readImages t, (if x.hdr.matrix then s.readAcc t else .ok []) with
  | .error f, _ => s.areaFault t f
  | _, .error f => s.areaFault t f
  | .ok (v, q, gs), .ok acc =>
    if (x.hdr.matrix && !(seqImageOk q && acc.all accImageOk)) || gs.any fun g => !(s.group g.1).imageOk g.2 then s.ctxBad t
    else match s.ofTeamImage t v with
    | none => s.ctxBad t
    | some s =>
      let base := s.teamRecord t
      let used := [(base, 8192)] ++ (if x.hdr.matrix then [(base + 0x2000, 0x40100)] else []) ++ gs.map fun g => (s.groupRecord g.1, 4096)
      let s := used.foldl (fun s r => s.touchS fedCore x.ctx .load r.1 r.2) s
      let s1 := s.modTeam t fun y => { y with
        imaged := true
        seq := if y.hdr.matrix then some (seqOfImage q acc) else none
        bars := if y.hdr.matrix then seqWph q y.bars else y.bars }
      let ps := s.pointsOf t
      gs.foldl (fun s g =>
        let s' := s.modGroup g.1 fun y => y.restoring g.2 ps
        let s'' := s'.modGroup g.1 fun y => y.withPtrs (s'.savePtrs g.1)
        if (s''.group g.1).ext then s''.modTeam t fun y => { y with xfree := y.xfree - 1 } else s'') s1

/-- Step 4 of R406: the group images loaded; a group that was waiting in XACQ waits again. -/
def State.endRestore (s : State) (t : Nat) : State :=
  match s.readImages t with
  | .error f => s.areaFault t f
  | .ok (_, _, gs) =>
    if gs.any fun g => !(s.group g.1).imageOk g.2 then s.ctxBad t
    else
      let w := (s.team t).order.lastNos
      let s1 := gs.foldl (fun s g => s.modGroup g.1 fun x =>
        let y := x.ofImage g.2
        { y with regs := { y.regs with vNo := lookupD w x.gidx y.regs.vNo } }) s
      let waits := gs.filterMap fun g => if (s1.group g.1).xwait then some g.1 else none
      s1.modTeam t fun x => { x with st := .resident, user := x.user && !x.wasS, wasS := false, xq := waits }

/-- The restore of a team can go on. -/
def State.restoreMoves (s : State) (t : Nat) : Bool :=
  let x := s.team t
  x.st == .restoring && !x.held && (!x.imaged || s.routinesOver t || (s.liveGroups t).any fun g => (s.group g).routineDone)

/-- The restore of the unit of team `u` goes on (R406). -/
def execTeamRestore (u : Nat) (s : State) : Host.Outcome State Fault Refusal :=
  ok ((s.unitTeams u).foldl (fun s t =>
    if (s.team t).st != .restoring || (s.team t).held then s
    else if !(s.team t).imaged then s.loadImages t
    else
      let s1 := s.nextRoutines t
      if s1.routinesOver t then s1.endRestore t else s1) s)

/-! ## Placement and requests (R401, R403) -/

/-- A unit placed: the parameter blocks of its new teams read first (R400, R461). -/
def State.placeUnit (s : State) (t : Nat) (pl : List Placed × Nat × Option Nat) : State :=
  let fresh := (s.unitTeams t).filter fun u => (s.team u).st == .queued
  match s.unitParams fresh with
  | .error f => s.areaFault t f
  | .ok ws =>
    let s := fresh.foldl (fun s u =>
      let g := s.grid (s.team u).grid
      if (s.team u).spawnRec.isSome then s else s.touchS fedCore (s.team u).ctx .load (g.param.toNat + if g.pt then 4 * g.paramw * (s.team u).tid else 0) (4 * g.paramw)) s
    let s1 := match (s.team t).paddock with
      | some k => { s with paddocks := s.paddocks.set k { s.paddock k with clus0 := pl.2.1, clus1 := pl.2.2 } }
      | none => s
    pl.1.foldl (fun s p => match ws.find? fun w => w.1 == p.team with
      | some w => s.startTeam p w.2
      | none => if (s.team p.team).st == .saved then s.beginRestore p else s) s1

/-- The units with a resident team that may be pre-empted for priority `w` (R403), each with its teams. -/
def State.victims (s : State) (w : Nat) : List (List Nat) :=
  let ok (t : Nat) : Bool :=
    let x := s.team t
    x.st == .resident && !x.preq && !x.tstop && (x.prio < w || (x.prio == w && x.qexp))
  ((List.range s.teams.length).filter fun t => ok t && (s.unitTeams t).head? == some t && (s.unitTeams t).all ok).map s.unitTeams

/-- All ways to choose some of a list. -/
def choices {α : Type} : List α → List (List α)
  | [] => [[]]
  | x :: xs => let r := choices xs; r ++ r.map (x :: ·)

/-- How a choice of victims ranks: fewest teams, lowest effective priorities, earliest placement (R403). -/
def State.victimKey (s : State) (ts : List Nat) : List Nat :=
  [ts.length] ++ sortBy (fun a b => a ≤ b) (ts.map fun t => (s.team t).prio) ++ sortBy (fun a b => a ≤ b) (ts.map fun t => (s.team t).placedAt)

/-- A pre-emption request reaches a team: run-ahead is undone (R355, R405). -/
def State.request (s : State) (t : Nat) : State :=
  (s.liveGroups t).foldl (fun s g => s.modGroup g Group.rollbackWaiting) (s.modTeam t fun x => { x with preq := true })

/-- The teams whose pre-emption lets a unit fit; none where none is needed or none helps (R403). -/
def State.toRequest (s : State) (w : Nat) : Option (List Nat) :=
  let ls := s.loads.filter fun l => !(s.team l.team).preq && (s.team l.team).st != .saving
  if (s.fitUnit ls w).isSome then none
  else
    let cs := ((choices (s.victims (s.team w).waitPrio)).map List.flatten).filter fun ts =>
      !ts.isEmpty && (s.fitUnit (ls.filter fun l => !ts.contains l.team) w).isSome
    (sortBy (fun a b => s.victimKey a ≤ s.victimKey b) cs).head?

/-- What the scheduler does now, if anything (R403). -/
def State.schedule (s : State) : Option State :=
  match s.byWait s.waitingUnits with
  | [] => none
  | w :: rest =>
    match s.fitUnit s.loads w with
    | some pl => some (s.placeUnit w pl)
    | none => match s.toRequest w with
      | some ts => some (ts.foldl State.request s)
      | none =>
        if (s.team w).waitPrio ≥ 16 then none
        else match rest.findSome? fun u => (s.fitUnit s.loads u).map fun pl => (u, pl) with
          | some (u, pl) => some (s.placeUnit u pl)
          | none => none

/-- The scheduler acts (R403). -/
def execSchedulerPlace (s : State) : Host.Outcome State Fault Refusal := ok (s.schedule.getD s)

/-- The quantum of a team, in ns (R403, R414). -/
def State.quantum (s : State) (t : Nat) : Nat :=
  let q := (s.ctx (s.team t).ctx).quantum.toNat
  (if q == 0 then 200 else q) * 1000

/-- A resident team whose quantum runs. -/
def Team.timed (t : Team) : Bool := t.st == .resident && !t.preq && !t.tstop

/-- The quantum of team `t` has run out by the clock. -/
def State.quantumOver (s : State) (t : Nat) : Bool := (s.team t).qstart + s.quantum t ≤ s.pkg.timens

/-- A quantum expires, with those of its unit that are over too: the scheduler acts, and a quantum without a request restarts (R403). A
team under TSTOP runs no quantum (R427). -/
def execQuantumExpire (t : Nat) (s : State) : Host.Outcome State Fault Refusal :=
  ok (if !(s.team t).timed then s
    else
      let us := (s.unitTeams t).filter fun u => u == t || ((s.team u).timed && s.quantumOver u)
      let s1 := us.foldl (fun s u => s.modTeam u fun x => { x with qexp := true }) s
      let s2 := match s1.byWait s1.waitingUnits with
        | [] => s1
        | w :: _ => if (s1.fitUnit s1.loads w).isSome then s1 else match s1.toRequest w with
          | some ts => ts.foldl State.request s1
          | none => s1
      us.foldl (fun s u => if (s.team u).preq then s else s.modTeam u fun x => { x with qexp := false, qstart := s.pkg.timens }) s2)

/-- A unit that has waited 16 quanta takes effective priority 16 (R403). -/
def execEffectivePriorityRaise (u : Nat) (s : State) : Host.Outcome State Fault Refusal :=
  ok ((s.unitTeams u).foldl (fun s t => if (s.team t).waitsPlace then s.modTeam t fun x => { x with raised := true } else s) s)

end Sys2Proof.Machine
end

