-- ==== Sys2Proof/Machine/System.lean ====
section
/-! DEFINITION. Class 12 and what goes with it (R411, R417-R443, R460): returns from traps, special registers, the fault queue and the
operations of the privileged handler, TLBINV, probes of translation and directory, machine checks, self-tests, the recorder, and
the monitors. -/

namespace Sys2Proof.Machine
open Sys2Proof

/-! ## Return from a trap (R75, R423) -/

/-- The sequencer of team `t` runs again at MXPC, or after the word there (R427). -/
def State.seqResume (s : State) (t : Nat) (skip : Bool) : State :=
  s.modSeq t fun q =>
    if q.st == .fault then
      { q with st := .run, cause := 0, pc := if skip then q.pc + 16 else q.pc, wdone := q.wdone && !skip }
    else q

/-- The issuing split leaves its handler and goes on at `pc`; the held splits are released with its last lane (R75), and a sequencer
whose fault an S-mode handler took resumes (R421). -/
def State.leaveTrap (s : State) (y : Bool) (pc : DWord) : State :=
  let g := s.cg
  let l := s.cset
  let x := (g.leaveHandler l.lanes).putSet s.cur.e (l.moved g y pc)
  let s1 := s.settleAt s.cur.g x.counted
  match x.handler, g.handler.bind (·.seqTeam) with
  | none, some t => s1.seqResume t false
  | _, _ => s1

/-- A form of TRET: SYSENC outside a handler (R423). -/
def tretForm (f : SPF) (k : Handler → State → State) (s : State) : State :=
  s.unlessAhead fun s =>
    match s.cg.handler with
    | some h => if s.cg.handles s.cset then k h s else s.faultSplit 0x05 s.cur.word (s.act f.msk)
    | none => s.faultSplit 0x05 s.cur.word (s.act f.msk)

/-- TRET (R75). -/
def execTret (f : SPF) (s : State) : Host.Outcome State Fault Refusal :=
  ok (tretForm f (fun h s => s.leaveTrap f.y h.ret) s)

/-- TRET.rp (R423). -/
def execTretRp (f : SPF) (s : State) : Host.Outcome State Fault Refusal :=
  ok (tretForm f (fun _ s => s.leaveTrap f.y s.cg.trap.pc) s)

/-- The register that TRET.r reads, by the kind in TRAPDST (R39, R423). -/
def retOpnd (kind r : Nat) : Opnd :=
  match kind with
  | 1 => .vec r 1 1 127
  | 2 => .vec r 2 2 127
  | 3 => .vec r 4 4 127
  | 4 => .uni r 1
  | 5 => .uni r 2
  | 6 => .ptr r
  | 7 => .msk r
  | 10 => .lc r
  | _ => .none

/-- The writes of TRET.r: `lanes` for a vector kind, whole registers for the others (R423). -/
def retWrites (g : Group) (lanes : Word) (dst : Nat) : Opnd → List RegW
  | .vec r n _ _ => vWrites dst n (g.vlane r n) lanes (fullBits n)
  | .uni r n => sWrites dst n (g.sval r n) (fullBits n)
  | .ptr r => [.p dst (g.preg r)]
  | .msk r => [.m dst (g.mreg r) ones32]
  | _ => []

/-- Step 12 of R56 for one operand (R113). -/
def rangeBad (g : Group) (o : Opnd) : Bool :=
  match o with
  | .vec r n _ _ => r + n - 1 > g.evlim || (r + n - 1 ≥ 64 && !g.ext)
  | .uni r n => r + n - 1 > g.slim
  | _ => false

/-- TRET.r (R423): a kind that holds no register, or a register that does not fit it, is a second trap (R76). -/
def execTretR (f : SPF) (s : State) : Host.Outcome State Fault Refusal :=
  ok (tretForm f (fun h s =>
    let g := s.cg
    let kind := (bits g.trap.dst 8 4).toNat
    let dst := (bits g.trap.dst 0 7).toNat
    let o := retOpnd kind f.sa.toNat
    let bad := match o with | .none => true | _ => o.outOfRange || o.misaligned
    if bad || h.interrupted then s.userTrap 0x85 0
    else if rangeBad g o then s.userTrap 0x03 0
    else
      let s1 := s.modCg fun x =>
        match o with
        | .lc r => { x with regs := { x.regs with lc := vecPut x.regs.lc dst (vecAt x.regs.lc r 0) } }
        | _ => x.send false (retWrites g s.cset.lanes dst o) []
      s1.leaveTrap f.y h.ret) s)

/-! ## System calls and special registers (R411, R424, R425) -/

/-- SCALL (R424): the active lanes park with a SYSCALL record that shows s0 to s15. -/
def execScall (f : SPF) (s : State) : Host.Outcome State Fault Refusal :=
  ok (s.unlessAhead fun s =>
    let n := s.faults.length
    let extra := (List.range 16).flatMap fun i => leBytes 4 (s.cg.sreg i).toNat
    let t := s.faultSplit 0x06 (f.sel.setWidth 64) (s.act f.msk)
    { t with faults := t.faults.take n ++ (t.faults.drop n).map fun (r : FaultRec) => { r with extra } })

/-- The home groups of a fresh group with their registers, for the flags that they share (R152, R191). -/
def State.homeRegs (s : State) (g : Nat) : List Regs :=
  (homesOf (s.group g).homes).map fun h => (s.group h).regs

/-- GROUPID (R393). -/
def Group.groupId (g : Group) : Word :=
  0#16 ++ BitVec.ofNat 6 g.slot ++ BitVec.ofNat 2 g.quarter ++ 0#3 ++ BitVec.ofNat 5 g.gidx

/-- FOLDID, FOLDRANK and FOLDSIZE by number (R337). -/
def Group.foldReg (g : Group) (n : Nat) : Word :=
  let f := g.fold (n % 4)
  if n < 0x14 then f.id else if n < 0x18 then f.rank else f.size

/-- The records of a context that are claimed and open (FQOPEN, R411). -/
def Ctx.claimedOpen (c : Ctx) : Nat := (c.opened.filter fun r => r.claimed && !r.closed).length

/-- A special register that is one value for the group, as group `g` reads it (R55, R411). -/
def State.specialReg (s : State) (g n : Nat) : Nat :=
  let x := s.group g
  let t := s.team x.team
  let c := s.ctx t.ctx
  let homes := s.homeRegs g
  match n with
  | 0x0000 => ((homes.foldl (fun w r => w ||| (r.status &&& 0x1C#32)) (x.regs.status &&& 0x1C#32)) ||| (if t.user then 0 else 1)).toNat
  | 0x0001 => (homes.foldl (fun w r => w ||| r.fpflags) x.regs.fpflags).toNat
  | 0x0003 => x.groupId.toNat
  | 0x0004 => t.tid
  | 0x0005 => x.role + if x.consumer then 8 else 0
  | 0x0006 => (s.coreloc t.core).toNat
  | 0x0040 => x.trap.pc.toNat
  | 0x0041 => x.trap.cause.toNat
  | 0x0042 => x.trap.opc.toNat
  | 0x0046 => x.trap.dst.toNat
  | 0x0047 => x.trap.imm.toNat
  | 0x1000 => (bits c.cfg 32 16).toNat
  | 0x1001 => t.ctx
  | 0x1010 => s.pkg.timens
  | 0x1011 => s.pkg.cycles
  | 0x1020 => c.claimedOpen
  | k => if 0x10 ≤ k && k ≤ 0x1B then ((s.group (s.hostOf g)).foldReg k).toNat else if 0x20 ≤ k && k ≤ 0x27 then (vecAt x.regs.f (k - 0x20) 0).toNat else 0

/-- VLANE of a lane (R150). -/
def State.vlaneOf (s : State) (g L : Nat) : Nat :=
  let x := s.group g
  if x.homes.isEmpty then 32 * x.gidx + L
  else let h := x.homes.getD L (0, 0); 32 * (s.group h.1).gidx + h.2 % 32

/-- An access of FPFLAGS: it waits for every result outstanding when it first comes here, and goes on with the flags of all
instructions before it (R110, R162). -/
def State.flagAccess (s : State) (k : Word → State → State) : State :=
  match s.cset.fsnap with
  | some w => k w s
  | none =>
    let w := BitVec.ofNat 32 (s.specialReg s.cur.g 1)
    if s.cg.out.isEmpty then k w s else s.await (s.cg.out.map (·.n)) w

/-- SRD (R425): a read of FPFLAGS waits for every result before it (R110). -/
def execSrd (f : SPF) (s : State) : Host.Outcome State Fault Refusal :=
  let n := f.sel.toNat
  ok (if n == 1 then
      s.flagAccess fun w s => s.issue f.y fun g => g.send false (sWrites f.dst.toNat 1 w.toNat (fullBits 1)) []
    else
      let g := s.cg
      let act := s.act f.msk
      let d := f.dst.toNat
      let ws := match srKind f.sel with
        | some .lane => vWrites d 1 (s.vlaneOf s.cur.g) act (fullBits 1)
        | some .lane128 =>
          let v := if n == 0x43 then g.trap.a else if n == 0x44 then g.trap.b else g.trap.c
          vWrites d 4 (fun L => (vecAt v L 0).toNat) act (fullBits 4)
        | some .wide => sWrites d 2 (s.specialReg s.cur.g n) (fullBits 2)
        | _ => sWrites d 1 (s.specialReg s.cur.g n) (fullBits 1)
      s.issue f.y fun g => g.send false ws [])

/-- SWR (R425): STATUS clears the bits written 1, FPFLAGS waits as its reads do (R110) and keeps its five flags (R7, R108), fN is
written as FSET writes it. -/
def execSwr (f : SPF) (s : State) : Host.Outcome State Fault Refusal :=
  let n := f.sel.toNat
  let put (s : State) : State := s.issue f.y fun g =>
    let v := g.sreg f.sa.toNat
    let r := g.regs
    { g with regs :=
        if n == 0 then { r with status := statusW1c r.status v }
        else if n == 1 then { r with fpflags := v &&& 0x1F#32 }
        else { r with f := vecPut r.f (n - 0x20) v } }
  ok (s.unlessAhead fun s => if n == 1 then s.flagAccess fun _ s => put s else put s)

/-! ## The fault queue (R419, R420) -/

/-- SCOPE of a record. -/
def scopeNo : RecScope → Nat
  | .lanes => 0 | .group => 1 | .team => 2 | .seq => 3 | .cmd => 4 | .grid => 5

/-- The 1,024 bytes of a record (R419). -/
def State.recImage (s : State) (r : FaultRec) : Nat :=
  let hdr : DWord := 0#11 ++ BitVec.ofNat 5 r.gidx ++ bits (s.ctx r.ctx).cfg 32 16 ++ r.flags ++ BitVec.ofNat 8 (scopeNo r.scope) ++
    BitVec.ofNat 8 r.sub ++ BitVec.ofNat 8 r.code
  let tid := if r.scope == .grid then 0 else (s.team r.team).tid
  let head := laid 0 8 [hdr.toNat, tid % 2 ^ 32 + r.lanes.toNat * 2 ^ 32, r.pc.toNat, r.va.toNat, r.tcb.toNat, r.info.toNat,
    r.core.toNat + s.pkg.seqno.toNat * 2 ^ 32, s.pkg.timens]
  let lanes := (r.info32.map fun (x : LaneInfo) => laid (0x200 + 16 * x.lane) 8 [x.elem.toNat, x.va.toNat]).foldl (· + ·) 0
  head + leNat (r.extra.take 64) * 2 ^ 512 + lanes

/-- FQPOS: head and tail modulo FQSIZE. -/
def Ctx.pos (c : Ctx) (head tail : Nat) : Ctx :=
  let n := c.fqsize.toNat
  { c with fqpos := BitVec.ofNat 16 (head % n) ++ BitVec.ofNat 16 (tail % n) }
def Ctx.head (c : Ctx) : Nat := (bits c.fqpos 16 16).toNat
def Ctx.tail (c : Ctx) : Nat := (bits c.fqpos 0 16).toNat

/-- The queue has no free slot. -/
def Ctx.full (c : Ctx) : Bool := c.fqsize.toNat ≤ c.opened.length

/-- The service task of a context stands in an FWAIT (R421). -/
def State.serviceWaits (s : State) (c : Nat) : Bool :=
  (List.range s.groups.length).any fun g =>
    let x := s.group g
    let t := s.team x.team
    t.ctx == c && !x.ended && s.isService t.grid && x.laneSets.any fun l =>
      l.stalled && (let w := (s.wordsAt g l.pc).1; wClass w == 12 && wMinor w == 5)

/-- A record written to its slot: the service task is told (R420); a slot that faults halts the context (R421). -/
def State.postRec (s : State) (r : FaultRec) : State :=
  let c := s.ctx r.ctx
  let s1 := { s with faults := s.faults.erase r }
  match s1.writeS fedCore r.ctx (c.fqbase.toNat + 1024 * c.tail) 1024 (s.recImage r) with
  | .error _ => s1.haltContext r.ctx
  | .ok s2 =>
    let add (x : Ctx) : Ctx :=
      { x.pos x.head (x.tail + 1) with opened := x.opened ++ [{ idx := x.tail, claimed := false, closed := false, fr := r }] }
    ({ s2 with pkg := { s2.pkg with seqno := s2.pkg.seqno + 1 } }.modCtx r.ctx add).submitService r.ctx

/-- The first raised record whose queue has room is posted; a context whose service task waits on a full queue halts (R420, R421). -/
def execFaultRecordPost (s : State) : Host.Outcome State Fault Refusal :=
  ok (match s.faults.find? fun r => !(s.ctx r.ctx).full with
    | some r => s.postRec r
    | none => match s.faults.find? fun r => !bit (s.ctx r.ctx).cfg 62 && s.serviceWaits r.ctx with
      | some r => s.haltContext r.ctx
      | none => s)

/-- FWAIT (R426): the oldest unclaimed record. -/
def execFwait (f : SPF) (s : State) : Host.Outcome State Fault Refusal :=
  ok (s.unlessAhead fun s =>
    let c := s.ct.ctx
    let give (s : State) (v : Word) : State := s.issue f.y fun g => g.send false [.s f.dst.toNat v ones32] []
    match (s.ctx c).opened.find? fun r => !r.claimed && !r.closed with
    | none => if bit f.fn 0 then give s ones32 else s.stall
    | some r =>
      give (s.modCtx c fun x => { x with opened := x.opened.map fun (o : OpenRec) => if o.idx == r.idx then { o with claimed := true } else o })
        (BitVec.ofNat 32 r.idx))

/-! ## What the handler does with a record (R427, R461) -/

/-- The claimed open record that an index names. -/
def State.claimed (s : State) (c : Nat) (v : Word) : Option OpenRec :=
  (s.ctx c).opened.find? fun r => r.claimed && !r.closed && r.idx == v.toNat

/-- Records closed; the head advances over closed records in queue order (R420). -/
def Ctx.close (c : Ctx) (p : OpenRec → Bool) : Ctx :=
  let os := c.opened.map fun (r : OpenRec) => if p r then { r with closed := true } else r
  let k := (os.takeWhile (·.closed)).length
  { c.pos (c.head + k) c.tail with opened := os.drop k }

/-- The grid that a record concerns. -/
def State.recGrid (s : State) (r : FaultRec) : Nat := if r.scope == .grid then r.unit else (s.team r.team).grid

/-- Every record of a grid closes (R427); one not yet posted is not posted. -/
def State.closeGrid (s : State) (k : Nat) : State :=
  let ctxs := s.pkg.ctxs.map fun c => (c.1, c.2.close fun r => s.recGrid r.fr == k)
  { s with pkg := { s.pkg with ctxs }, faults := s.faults.filter fun r => s.recGrid r != k }

/-- A grid disposed of by the handler. -/
def State.disposeGrid (s : State) (k cause : Nat) : State := (s.dispose k cause).closeGrid k

/-- The cause with which disposal on a record ends the task: CTXBAD while a save or restore waits on it (R412), else KILLED. -/
def State.killCause (s : State) (r : FaultRec) : Nat :=
  let t := s.team r.team
  if r.scope == .team && t.held && t.st != .queued then 5 else 4

/-- Size of the instruction at `pc`. -/
def State.instSize (s : State) (g : Nat) (pc : DWord) : DWord := if wL (s.wordsAt g pc).1 then 16 else 8

/-- A change of a group, made in the saved image of a team that is saved (R427); the image may fault (R412). -/
def State.onGroup (s : State) (g : Nat) (f : Group → Group) : Except XFault State :=
  let t := s.team (s.group g).team
  if t.st == .saved then
    match s.readS fedCore t.ctx (s.groupRecord g) 4096 with
    | .error x => .error x
    | .ok img =>
      let s := s.touchS fedCore t.ctx .load (s.groupRecord g) 4096
      let y := { f ((s.group g).ofImage img) with resume := (s.group g).resume }
      match s.writeS fedCore t.ctx (s.groupRecord g) 4096 ((s.setGroup g y).groupImage g (field img 0x2E8 8)) with
      | .error x => .error x
      | .ok s1 => .ok (s1.setGroup g y)
  else .ok (s.modGroup g f)

/-- A group as an operation on a record finds it: in the saved image of a team that is saved (R427). -/
def State.groupNow (s : State) (g : Nat) : Group :=
  let t := s.team (s.group g).team
  if t.st == .saved then
    match s.readS fedCore t.ctx (s.groupRecord g) 4096 with
    | .ok img => (s.group g).ofImage img
    | .error _ => s.group g
  else s.group g

/-- A parked lane set becomes READY, `d` bytes further on (R149). -/
def LaneSet.unpark (m : Word) (d : DWord) (l : LaneSet) : LaneSet :=
  if l.st == .fault && l.lanes &&& m != 0 then { l with st := .ready, pc := l.pc + d, age := 0, stalled := false, served := 0 } else l

/-- The FAULT set of a record becomes READY (R427); one in the stack waits there as DEFER (R143). -/
def Group.unpark (g : Group) (m : Word) (d : DWord) : Group :=
  { g with sets := vecMap (LaneSet.unpark m d) g.sets, stack := g.stack.map fun l => (LaneSet.unpark m d l).stacked }.settle

/-- A held group goes on; the split at the faulting instruction may skip it (R427). -/
def Group.unhold (g : Group) (pc d : DWord) : Group :=
  let f (l : LaneSet) : LaneSet := if l.pc == pc && l.st == .ready && d != 0 then { l with pc := l.pc + d, served := 0, stalled := false } else l
  { g with held := false, sets := vecMap f g.sets }

/-- Consecutive bytes of an image replaced. -/
def putField (img byte n v : Nat) : Nat := img - field img byte n * 2 ^ (8 * byte) + v % 2 ^ (8 * n) * 2 ^ (8 * byte)

/-- A stopped sequencer of a saved team set to RUN in its image (R309, R427).  RUN shows no WDONE, so the phase that the word has
consumed is given back for it to consume again. -/
def State.seqImageResume (s : State) (t : Nat) (r : FaultRec) (skip : Bool) : Except XFault State :=
  let x := s.team t
  let a := s.teamRecord t + 0x2000
  match s.readS fedCore x.ctx a 4096 with
  | .error f => .error f
  | .ok img =>
    let st := field img 8 4
    if st % 4 != 3 then .ok s
    else
      let w := MXW.ofWord (BitVec.ofNat 128 (leNat (r.extra.take 16)))
      let o := 0x50 + 4 * w.wb.toNat
      let i1 := putField (putField img 8 4 0) 0 8 (field img 0 8 + if skip then 16 else 0)
      let i2 := if st / 4 % 2 == 1 && !skip then putField i1 o 4 (field i1 o 4 + 2 ^ 32 - 1) else i1
      (s.touchS fedCore x.ctx .load a 4096).writeS fedCore x.ctx a 4096 i2

/-- The command or collective that a record names goes on, or ends as unresolvable (R278, R371). -/
def State.resumeCmd (s : State) (r : FaultRec) (kill : Bool) : State :=
  match s.cmds.find? fun c => c.id == r.unit && c.held with
  | some c => if kill then s.cmdFail c (s.failCode r.code) c.fls else s.modCmd c.id fun x => { x with held := false }
  | none => match (s.team r.team).colls.find? fun c => c.id == r.unit && c.held with
    | some c => if kill then s.collXlate r.team c else s.modColl r.team c.id fun x => { x with held := false }
    | none => s

/-- FRSM on a grid whose read waits: the read is made again, or the successor skipped (R461). -/
def State.resumeGrid (s : State) (k : Nat) (skip : Bool) : State :=
  let g := s.grid k
  if !g.held then s
  else
    let s1 := s.modGrid k fun x => { x with held := false }
    match g.phase with
    | .release => s1.release k
    | .retiring => if skip then s1.modGrid k Grid.dropSucc else s1
    | _ => s1

/-- FRSM on a record (R427). -/
def State.resumeRec (s : State) (r : FaultRec) (skip : Bool) : Except XFault State :=
  let d := if skip then s.instSize r.group r.pc else 0
  match r.scope with
  | .lanes => s.onGroup r.group fun x => x.unpark r.lanes d
  | .group => s.onGroup r.group fun x => x.unhold r.pc d
  | .team => .ok ((s.modTeam r.team fun t => { t with held := false }).teamLocks r.team)
  | .seq => if (s.team r.team).st == .saved then s.seqImageResume r.team r skip else .ok (s.seqResume r.team skip)
  | .cmd => .ok (s.resumeCmd r false)
  | .grid => .ok (s.resumeGrid r.unit skip)

/-- Lanes killed, in the image of a saved team (R139, R427). -/
def State.killIn (s : State) (g : Nat) (m : Word) : Except XFault State :=
  if (s.team (s.group g).team).st == .saved then
    match s.onGroup g fun x => x.removeLanes m with
    | .error f => .error f
    | .ok s1 => .ok (s1.endGroup g)
  else .ok (s.killLanes g m)

/-- FKILL on a record (R427, R461). -/
def State.killRec (s : State) (r : FaultRec) : Except XFault State :=
  match r.scope with
  | .lanes => (s.killIn r.group r.lanes).map fun s => s.locks r.group
  | .group => (s.killIn r.group (s.group r.group).live).map fun s => s.modGroup r.group fun x => { x with held := false }
  | .team | .seq => .ok (s.disposeGrid (s.recGrid r) (s.killCause r))
  | .cmd => .ok (s.resumeCmd r true)
  | .grid => .ok (if (s.grid r.unit).held then s.disposeGrid r.unit 4 else s)

/-- A form that names a record: CTXOP where it names none, or where the table marks its scope (R427).  What it did stands, and the
record closes unless `stays`; an image that faults leaves the record open (R412). -/
def recordForm (f : SPF) (stays : Bool) (ok? : State → FaultRec → Bool) (k : State → FaultRec → Except XFault State) (s : State) : State :=
  s.unlessAhead fun s =>
    let c := s.ct.ctx
    let v := s.cg.sreg f.sa.toNat
    match s.claimed c v with
    | none => s.ctxop
    | some r =>
      if !ok? s r.fr then s.ctxop
      else
        let t := match k s r.fr with
          | .error x => s.areaFault r.fr.team x
          | .ok s1 => if stays then s1 else s1.modCtx c fun y => y.close fun o => o.idx == r.idx
        t.advance f.y

/-- FRSM, FRSM.skip (R427). -/
def execFrsm (f : SPF) (s : State) : Host.Outcome State Fault Refusal :=
  ok (recordForm f false (fun _ _ => true) (fun s r => s.resumeRec r (bit f.fn 0)) s)

/-- FKILL (R427). -/
def execFkill (f : SPF) (s : State) : Host.Outcome State Fault Refusal :=
  ok (recordForm f false (fun _ _ => true) (fun s r => s.killRec r) s)

/-- TDISP (R427). -/
def execTdisp (f : SPF) (s : State) : Host.Outcome State Fault Refusal :=
  ok (recordForm f false (fun _ _ => true) (fun s r => .ok (s.disposeGrid (s.recGrid r) (s.killCause r))) s)

/-- FVOTS (R427): the group's vote, as FVOTE contributes it (R352). -/
def execFvots (f : SPF) (s : State) : Host.Outcome State Fault Refusal :=
  let k := (bits f.sel 4 2).toNat
  let mode := match (bits f.sel 1 2).toNat with | 0 => VoteMode.all | 1 => .any | _ => .maj
  ok (recordForm f true
    (fun s r =>
      let x := (s.groupNow r.group).fold k
      (r.scope == .lanes || r.scope == .group) && x.valid && !x.pre && !x.pend)
    (fun s r => (s.onGroup r.group fun x => x.setFold k { x.fold k with pre := true }).map fun s1 =>
      s1.contribute r.group k (bit f.sel 0) mode) s)

/-- The scopes of TSTOP and TGO (R427). -/
def stopScope (r : FaultRec) : Bool := r.scope != .cmd && r.scope != .grid

/-- TSTOP (R427). -/
def execTstop (f : SPF) (s : State) : Host.Outcome State Fault Refusal :=
  ok (recordForm f true (fun _ r => stopScope r) (fun s r => .ok (s.modTeam r.team fun t => t.stop s.pkg.timens)) s)
/-- TGO (R427). -/
def execTgo (f : SPF) (s : State) : Host.Outcome State Fault Refusal :=
  ok (recordForm f true (fun _ r => stopScope r) (fun s r => .ok (s.modTeam r.team fun t => t.go s.pkg.timens)) s)

/-! ## TLBINV (R433) -/

/-- Whether a core, or the walker of the front-end die, lies in the instance of a scope that holds core `me`. -/
def inInstance (scope me c : Nat) : Bool :=
  match scope with
  | 0 => c == me
  | 1 => c < 256 && c / 8 == me / 8
  | 2 => c < 256 && c / 32 == me / 32
  | _ => true

/-- Cached translations and captured words dropped (R159, R433): of a context and a range, or of all. -/
def MemSys.dropXlate (m : MemSys) (cores : Nat → Bool) (ctx : Option Nat) (range : Option (Nat × Nat)) : MemSys :=
  let hit (c x base size : Nat) : Bool :=
    cores c && ctx.all (· == x) && range.all fun r => r.1 < base + size && base < r.1 + r.2
  { m with tlb := m.tlb.filter fun t => !hit t.core t.ctx t.base t.size
           lbuf := m.lbuf.filter fun e => !hit (e.1 / 4) e.2.1 e.2.2.1 8 }

/-- TLBINV (R433): it stalls until it is complete. -/
def execTlbinv (f : SPF) (s : State) : Host.Outcome State Fault Refusal :=
  ok (s.unlessAhead fun s =>
    if s.cg.invs.any fun r => r.pc == s.cur.pc then
      (s.modCg fun x => { x with invs := x.invs.map fun r => if r.pc == s.cur.pc then { r with entry := s.cur.e } else r }).stallWith 1
    else
      let n := 4096 * 2 ^ (bits f.sel 0 5).toNat
      let va := (s.cg.spair f.sa.toNat).toNat
      let r : InvReq :=
        { entry := s.cur.e, pc := s.cur.pc, size := s.cur.size, y := f.y, kind := (bits f.sel 8 2).toNat
          scope := (bits f.sel 5 3).toNat, base := va - va % n, bytes := n }
      (s.modCg fun x => { x with invs := x.invs ++ [r] }).stallWith 1)

/-- A TLBINV completes (R433): once no store translated before it is still held in run-ahead, the copies it covers are gone. -/
def execTlbinvComplete (g e : Nat) (s : State) : Host.Outcome State Fault Refusal :=
  let x := s.group g
  let t := s.team x.team
  ok (match x.invs.find? fun r => r.entry == e with
    | none => s
    | some r =>
      let at_ : CbrAt := { entry := r.entry, pc := r.pc, size := r.size, target := 0, y := r.y }
      let cores := inInstance r.scope t.core
      let covered (y : Group) : Bool := let u := s.team y.team; cores u.core && (r.kind == 2 || u.ctx == t.ctx)
      if !s.standsAt g at_ || s.groups.any (fun y => covered y && !y.held'.isEmpty) then s
      else
        let m := s.mem.dropXlate cores (if r.kind == 2 then none else some t.ctx) (if r.kind == 0 then some (r.base, r.bytes) else none)
        ((({ s with mem := m }.modGroup g fun y => { y with invs := y.invs.filter fun q => q != r }).resumeAt g at_).advance r.y))

/-! ## Probes (R434, R440, R443) -/

/-- XPROBE (R434). -/
def execXprobe (f : SPF) (s : State) : Host.Outcome State Fault Refusal :=
  ok (s.unlessAhead fun s =>
    let c := s.ct.ctx
    let va := (s.cg.spair f.sa.toNat).toNat
    let w := s.walk c va
    let x : Option XFault := match w.1 with
      | .error x => some x
      | .ok l => s.leafCheck c (bit f.sel 1) (if bit f.sel 0 then .store else .load) va l
    let v := w.2.1 % 8 + (match x with | some x => x.code * 2 ^ 8 + x.sub * 2 ^ 16 | none => 0)
    s.issue f.y fun g => g.send false (sWrites f.dst.toNat 4 (w.2.2.toNat + v * 2 ^ 64) (fullBits 4)) [])

/-- A directory entry as 128 bits (R241). -/
def Dir.image (d : Dir) : QWord :=
  let st : BitVec 4 := match d.st with | .inv => 0 | .shr => 1 | .own => 2 | .poison => 3
  let rel : BitVec 20 := match d.rel with
    | none => 7#3 ++ 0#17
    | some (home, sc) => scopeCode sc ++ BitVec.ofNat 17 home
  st ++ d.mode ++ rel ++ 0#6 ++ d.sharers

/-- A unit's 64-bit result to a uniform pair. -/
def State.pairResult (s : State) (f : SPF) (v : Nat) : State :=
  s.issue f.y fun g => g.send false (sWrites f.dst.toNat 2 v (fullBits 2)) []

/-- DIRRD (R440); the directory of another package is not known here (log 13). -/
def execDirrd (f : SPF) (s : State) : Host.Outcome State Fault Refusal :=
  ok (s.unlessAhead fun s =>
    let ln := (s.cg.spair f.sa.toNat).toNat / 128
    let img := match s.mem.dir.find? fun d => d.line == ln with
      | some d => d.image.toNat
      | none => 0
    s.pairResult f (if s.homedHere ln then img / 2 ^ (if bit f.sel 0 then 64 else 0) else (Config.undef s.tick ln).toNat))

/-- The bits of a sensor, by its number; none of an unassigned one (R443). -/
def sensorBits (n : Nat) : Option Nat :=
  if n < 0x260 then some 16 else if n < 0x2A0 then some 32 else none

/-- A monitor's value: a sensor never refreshed is not known (log 4). -/
def State.monitor (s : State) (ctx n : Nat) : Nat :=
  match sensorBits n with
  | some b => (lookupD s.pkg.sensors n (Config.device 2 n)).toNat % 2 ^ b
  | none => if 0x300 ≤ n && n ≤ 0x304 then (vecAt (s.ctx ctx).exc (n - 0x300) 0).toNat else 2 ^ 64 - 1

/-- MONRD (R443); recorded (R441), or what a replay has brought (R442). -/
def execMonrd (f : SPF) (s : State) : Host.Outcome State Fault Refusal :=
  ok (s.unlessAhead fun s =>
    let v := match s.pkg.monReplay with
      | d :: _ => d.toNat
      | [] => s.monitor s.ct.ctx (s.cg.sreg f.sa.toNat).toNat
    let s1 := { s with pkg := { s.pkg with monReplay := s.pkg.monReplay.drop 1 } }
    (s1.record 6 (s.ct.core) (leBytes 8 v)).pairResult f v)

/-- Sensor values refreshed (R443). -/
def execSensorRefresh (vals : List (Nat × BitVec 64)) (s : State) : Host.Outcome State Fault Refusal :=
  ok { s with pkg := { s.pkg with
    sensors := (vals.filter fun v => (sensorBits v.1).isSome).foldl (fun l v => insertK l v.1 v.2) s.pkg.sensors } }

/-! ## Machine checks and self-tests (R438-R440) -/

/-- A test of the unit that reported an error (R438, R439): of the memory row or the cache set of a line, of the directory set of an
entry, of the core quarter or the accumulator store of a team, of a lane of a port; class 5 has no test.  Which of them it was is free (log 17). -/
def State.reporter (s : State) (u : ErrUnit) : UnitTest :=
  let mk (cls place : Nat) (line : Option Nat) : UnitTest := { id := Config.unitId cls place, cls, place, line }
  let c := (Config.device 14 s.tick).toNat
  match u with
  | .line a => mk (if c % 2 == 0 then 1 else 3) (a / 128) (some (a / 128))
  | .directory ln => mk 1 ln (some ln)
  | .path ln => mk 5 ln none
  | .team t => let x := s.team t
      mk (if c % 3 == 0 then 0 else if c % 3 == 1 && x.hdr.matrix then 2 else 5) x.core none
  | .package => mk 5 0 none
  | .lane n => mk 4 n none

/-- An entry of the error log (R440). -/
def State.logError (s : State) (type cls : Nat) (id pa : DWord) (syndrome : Word) : State :=
  let p := s.pkg
  let same := (p.elog.filter fun e => bits e.2 64 64 == id).length
  let w : BitVec 256 := BitVec.ofNat 32 (same + 1) ++ syndrome ++ pa ++ id ++ BitVec.ofNat 8 type ++ BitVec.ofNat 8 cls ++
    BitVec.ofNat 48 p.timens
  { s with pkg := { p with elog := insertK p.elog p.elogPos w, elogPos := (p.elogPos + 1) % 256 } }

/-- The port whose lane is tested leaves full width for a half, with its bandwidth-change event (R382, R439); which half is free (log 17). -/
def State.halfPort (s : State) (n : Nat) : State :=
  if (s.port n).width == 3 then s.setWidth n (if Config.device 16 n == 0 then 1 else 2) else s

/-- A test of a unit begins: the port of a lane runs at half width; a cache or directory set is written back and holds its requests up, and the teams of a core that is withheld
are asked to leave it, where they can (R439). -/
def State.startTest (s : State) (d : UnitTest) : State :=
  let s0 := if d.cls == 4 then s.halfPort d.place else s
  let s1 := { s0 with
    pkg := { s0.pkg with tests := s0.pkg.tests ++ [d] }
    mem := (s0.mem.lines.filter fun l => d.holds l.line).foldl MemSys.evict s0.mem }
  let leaves (t : Nat) : Bool :=
    let x := s.team t
    x.st == .resident && !x.preq && !x.tstop && x.hdr.spcount != 0 &&
      (testsCore 0 x.core d || (testsCore 2 x.core d && x.hdr.matrix))
  (((List.range s.teams.length).filter leaves).flatMap s.unitTeams).dedup.foldl State.request s1

/-- The tracked copies of a line discarded. -/
def MemSys.dropCopies (m : MemSys) (ln : Nat) : MemSys :=
  { m with lines := m.lines.filter fun (l : Line) => !(l.line == ln && (l.st == .ts || l.st == .tm)) }

/-- What an uncorrectable error takes with it (R438). -/
def State.charge (s : State) (pa : DWord) : ErrUnit → State
  | .line a => { s with mem := s.mem.putDir { s.mem.dirOf (a / 128) with st := .poison } }
  | .directory ln =>
    let m := s.mem.dropCopies ln
    { s with mem := m.putDir { m.dirOf ln with st := .poison, mode := 0, sharers := 0 } }
  | .path ln =>
    let m := s.mem.dropCopies ln
    let m1 := m.putDir { m.dirOf ln with st := .poison, mode := 0, sharers := 0 }
    { s with mem := { m1 with waiting := m1.waiting.filter fun r => r.line != ln } }
  | .team t => (s.modTeam t fun x => { x with mchk := true }).teamFault t 0x07 0 pa
  | .package => ((s.pkg.ctxs.filter fun c => bit c.2.cfg 63).foldl (fun s c => s.haltContext c.1) s).event 0x41 0
  | .lane _ => s

/-- Where an error lies; nowhere in memory for a unit of a team or of the package, whose position is not known (log 4). -/
def errPa (tick : Nat) : ErrUnit → DWord
  | .line a => BitVec.ofNat 64 a
  | .directory ln | .path ln => BitVec.ofNat 64 (ln * 128)
  | .team _ | .package | .lane _ => Config.undef tick 1

/-- An error is reported (R438-R440): logged, charged when it is not corrected, and the unit that reported it tested; how units are
numbered the manual does not say (log 17). -/
def execMachineCheck (unit : ErrUnit) (corrected : Bool) (syndrome : BitVec 32) (s : State) : Host.Outcome State Fault Refusal :=
  let d := s.reporter unit
  let pa := errPa s.tick unit
  let s1 := s.logError (if corrected then 0x30 else 0x31) d.cls d.id pa syndrome
  let s2 := if corrected then s1 else s1.charge pa unit
  ok (if d.cls < 5 && !s2.pkg.tests.any (·.id == d.id) then s2.startTest d else s2)

/-- The test of a unit may run: no team is left where it needs the core (R439). -/
def State.testRuns (s : State) (d : UnitTest) : Bool :=
  !(s.teams.any fun t => t.resident && (testsCore 0 t.core d || (testsCore 2 t.core d && t.hdr.matrix)))

/-- A self-test ends (R439): a unit that fails is withdrawn, a set loses a way, and event 0x42 is posted; the spare row and the half
width that a failure keeps are there already. -/
def execSelfTestComplete (unit : BitVec 64) (pass : Bool) (s : State) : Host.Outcome State Fault Refusal :=
  ok (match s.pkg.tests.find? (·.id == unit) with
    | none => s
    | some d =>
      if !s.testRuns d then s
      else
        let s1 := { s with pkg := { s.pkg with tests := s.pkg.tests.erase d } }
        let s2 := s1.logError (if pass then 0x32 else 0x33) d.cls unit (Config.undef s.tick 2) 0
        if pass then s2
        else
          let p := s2.pkg
          let p1 := match d.cls with
            | 0 => { p with retired := p.retired ++ [d.place] }
            | 1 => { p with badWays := p.badWays ++ [d.place] }
            | 2 => { p with noEngine := p.noEngine ++ [d.place] }
            | _ => p
          { s2 with pkg := p1 }.event 0x42 d.cls)

/-- STEST (R440). -/
def execStest (f : SPF) (s : State) : Host.Outcome State Fault Refusal :=
  ok (s.unlessAhead fun s =>
    let id := s.cg.spair f.sa.toNat
    let give (s : State) (v : Word) : State := s.issue f.y fun g => g.send false [.s f.dst.toNat v ones32] []
    match Config.unitOf id with
    | none => give s 2
    | some (cls, place) =>
      if s.pkg.tests.any (·.id == id) then give s 1
      else give (s.startTest { id, cls, place, line := none }) 0)

/-- ELOG (R440): an entry that was never written reads zero (log 5). -/
def execElog (f : SPF) (s : State) : Host.Outcome State Fault Refusal :=
  ok (s.unlessAhead fun s =>
    let v := s.cg.sreg f.sa.toNat
    let e : BitVec 256 := lookupD s.pkg.elog (bits v 2 8).toNat 0
    s.pairResult f (e.toNat / 2 ^ (64 * (bits v 0 2).toNat)))

/-! ## The recorder (R441, R442) -/

/-- The status that RECCTL gives. -/
def Pkg.recStatus (p : Pkg) : Word :=
  BitVec.ofNat 24 (p.recs.length / 256) ++ 0#6 ++ BitVec.ofBool p.recOvr ++ BitVec.ofBool p.recording

/-- An operation of the recorder, then its status. -/
def recctl (f : SPF) (k : State → State) (s : State) : State :=
  s.unlessAhead fun s =>
    let s1 := k s
    s1.issue f.y fun g => g.send false [.s f.dst.toNat s1.pkg.recStatus ones32] []

/-- RECCTL status (R442). -/
def execRecctlStatus (f : SPF) (s : State) : Host.Outcome State Fault Refusal := ok (recctl f id s)
/-- RECCTL marker (R442). -/
def execRecctlMarker (f : SPF) (s : State) : Host.Outcome State Fault Refusal :=
  ok (recctl f (fun s => s.record 8 s.ct.core (leBytes 4 (s.cg.sreg f.sa.toNat).toNat)) s)
/-- RECCTL stop (R442). -/
def execRecctlStop (f : SPF) (s : State) : Host.Outcome State Fault Refusal :=
  ok (recctl f (fun s => { s with pkg := { s.pkg with recording := false } }) s)

/-- The checkpoint's CRCs of the cores' retired-instruction counts; the manual gives neither the CRC nor the counts (log 4). -/
def checkpointBytes (tick : Nat) : List Byte := (List.range 256).flatMap fun c => leBytes 4 (Config.device 7 (256 * tick + c)).toNat

/-- The checkpoint of every millisecond (R441). -/
def execRecordCheckpoint (s : State) : Host.Outcome State Fault Refusal := ok (s.record 7 0 (checkpointBytes s.tick))

end Sys2Proof.Machine
end

