-- ==== Sys2Proof/Machine/Package.lean ====
section
/-! DEFINITION. The package (R417, R441-R456): the host link, bring-up and standby, power and heat, attestation, and the replay of
recorded inputs. -/

namespace Sys2Proof.Machine
open Sys2Proof

/-! ## The host link (R448, R452) -/

/-- One response of a command. -/
def response (tag : BitVec 16) (status i n : Nat) (v : DWord) : QWord :=
  v ++ 0#24 ++ BitVec.ofNat 8 n ++ BitVec.ofNat 8 i ++ BitVec.ofNat 8 status ++ tag

/-- A single response sent. -/
def State.reply (s : State) (tag : BitVec 16) (status : Nat) (v : DWord) : State :=
  { s with pkg := { s.pkg with hostOut := s.pkg.hostOut ++ [response tag status 0 1 v] } }

/-- BADCMD: a reserved bit, or a length that no command has. -/
def hostBad (c : HostCmd) : Bool :=
  bits c.flags 1 7 != 0 || (bit c.flags 0 && c.op != 0x10) || c.len == 0 || 48 < c.len.toNat

/-- The first byte of I/O space. -/
abbrev ioBase : Nat := 0x70000000000

/-- The commands that the package answers: none before power good, and without accepted firmware only RD of the identification block and
FWLOAD (R453). -/
def State.answers (s : State) (c : HostCmd) : Bool :=
  match s.pkg.boot with
  | .off => false
  | .rom => c.op == 0x21 ||
      (c.op == 0x01 && c.addr.toNat / 2 ^ 43 == s.pkg.num.toNat && ioBase ≤ paOff c.addr.toNat && paOff c.addr.toNat + c.len.toNat ≤ ioBase + 256)
  | _ => true

/-- The 64 bytes of a command. -/
def hostBytes (c : HostCmd) : List Byte :=
  leBytes 64 (c.data ++ c.addr ++ c.len ++ c.tag ++ c.flags ++ c.op : BitVec 512).toNat

/-- Byte `o` of the package's window lies in a host window. -/
def Pkg.inWindow (p : Pkg) (o : Nat) : Bool :=
  (List.range 4).any fun i =>
    let w := p.reg (0x32000 + 8 * i)
    let base := (bits w 32 32).toNat
    base * 2 ^ 21 ≤ o && o < min ((base + (bits w 0 32).toNat) * 2 ^ 21) (2 ^ 43)

/-- The hedge lets RD and WR reach a range (R452). -/
def State.hedge (s : State) (a n : Nat) : Bool :=
  (List.range n).all fun k =>
    (a + k) / 2 ^ 43 == s.pkg.num.toNat && (!s.pkg.lock || ioBase ≤ paOff (a + k) || s.pkg.inWindow (paOff (a + k)))

/-- A refusal of the hedge: WINDOW and event 0x45. -/
def State.refuse (s : State) (c : HostCmd) : State := (s.reply c.tag 2 0).event 0x45 0

/-- A byte as RD finds it; where nothing is installed, and in the firmware's own memory, the value is open (log 4, 86). -/
def State.hostByte (s : State) (a : Nat) : Byte :=
  if isIo a then s.ioByte (paOff a - ioBase)
  else if s.installed a && !isFirmware a then s.mem.homeByte a
  else (Config.undef s.tick a).setWidth 8

/-- RD: a response for every 8 bytes. -/
def State.hostRd (s : State) (c : HostCmd) : State :=
  let a := c.addr.toNat
  let n := c.len.toNat
  if !s.hedge a n then s.refuse c
  else
    let v := leNat ((List.range n).map fun k => s.hostByte (a + k))
    let count := (n + 7) / 8
    let rs := (List.range count).map fun i => response c.tag 0 i count (BitVec.ofNat 64 (v / 2 ^ (64 * i)))
    { s with
      pkg := { s.pkg with hostOut := s.pkg.hostOut ++ rs }
      mem := s.mem.homeRead ((linesOf a n).filter fun ln => s.installed (ln * 128)) }

/-- Bytes of I/O space that are frozen after LOCK: PKG and the host windows (R447, R452). -/
def frozen (o : Nat) : Bool := o == 10 || o == 11 || (0x32000 ≤ o && o < 0x32020)

/-- Bytes written at home as a SYN POD store by the control node, released as by core 0 (R237, R448; log 62). -/
def State.hostPut (s : State) (a : Nat) (bs : List Byte) : State :=
  s.homePut a bs.length (leNat bs) (some ((s.coreloc 0).toNat, .pod))

/-- The bytes of a WR before I/O space, and those in it. -/
def ioSplit (a : Nat) (bs : List Byte) : List Byte × List Byte :=
  let k := if isIo a then 0 else ioBase - paOff a
  (bs.take k, bs.drop k)

/-- WR: each byte goes to memory or to the registers as its own address says; a refused register value leaves everything unchanged. -/
def State.hostWr (s : State) (c : HostCmd) : State :=
  let a := c.addr.toNat
  let bs := leBytes c.len.toNat c.data.toNat
  let n := bs.length
  let q := ioSplit a bs
  let o := paOff (a + q.1.length) - ioBase
  let put (s : State) : State := if q.1.isEmpty || !s.installed a then s else s.hostPut a q.1
  if !s.hedge a n || (s.pkg.lock && (List.range q.2.length).any fun k => frozen (o + k)) then s.refuse c
  else if q.2.isEmpty then (put s).reply c.tag 0 0
  else
    match (put s).ioWrite .host 64 o q.2 with
    | .ok s1 => s1.reply c.tag 0 0
    | .error _ => s.reply c.tag 5 0

/-- The context that a command names in DATA[0]. -/
def cmdCtx (c : HostCmd) : Nat := (bits c.data 0 8).toNat

/-- SUBMIT (R390, R448). -/
def State.hostSubmit (s : State) (c : HostCmd) : State :=
  let x := cmdCtx c
  if !s.pkg.lock then s.reply c.tag 3 0
  else if !bit (s.ctx x).cfg 63 then s.reply c.tag 6 0
  else match s.syncPa x c.addr with
    | .error _ => s.reply c.tag 7 0
    | .ok pa =>
      let s1 := s.touchS fedCore x .store c.addr.toNat 8
      let v : DWord := match submitSync (s1.syncAt pa) with
        | none => 2
        | some (_, true) => 0
        | some (_, false) => 1
      (s1.submitAt x c.addr pa (!bit c.flags 0) 15 false).1.reply c.tag 0 v

/-- The end of a context (R417). -/
def State.endContext (s : State) (x : Nat) : State :=
  let c := s.ctx x
  let s1 := ((List.range s.grids.length).filter fun k => (s.grid k).ctx == x && (s.grid k).phase != .wait && (s.grid k).phase != .over).foldl (fun s k => s.disposeGrid k 4) s
  let part : QWord := vecAt s1.pkg.parts (bits c.cfg 0 4).toNat 0
  let m := (s1.mem.cleanClusters ((List.range 32).filter fun k => bit part k)).dropXlate (fun _ => true) (some x) none
  let owner (e : DWord) : DWord := if bits e 32 16 == bits c.cfg 32 16 then e &&& 0x7FFFFFFFFFFFFFFF#64 else e
  { s1 with mem := m, pkg := { s1.pkg with foldTab := s1.pkg.foldTab.map fun (e : Nat × DWord) => (e.1, owner e.2) } }.modCtx x fun y =>
    { y with cfg := y.cfg &&& 0x7FFFFFFFFFFFFFFF#64 }

/-- CTXEND (R417, R448). -/
def State.hostCtxend (s : State) (c : HostCmd) : State :=
  if !s.pkg.lock then s.reply c.tag 3 0
  else if !bit (s.ctx (cmdCtx c)).cfg 63 then s.reply c.tag 6 0
  else (s.endContext (cmdCtx c)).reply c.tag 0 0

/-- The bytes of a digest or signature of `n` bytes, first byte first. -/
def digestBytes (n v : Nat) : List Byte := (leBytes n v).reverse

/-- The attestation report (R453). -/
def State.report (s : State) (nonce : List Byte) : List Byte :=
  let p := s.pkg
  let limits := leBytes 2 p.pcap.toNat ++ ((List.range 4).flatMap fun i => leBytes 8 (p.reg (0x32000 + 8 * i)).toNat) ++ Config.fusedLimits
  let b := leBytes 32 (p.identNat % 2 ^ 256) ++ nonce ++ digestBytes 48 (Config.sha384 p.body).toNat ++
    digestBytes 48 (Config.sha384 limits).toNat ++ leBytes 16 p.timens
  b ++ digestBytes 96 (Config.sign (Config.sha384 b)).toNat

/-- ATTEST: the report goes out beside the response (log 18). -/
def State.hostAttest (s : State) (c : HostCmd) : State :=
  { s with pkg := { s.pkg with reports := s.pkg.reports ++ [s.report (leBytes 32 c.data.toNat)] } }.reply c.tag 0 0

/-! ## Firmware (R453, R454) -/

/-- The checks of the boot ROM on an image. -/
def imageOk (fused : BitVec 8) (fw : List Byte) : Bool :=
  let v := leNat fw
  0xD0 ≤ fw.length && field v 0 4 == 0x4E424657 && field v 4 4 ≤ 255 && fused.toNat ≤ field v 4 4 &&
    fw.length == 0xD0 + field v 8 8 && Config.sha384 ((fw.drop 0x10).take 96) == Config.fusedKey &&
    Config.verify ((fw.drop 0x10).take 96) ((fw.drop 0x70).take 96) (Config.sha384 (fw.take 0x70 ++ fw.drop 0xD0))

/-- Accepted firmware starts: the fused counter goes up to its SVN. -/
def Pkg.startFw (p : Pkg) (svn : BitVec 8) (body : List Byte) : Pkg :=
  { p with boot := .training, svn, fused := if p.fused.toNat < svn.toNat then svn else p.fused, body }

/-- FWLOAD: the staging buffer restarts or grows; while the ROM waits for firmware it starts an image that passes. -/
def State.hostFwload (s : State) (c : HostCmd) : State :=
  let p := s.pkg
  let fw := (if c.addr == 0 then [] else p.fw) ++ leBytes c.len.toNat c.data.toNat
  let p1 := { p with fw }
  let p2 := if p.boot == .rom && imageOk p.fused fw then p1.startFw (BitVec.ofNat 8 (field (leNat fw) 4 4)) (fw.drop 0xD0) else p1
  { s with pkg := p2 }.reply c.tag 0 0

/-- The end of bring-up (R454, step 7). -/
def State.lockPackage (s : State) (tag : BitVec 16) : State :=
  let p := s.pkg
  { s with pkg := { p with lock := true, boot := .running, doneWait := none, recording := p.recArm, recStart := p.cycles } }.reply tag 0 0

/-- STANDBY (R456): dirty lines go to memory, the ports go down. -/
def State.hostStandby (s : State) (c : HostCmd) : State :=
  if !s.pkg.lock then s.reply c.tag 3 0
  else if s.pkg.ctxs.any fun x => bit x.2.cfg 63 then s.reply c.tag 4 0
  else
    let s1 := { s with mem := s.mem.lines.foldl MemSys.flush s.mem }
    let s2 := (List.range 12).foldl State.portDown s1
    { s2 with pkg := { s2.pkg with boot := .standby } }.reply c.tag 0 0

/-- A command by its OP, but for DONE, which ends bring-up. -/
def State.hostMost (s : State) (c : HostCmd) : State :=
  match c.op.toNat with
  | 0x01 => s.hostRd c
  | 0x02 => s.hostWr c
  | 0x10 => s.hostSubmit c
  | 0x11 => s.hostCtxend c
  | 0x20 => s.hostAttest c
  | 0x21 => s.hostFwload c
  | 0x31 => s.hostStandby c
  | _ => s.reply c.tag 1 0

/-- DONE: NOTREADY a second time; it waits for the zeroing. -/
def State.hostDone (s : State) (c : HostCmd) : State :=
  if s.pkg.lock || s.pkg.doneWait.isSome then s.reply c.tag 3 0
  else if s.pkg.boot == .ready then s.lockPackage c.tag
  else { s with pkg := { s.pkg with doneWait := some c.tag } }

/-- A command by its OP. -/
def State.hostRun (s : State) (c : HostCmd) : State := if c.op == 0x30 then s.hostDone c else s.hostMost c

/-! ## The order of commands (R448) -/

/-- The bytes of memory that a command reads or writes: those of RD and WR, and the SYNC word of SUBMIT (R390, R448). -/
def State.hostPlaces (s : State) (c : HostCmd) : List Place :=
  if c.op == 0x01 || c.op == 0x02 then
    if s.hedge c.addr.toNat c.len.toNat then (List.range c.len.toNat).map fun k => .mem (c.addr.toNat + k) else []
  else if c.op == 0x10 && s.pkg.lock && bit (s.ctx (cmdCtx c)).cfg 63 then
    match s.syncPa (cmdCtx c) c.addr with
    | .ok pa => [.mem pa]
    | .error _ => []
  else []

/-- A command must wait: one with its TAG does, or a line that it reads or writes is not at home (R221, R242). -/
def State.hostHeld (s : State) (c : HostCmd) : Bool :=
  s.pkg.doneWait == some c.tag || (!hostBad c && (s.hostPlaces c).any s.waits)

/-- A command with the TAG of one that waits comes after it. -/
def State.hostBehind (s : State) (c : HostCmd) : Bool := s.pkg.hostWait.any fun d => d.1.tag == c.tag

/-- The lines of a command asked back from their owners. -/
def State.hostRecall (s : State) (c : HostCmd) : State := s.recallAll (s.hostPlaces c)

/-- A command put to wait, with whether it came before the end of bring-up. -/
def State.hostPark (s : State) (c : HostCmd) : State := { s with pkg := { s.pkg with hostWait := s.pkg.hostWait ++ [(c, !s.pkg.lock)] } }

/-- The frame of a command: recorded (R441), put to wait, or BADCMD or its effect. -/
def hostForm (c : HostCmd) (k : State → State) (s : State) : State :=
  if !s.answers c || s.pkg.replay then s
  else
    let s1 := s.record 1 0 (hostBytes c)
    if s1.hostBehind c || s1.hostHeld c then (if s1.hostBehind c then s1 else s1.hostRecall c).hostPark c
    else if hostBad c then s1.reply c.tag 1 0 else k s1

/-- The first waiting command that can go on. -/
def State.hostNext (s : State) : Option (HostCmd × Bool) :=
  s.pkg.hostWait.find? fun c => !s.hostHeld c.1 && (s.pkg.hostWait.find? fun d => d.1.tag == c.1.tag) == some c

/-- A waiting command goes on; SUBMIT, CTXEND and STANDBY that came before DONE's response are NOTREADY (R448, R454). -/
def State.hostResume (s : State) : State :=
  match s.hostNext with
  | none => s
  | some (c, early) =>
    let s1 := { s with pkg := { s.pkg with hostWait := s.pkg.hostWait.erase (c, early) } }
    if hostBad c then s1.reply c.tag 1 0
    else if early && (c.op == 0x10 || c.op == 0x11 || c.op == 0x31) then s1.reply c.tag 3 0
    else s1.hostRun c

/-- RD (R448). -/
def execRd (c : HostCmd) (s : State) : Host.Outcome State Fault Refusal := ok (hostForm c (fun s => s.hostRd c) s)
/-- WR (R448). -/
def execWr (c : HostCmd) (s : State) : Host.Outcome State Fault Refusal := ok (hostForm c (fun s => s.hostWr c) s)
/-- SUBMIT (R448). -/
def execSubmit (c : HostCmd) (s : State) : Host.Outcome State Fault Refusal := ok (hostForm c (fun s => s.hostSubmit c) s)
/-- CTXEND (R448). -/
def execCtxend (c : HostCmd) (s : State) : Host.Outcome State Fault Refusal := ok (hostForm c (fun s => s.hostCtxend c) s)
/-- ATTEST (R448, R453). -/
def execAttest (c : HostCmd) (s : State) : Host.Outcome State Fault Refusal := ok (hostForm c (fun s => s.hostAttest c) s)
/-- FWLOAD (R448, R453). -/
def execFwload (c : HostCmd) (s : State) : Host.Outcome State Fault Refusal := ok (hostForm c (fun s => s.hostFwload c) s)
/-- DONE (R448, R454). -/
def execDone (c : HostCmd) (s : State) : Host.Outcome State Fault Refusal := ok (hostForm c (fun s => s.hostDone c) s)
/-- STANDBY (R448, R456). -/
def execStandby (c : HostCmd) (s : State) : Host.Outcome State Fault Refusal := ok (hostForm c (fun s => s.hostStandby c) s)
/-- A command with an OP that is not assigned (R448). -/
def execHostBadCommand (c : HostCmd) (s : State) : Host.Outcome State Fault Refusal :=
  ok (hostForm c (fun s => s.reply c.tag 1 0) s)

/-! ## Registers written (R414, R446, R447, R451, R455) -/

/-- I/O registers after a write, or as they were where it is refused. -/
def State.ioTry (s : State) (o : Nat) (bs : List Byte) : State :=
  match s.ioWrite .host (bs.length + 1) o bs with
  | .ok s1 => s1
  | .error _ => s

/-- I/O space takes no write before step 3 of bring-up (R454). -/
def State.ioReady (s : State) : Bool := s.pkg.boot != .off && s.pkg.boot != .rom

/-- A write to the registers of this package's I/O space (R446); one to bytes that LOCK has frozen is dropped, with event 0x45 (R452). -/
def State.registerPut (s : State) (off : Nat) (bytes : List Byte) : State :=
  if !s.ioReady then s
  else if s.pkg.lock && (List.range bytes.length).any (fun k => frozen (off + k)) then s.event 0x45 0
  else s.ioTry off bytes

/-- A store of the firmware (R452): it reaches the registers, its own 64 MiB of DDR-5, and by a message on virtual channel 6 the I/O space of
peers; any other is dropped, with event 0x45. -/
def State.firmwarePut (s : State) (pa : Nat) (bytes : List Byte) : State :=
  let last := pa + bytes.length - 1
  if isIo pa && isIo last && paPkg pa == paPkg last then
    if paPkg pa == s.pkg.num.toNat then s.registerPut (paOff pa - ioBase) bytes else { s with out := s.out ++ [.manage (paPkg pa) pa bytes] }
  else if paPkg pa == s.pkg.num.toNat && isFirmware pa && isFirmware last then s.homePut pa bytes.length (leNat bytes) none
  else s.event 0x45 0

/-- A register is written, or the firmware stores to a physical address (R446, R452). -/
def execRegisterWrite (dest : RegDest) (bytes : List (BitVec 8)) (s : State) : Host.Outcome State Fault Refusal :=
  ok (match dest with
    | .reg off => s.registerPut off bytes
    | .firmware pa => s.firmwarePut pa bytes)
/-- PKG written (R447); after LOCK the write is dropped, with event 0x45 (R452). -/
def execPkgWrite (n : BitVec 9) (s : State) : Host.Outcome State Fault Refusal :=
  ok (if !s.ioReady then s else if s.pkg.lock then s.event 0x45 0 else s.setPkgNum n)
/-- BOOTCTL written (R455). -/
def execBootctlGo (val : BitVec 64) (s : State) : Host.Outcome State Fault Refusal := ok (if s.ioReady then s.setBootctl val else s)
/-- PCAP written (R451). -/
def execPowerCapWrite (w : BitVec 16) (s : State) : Host.Outcome State Fault Refusal := ok (if s.ioReady then s.setPcap w else s)
/-- A context descriptor written from an offset on (R414). -/
def execContextDescriptorWrite (idx off : Nat) (bytes : List (BitVec 8)) (s : State) : Host.Outcome State Fault Refusal :=
  ok (if s.ioReady && idx < 256 && off + bytes.length ≤ 128 then s.ioTry (0x10000 + 128 * idx + off) bytes else s)

/-! ## Power and heat (R451, R452) -/

/-- The clock step and the pacing set; a change is recorded (R441). -/
def State.setStep (s : State) (stp pacing : Byte) : State :=
  let s1 := if s.pkg.step == stp && s.pkg.pacing == pacing then s else s.record 5 0 [stp, pacing]
  { s1 with pkg := { s1.pkg with step := stp, pacing } }

/-- A clock step and a pacing are chosen and the power registers refreshed (R451). -/
def execClockStepSelect (stp : ClockStep) (pnow tmax : BitVec 16) (s : State) : Host.Outcome State Fault Refusal :=
  ok (if 5 < stp.step then s
    else
      let s1 := s.setStep (BitVec.ofNat 8 stp.step) stp.pacing
      { s1 with pkg := { s1.pkg with pnow, tmax } })

/-- The hedge forces step 5 (R452). -/
def execHedgePowerTrip (s : State) : Host.Outcome State Fault Refusal :=
  ok (s.setStep 5 s.pkg.pacing)

/-- A sensor above 125 °C for 1 ms: every context halts (R452). -/
def execThermalTrip (s : State) : Host.Outcome State Fault Refusal :=
  ok (((s.pkg.ctxs.filter fun c => bit c.2.cfg 63).foldl (fun s c => s.haltContext c.1) s).event 0x46 0)

/-! ## Bring-up and standby (R454-R456) -/

/-- A byte of the package's own DDR-5 range; of its HBM range. -/
def State.ownDdr (s : State) (a : Nat) : Bool := paPkg a == s.pkg.num.toNat && 0x10000000000 ≤ paOff a && paOff a < 0x50000000000
def State.ownHbm (s : State) (a : Nat) : Bool := paPkg a == s.pkg.num.toNat && paOff a < 0x8000000000

/-- Power good (R454, steps 1 and 2): the ROM starts the firmware in flash, where there is an image and it accepts it, else waits for one
(R453). -/
def execPowerGood (flash : Bool) (svn : BitVec 8) (s : State) : Host.Outcome State Fault Refusal :=
  ok (if s.pkg.boot != .off then s
    else
      let p := { s.pkg with recArm := Config.recordArmed, boot := .rom }
      let fw := Config.flashImage svn
      { s with pkg := if flash && imageOk p.fused fw then p.startFw (BitVec.ofNat 8 (field (leNat fw) 4 4)) (fw.drop 0xD0) else p })

/-- Training has ended (R454, step 3; R450). -/
def execTrainingComplete (ddrGib : BitVec 16) (s : State) : Host.Outcome State Fault Refusal :=
  ok (if s.pkg.boot != .training then s
    else { s with pkg := { s.pkg with
      boot := .trained, ddrcap := if 4096 < ddrGib.toNat then 4096 else ddrGib
      ports := vecMap (fun p => { p with owed := Vector.ofFn fun v => Config.rxBuffers v.val, due := true }) s.pkg.ports } })

/-- Zeroing has ended (R454, step 4; R455): HBM4 reads zero, and DDR-5 unless it is kept; a DONE that waited is carried out. -/
def execZeroingComplete (s : State) : Host.Outcome State Fault Refusal :=
  ok (if s.pkg.boot != .zeroing then s
    else
      let keep := bit (s.pkg.reg 0x1040) 1
      let cells := s.mem.cells.filter fun c => !(s.ownHbm c.1 || (!keep && s.ownDdr c.1))
      let poison (d : Dir) : Bool := d.st == .poison && (s.ownHbm (d.line * 128) || (!keep && s.ownDdr (d.line * 128)))
      let m := { s.mem with cells, dir := s.mem.dir.filter fun d => !poison d }
      let s1 := { s with mem := m, pkg := { s.pkg with boot := .ready } }
      match s1.pkg.doneWait with
      | some tag => s1.lockPackage tag
      | none => s1)

/-- The DDR-5 range of the package with undefined bytes in it (R6, R456). -/
def State.ddrLost (s : State) : List Host.Cell :=
  let base := s.pkg.num.toNat * 2 ^ 43 + 0x10000000000
  cellsWrite s.mem.cells base (undefBytes s.tick base 0x40000000000)

/-- The core power is removed (R456): nothing on the die remains; DDR-5 keeps its contents only in the self-refresh of STANDBY, and is
the package's own again at window 0, with the poison that its ECC metadata keep (R438). -/
def execCorePowerRemoved (s : State) : Host.Outcome State Fault Refusal :=
  let all := if s.pkg.boot == .standby then s.mem.cells else s.ddrLost
  let others := all.filter fun c => paPkg c.1 != s.pkg.num.toNat && paPkg c.1 != 0
  let cells := (all.filter fun c => s.ownDdr c.1).foldl (fun cs c => cellPut cs (paOff c.1) c.2) others
  let kept := if s.pkg.boot == .standby then s.mem.dir.filter fun d => s.mem.poisoned d.line && s.ownDdr (d.line * 128) else []
  ok { State.reset with
    mem := { MemSys.zero with cells, dir := kept.map fun d => { line := paOff (d.line * 128) / 128, st := .poison } }
    pkg := { Pkg.zero with svn := s.pkg.fused, fused := s.pkg.fused, hostOut := s.pkg.hostOut, reports := s.pkg.reports, events := s.pkg.events }
    out := s.out, inputs := s.inputs, sched := s.sched, tick := s.tick }

/-- The DIMM supply is removed (R456): the contents of DDR-5 are lost. -/
def execDimmSupplyLoss (s : State) : Host.Outcome State Fault Refusal := ok { s with mem := { s.mem with cells := s.ddrLost } }

/-! ## Replay (R442) -/

/-- A command from its 64 bytes. -/
def hostOfBytes (bs : List Byte) : HostCmd :=
  let w : BitVec 512 := BitVec.ofNat 512 (leNat bs)
  { op := bits w 0 8, flags := bits w 8 8, tag := bits w 16 16, len := bits w 32 32, addr := bits w 64 64, data := bits w 128 384 }

/-- A flit from its bytes, as the recorder keeps them (R377, R441). -/
def flitOfBytes (bs : List Byte) : Flit :=
  let h : QWord := BitVec.ofNat 128 (leNat bs)
  flitSealed { seq := bits h 116 12, ackseq := bits h 104 12, av := bit h 103, nak := bit h 102, kind := bits h 98 4, cred := bits h 90 8,
               cvc := bits h 87 3, vc := bits h 84 3, dpkg := bits h 75 9, spkg := bits h 66 9, plen := bits h 58 8, frag := bits h 56 2,
               rsv := bits h 0 56, payload := BitVec.ofNat 1792 (leNat (bs.drop 16)), crc := 0, hits := [] }

/-- What DDR-5 or the pool returned: the line that the payload names holds its data (R441; log 59). -/
def State.replayLine (s : State) (payload : List Byte) : State :=
  let ln := leNat (payload.take 8) / 128
  if payload.length == 136 && s.homedHere ln && (isDdr (ln * 128) || isCxl (ln * 128)) then
    { s with mem := { s.mem with cells := cellsWrite s.mem.cells (ln * 128) (payload.drop 8) } }
  else s

/-- Time passes to a tag, in cycles since recording started (R441, R442). -/
def State.toTag (s : State) (tag : DWord) : State :=
  { s with pkg := { s.pkg with cycles := max s.pkg.cycles (s.pkg.recStart + tag.toNat) } }

/-- What a recorded input does when it is injected. -/
def State.inject (s : State) (head : RecordHead) (payload : List Byte) : Host.Outcome State Fault Refusal :=
  match head.src with
  | 1 => let c := hostOfBytes payload; ok (hostForm c (fun s => s.hostRun c) s)
  | 2 => execFlitReceive head.port (flitOfBytes payload) s
  | 3 | 4 => ok (s.replayLine payload)
  | 5 => ok { s with pkg := { s.pkg with step := payload.getD 0 0, pacing := payload.getD 1 0 } }
  | 6 => ok { s with pkg := { s.pkg with monReplay := s.pkg.monReplay ++ [BitVec.ofNat 64 (leNat payload)] } }
  | 7 => ok (if payload == checkpointBytes s.tick || s.pkg.events.any (fun e => bits e 56 8 == 0x44#8) then s
      else s.postEvent (0x44#8 ++ 0#8 ++ bits head.tag 0 48))
  | _ => ok s

/-- A recorded input is injected at its time tag (R442): host commands and flits arrive, memory and monitors return what they did, clock
steps and pacing are followed, and the first checkpoint that differs is told with its tag (log 59); a program sets its markers
itself.  From the first on, the external links are not used. -/
def execReplayInject (head : RecordHead) (payload : List (BitVec 8)) (s : State) : Host.Outcome State Fault Refusal :=
  match ({ s with pkg := { s.pkg with replay := false } }.toTag head.tag).inject head payload with
  | .next t => .next { t with pkg := { t.pkg with replay := true } }
  | r => r

end Sys2Proof.Machine
end

