-- ==== Sys2Proof/Machine/Results.lean ====
section
/-! DEFINITION. Results that return (R163) and the entry of the user-level trap (R72, R73, R421). -/

namespace Sys2Proof.Machine
open Sys2Proof

/-- The flags of result `n` reach the accesses of FPFLAGS that wait for it (R110, R162). -/
def Group.noteFlags (g : Group) (n : Nat) (fl : Fl) : Group :=
  let f (l : LaneSet) : LaneSet := if l.waits.contains n then { l with fsnap := l.fsnap.map (· ||| fl.setWidth 32) } else l
  { g with sets := vecMap f g.sets, stack := g.stack.map f }

/-- Flags of result `n` ORed into FPFLAGS that another home group counts (R111, R152). -/
def Group.orTwin (g : Group) (n : Nat) (fl : Fl) : Group :=
  { g.orFlags fl with ra := g.ra.map fun r =>
      if n < r.startNo then { r with regs := { r.regs with fpflags := r.regs.fpflags ||| fl.setWidth 32 } } else r }

/-- An unchecked result of group `g` returns and is written to the banks unless superseded (R163). -/
def execResultReturn (g n : Nat) (s : State) : Host.Outcome State Fault Refusal :=
  ok (match (s.group g).out.find? fun p => p.n == n && p.ready with
    | none => s
    | some p =>
      let s1 := s.modGroup g fun x => { x with out := x.out.filter fun q => q.n != n || !q.ready }.noteFlags n (joinFl p.fls)
      if p.twin then (s1.deliverTo g n p.t p.ws []).modGroup g fun x => x.orTwin n (joinFl p.fls)
      else s1.deliverTo g n p.t p.ws p.fls)

/-- The value an operand field presents in TRAPA, TRAPB or TRAPC for a lane (R73).  What of a misaligned pair or quad would lie past v127 or s63
is zero, and a register of v64 to v127 shows what the bank holds, without a block too (DESIGN CHOICE, log 93). -/
def trapOperand (g : Group) (imm : DWord) (o : Opnd) (lane : Nat) : QWord :=
  match opndKind o, o with
  | 1, .vec r _ _ _ => BitVec.ofNat 128 (g.vlane r 1 lane)
  | 2, .vec r _ _ _ => BitVec.ofNat 128 (g.vlane r 2 lane)
  | 3, .vec r _ _ _ => BitVec.ofNat 128 (g.vlane r 4 lane)
  | 4, .uni r _ => BitVec.ofNat 128 (g.sval r 1)
  | 5, .uni r _ => BitVec.ofNat 128 (g.sval r 2)
  | 6, .ptr r => g.preg r
  | 7, .msk r => if bit (g.mreg r) lane then 1 else 0
  | 8, _ | 9, _ => imm.setWidth 128
  | 10, .lc r => (vecAt g.regs.lc r 0).setWidth 128
  | _, _ => 0

/-- The TRAP registers as the entry of trap `r` writes them (R73, R74, R421). -/
def trapRegs (e : DecEnv) (g : Group) (r : TrapReq) : TrapRegs :=
  match r.info with
  | some info =>
    { TrapRegs.zero with pc := r.pc, cause := BitVec.ofNat 32 (r.sub * 256 + r.cause), imm := info }
  | none =>
    let o := wordOpnds e r.word
    let imm := trapImm e r.word r.lit
    { pc := r.pc, cause := trapCause e r.word r.cause r.sub, opc := r.word,
      a := Vector.ofFn fun i => trapOperand g imm o.a i.val, b := Vector.ofFn fun i => trapOperand g imm o.b i.val,
      c := Vector.ofFn fun i => trapOperand g imm o.c i.val, dst := trapDst e r.word, imm }

/-- The address after the trapping instruction, where the plain TRET resumes (R75); TRAPPC for an interrupted one (R421). -/
def trapReturn (r : TrapReq) : DWord :=
  match r.info with
  | some _ => r.pc
  | none => r.pc + if wL r.word then 16 else 8

/-- The trap that group `g` waits to take: once what was outstanding has returned, its window empties, the TRAP registers are
written, and the trapping split starts at TRAPH (R72). -/
def execUserTrap (g : Nat) (s : State) : Host.Outcome State Fault Refusal :=
  let x := s.group g
  ok (match x.trapReq with
    | none => s
    | some r =>
      if x.ra.isSome || r.waits.any fun n => x.out.any fun p => p.n == n then s
      else
        let r := { r with entry := if (x.set r.entry).lanes == 0 then x.firstSet else r.entry }
        let x1 := { x with win := [] }
        let h : Handler :=
          { lanes := (x.set r.entry).lanes, ret := trapReturn r, interrupted := r.info.isSome,
            seqTeam := r.seqTeam }
        let x2 := { x1 with trap := trapRegs (s.decEnv g) x1 r, trapReq := none, handler := some h }
        s.setGroup g (x2.putSet r.entry
          { x2.set r.entry with pc := (s.team x.team).hdr.traph, stalled := false, served := 0, st := .ready, waits := [], fsnap := none }))

end Sys2Proof.Machine
end

