-- ==== Sys2Proof/Machine/Dispatch.lean ====
section
/-! DEFINITION. The dispatch: one arm for each constructor of Instr. -/

namespace Sys2Proof.Machine
open Sys2Proof

/-- The effect of an instruction or event on the state. -/
def exec (i : Instr) (s : State) : Host.Outcome State Fault Refusal :=
  match i with
  | .addIntVr f => Sys2Proof.Machine.execAddIntVr f s
  | .addIntUr f => Sys2Proof.Machine.execAddIntUr f s
  | .subIntVr f => Sys2Proof.Machine.execSubIntVr f s
  | .subIntUr f => Sys2Proof.Machine.execSubIntUr f s
  | .mulIntVr f => Sys2Proof.Machine.execMulIntVr f s
  | .mulIntUr f => Sys2Proof.Machine.execMulIntUr f s
  | .mulhiVr f => Sys2Proof.Machine.execMulhiVr f s
  | .mulhiUr f => Sys2Proof.Machine.execMulhiUr f s
  | .madVr f => Sys2Proof.Machine.execMadVr f s
  | .madUr f => Sys2Proof.Machine.execMadUr f s
  | .divIntVr f => Sys2Proof.Machine.execDivIntVr f s
  | .divIntUr f => Sys2Proof.Machine.execDivIntUr f s
  | .remVr f => Sys2Proof.Machine.execRemVr f s
  | .remUr f => Sys2Proof.Machine.execRemUr f s
  | .minIntVr f => Sys2Proof.Machine.execMinIntVr f s
  | .minIntUr f => Sys2Proof.Machine.execMinIntUr f s
  | .maxIntVr f => Sys2Proof.Machine.execMaxIntVr f s
  | .maxIntUr f => Sys2Proof.Machine.execMaxIntUr f s
  | .absIntVr f => Sys2Proof.Machine.execAbsIntVr f s
  | .absIntUr f => Sys2Proof.Machine.execAbsIntUr f s
  | .negIntVr f => Sys2Proof.Machine.execNegIntVr f s
  | .negIntUr f => Sys2Proof.Machine.execNegIntUr f s
  | .andVr f => Sys2Proof.Machine.execAndVr f s
  | .andUr f => Sys2Proof.Machine.execAndUr f s
  | .orVr f => Sys2Proof.Machine.execOrVr f s
  | .orUr f => Sys2Proof.Machine.execOrUr f s
  | .xorVr f => Sys2Proof.Machine.execXorVr f s
  | .xorUr f => Sys2Proof.Machine.execXorUr f s
  | .notVr f => Sys2Proof.Machine.execNotVr f s
  | .notUr f => Sys2Proof.Machine.execNotUr f s
  | .shlVr f => Sys2Proof.Machine.execShlVr f s
  | .shlUr f => Sys2Proof.Machine.execShlUr f s
  | .shrVr f => Sys2Proof.Machine.execShrVr f s
  | .shrUr f => Sys2Proof.Machine.execShrUr f s
  | .rotVr f => Sys2Proof.Machine.execRotVr f s
  | .rotUr f => Sys2Proof.Machine.execRotUr f s
  | .popcVr f => Sys2Proof.Machine.execPopcVr f s
  | .popcUr f => Sys2Proof.Machine.execPopcUr f s
  | .clzVr f => Sys2Proof.Machine.execClzVr f s
  | .clzUr f => Sys2Proof.Machine.execClzUr f s
  | .brevVr f => Sys2Proof.Machine.execBrevVr f s
  | .brevUr f => Sys2Proof.Machine.execBrevUr f s
  | .bfeVr f => Sys2Proof.Machine.execBfeVr f s
  | .bfeUr f => Sys2Proof.Machine.execBfeUr f s
  | .bfiVr f => Sys2Proof.Machine.execBfiVr f s
  | .bfiUr f => Sys2Proof.Machine.execBfiUr f s
  | .cmpIntVr f => Sys2Proof.Machine.execCmpIntVr f s
  | .cmpIntUr f => Sys2Proof.Machine.execCmpIntUr f s
  | .selVr f => Sys2Proof.Machine.execSelVr f s
  | .selUr f => Sys2Proof.Machine.execSelUr f s
  | .movVr f => Sys2Proof.Machine.execMovVr f s
  | .movUr f => Sys2Proof.Machine.execMovUr f s
  | .leaVr f => Sys2Proof.Machine.execLeaVr f s
  | .leaUr f => Sys2Proof.Machine.execLeaUr f s
  | .extVr f => Sys2Proof.Machine.execExtVr f s
  | .extUr f => Sys2Proof.Machine.execExtUr f s
  | .dp4Vr f => Sys2Proof.Machine.execDp4Vr f s
  | .dp4Ur f => Sys2Proof.Machine.execDp4Ur f s
  | .mset f => Sys2Proof.Machine.execMset f s
  | .mget f => Sys2Proof.Machine.execMget f s
  | .mlog f => Sys2Proof.Machine.execMlog f s
  | .xacq f => Sys2Proof.Machine.execXacq f s
  | .xrel f => Sys2Proof.Machine.execXrel f s
  | .donate f => Sys2Proof.Machine.execDonate f s
  | .bra f => Sys2Proof.Machine.execBra f s
  | .brt f => Sys2Proof.Machine.execBrt f s
  | .brf f => Sys2Proof.Machine.execBrf f s
  | .bany f => Sys2Proof.Machine.execBany f s
  | .ball f => Sys2Proof.Machine.execBall f s
  | .call f => Sys2Proof.Machine.execCall f s
  | .loop f => Sys2Proof.Machine.execLoop f s
  | .ldec f => Sys2Proof.Machine.execLdec f s
  | .lexit f => Sys2Proof.Machine.execLexit f s
  | .jmpr f => Sys2Proof.Machine.execJmpr f s
  | .callr f => Sys2Proof.Machine.execCallr f s
  | .ret f => Sys2Proof.Machine.execRet f s
  | .join f => Sys2Proof.Machine.execJoin f s
  | .exit f => Sys2Proof.Machine.execExit f s
  | .jmpv f => Sys2Proof.Machine.execJmpv f s
  | .mact f => Sys2Proof.Machine.execMact f s
  | .nop f => Sys2Proof.Machine.execNop f s
  | .yield f => Sys2Proof.Machine.execYield f s
  | .lcrd f => Sys2Proof.Machine.execLcrd f s
  | .lcwr f => Sys2Proof.Machine.execLcwr f s
  | .addFloat f => Sys2Proof.Machine.execAddFloat f s
  | .subFloat f => Sys2Proof.Machine.execSubFloat f s
  | .mulFloat f => Sys2Proof.Machine.execMulFloat f s
  | .fma f => Sys2Proof.Machine.execFma f s
  | .fms f => Sys2Proof.Machine.execFms f s
  | .fnma f => Sys2Proof.Machine.execFnma f s
  | .divFloat f => Sys2Proof.Machine.execDivFloat f s
  | .sqrt f => Sys2Proof.Machine.execSqrt f s
  | .minFloat f => Sys2Proof.Machine.execMinFloat f s
  | .maxFloat f => Sys2Proof.Machine.execMaxFloat f s
  | .absFloat f => Sys2Proof.Machine.execAbsFloat f s
  | .negFloat f => Sys2Proof.Machine.execNegFloat f s
  | .cpys f => Sys2Proof.Machine.execCpys f s
  | .cmpFloat f => Sys2Proof.Machine.execCmpFloat f s
  | .fcls f => Sys2Proof.Machine.execFcls f s
  | .pres f => Sys2Proof.Machine.execPres f s
  | .cvt f => Sys2Proof.Machine.execCvt f s
  | .rint f => Sys2Proof.Machine.execRint f s
  | .rcp f => Sys2Proof.Machine.execRcp f s
  | .rsqrt f => Sys2Proof.Machine.execRsqrt f s
  | .exp2 f => Sys2Proof.Machine.execExp2 f s
  | .log2 f => Sys2Proof.Machine.execLog2 f s
  | .sinpi f => Sys2Proof.Machine.execSinpi f s
  | .cospi f => Sys2Proof.Machine.execCospi f s
  | .tanh f => Sys2Proof.Machine.execTanh f s
  | .sigm f => Sys2Proof.Machine.execSigm f s
  | .rsum f => Sys2Proof.Machine.execRsum f s
  | .rmin f => Sys2Proof.Machine.execRmin f s
  | .rmax f => Sys2Proof.Machine.execRmax f s
  | .rcnt f => Sys2Proof.Machine.execRcnt f s
  | .shfl f => Sys2Proof.Machine.execShfl f s
  | .shup f => Sys2Proof.Machine.execShup f s
  | .shdn f => Sys2Proof.Machine.execShdn f s
  | .shxr f => Sys2Proof.Machine.execShxr f s
  | .shrt f => Sys2Proof.Machine.execShrt f s
  | .prm2 f => Sys2Proof.Machine.execPrm2 f s
  | .rfal f => Sys2Proof.Machine.execRfal f s
  | .rfau f => Sys2Proof.Machine.execRfau f s
  | .insl f => Sys2Proof.Machine.execInsl f s
  | .bprm f => Sys2Proof.Machine.execBprm f s
  | .zip2 f => Sys2Proof.Machine.execZip2 f s
  | .zip3 f => Sys2Proof.Machine.execZip3 f s
  | .zip4 f => Sys2Proof.Machine.execZip4 f s
  | .unz2 f => Sys2Proof.Machine.execUnz2 f s
  | .unz3 f => Sys2Proof.Machine.execUnz3 f s
  | .unz4 f => Sys2Proof.Machine.execUnz4 f s
  | .ld f => Sys2Proof.Machine.execLd f s
  | .st f => Sys2Proof.Machine.execSt f s
  | .ldu f => Sys2Proof.Machine.execLdu f s
  | .stu f => Sys2Proof.Machine.execStu f s
  | .pld f => Sys2Proof.Machine.execPld f s
  | .pst f => Sys2Proof.Machine.execPst f s
  | .pchk f => Sys2Proof.Machine.execPchk f s
  | .pref f => Sys2Proof.Machine.execPref f s
  | .pmake f => Sys2Proof.Machine.execPmake f s
  | .padd f => Sys2Proof.Machine.execPadd f s
  | .pmov f => Sys2Proof.Machine.execPmov f s
  | .pget f => Sys2Proof.Machine.execPget f s
  | .pwiden f => Sys2Proof.Machine.execPwiden f s
  | .pnarrow f => Sys2Proof.Machine.execPnarrow f s
  | .pwidens f => Sys2Proof.Machine.execPwidens f s
  | .pnarrows f => Sys2Proof.Machine.execPnarrows f s
  | .aadd f => Sys2Proof.Machine.execAadd f s
  | .amin f => Sys2Proof.Machine.execAmin f s
  | .amax f => Sys2Proof.Machine.execAmax f s
  | .aand f => Sys2Proof.Machine.execAand f s
  | .aor f => Sys2Proof.Machine.execAor f s
  | .axor f => Sys2Proof.Machine.execAxor f s
  | .axch f => Sys2Proof.Machine.execAxch f s
  | .acas f => Sys2Proof.Machine.execAcas f s
  | .binitTeam f => Sys2Proof.Machine.execBinitTeam f s
  | .binitObject f => Sys2Proof.Machine.execBinitObject f s
  | .barriveTeam f => Sys2Proof.Machine.execBarriveTeam f s
  | .barriveObject f => Sys2Proof.Machine.execBarriveObject f s
  | .barrivePaddock f => Sys2Proof.Machine.execBarrivePaddock f s
  | .bwaitTeam f => Sys2Proof.Machine.execBwaitTeam f s
  | .bwaitObject f => Sys2Proof.Machine.execBwaitObject f s
  | .bwaitPaddock f => Sys2Proof.Machine.execBwaitPaddock f s
  | .bsyncTeam f => Sys2Proof.Machine.execBsyncTeam f s
  | .bsyncPaddock f => Sys2Proof.Machine.execBsyncPaddock f s
  | .bbytes f => Sys2Proof.Machine.execBbytes f s
  | .btest f => Sys2Proof.Machine.execBtest f s
  | .bdropTeam f => Sys2Proof.Machine.execBdropTeam f s
  | .bdropObject f => Sys2Proof.Machine.execBdropObject f s
  | .cpy f => Sys2Proof.Machine.execCpy f s
  | .cpy2d f => Sys2Proof.Machine.execCpy2d f s
  | .cfill f => Sys2Proof.Machine.execCfill f s
  | .cgth f => Sys2Proof.Machine.execCgth f s
  | .ncopy f => Sys2Proof.Machine.execNcopy f s
  | .cbatch f => Sys2Proof.Machine.execCbatch f s
  | .cwait f => Sys2Proof.Machine.execCwait f s
  | .cstat f => Sys2Proof.Machine.execCstat f s
  | .accld f => Sys2Proof.Machine.execAccld f s
  | .accst f => Sys2Proof.Machine.execAccst f s
  | .accrd f => Sys2Proof.Machine.execAccrd f s
  | .accwr f => Sys2Proof.Machine.execAccwr f s
  | .fset f => Sys2Proof.Machine.execFset f s
  | .fget f => Sys2Proof.Machine.execFget f s
  | .xset f => Sys2Proof.Machine.execXset f s
  | .xget f => Sys2Proof.Machine.execXget f s
  | .xid f => Sys2Proof.Machine.execXid f s
  | .xinv f => Sys2Proof.Machine.execXinv f s
  | .xprm f => Sys2Proof.Machine.execXprm f s
  | .scalc f => Sys2Proof.Machine.execScalc f s
  | .scval f => Sys2Proof.Machine.execScval f s
  | .scmul f => Sys2Proof.Machine.execScmul f s
  | .qnt f => Sys2Proof.Machine.execQnt f s
  | .dqnt f => Sys2Proof.Machine.execDqnt f s
  | .ndot f => Sys2Proof.Machine.execNdot f s
  | .namax f => Sys2Proof.Machine.execNamax f s
  | .cbr f => Sys2Proof.Machine.execCbr f s
  | .fjoin f => Sys2Proof.Machine.execFjoin f s
  | .fleave f => Sys2Proof.Machine.execFleave f s
  | .fvote f => Sys2Proof.Machine.execFvote f s
  | .fcnt f => Sys2Proof.Machine.execFcnt f s
  | .fpend f => Sys2Proof.Machine.execFpend f s
  | .tset f => Sys2Proof.Machine.execTset f s
  | .tget f => Sys2Proof.Machine.execTget f s
  | .collAr f => Sys2Proof.Machine.execCollAr f s
  | .collRs f => Sys2Proof.Machine.execCollRs f s
  | .collAg f => Sys2Proof.Machine.execCollAg f s
  | .collBc f => Sys2Proof.Machine.execCollBc f s
  | .collRd f => Sys2Proof.Machine.execCollRd f s
  | .collBar f => Sys2Proof.Machine.execCollBar f s
  | .halo f => Sys2Proof.Machine.execHalo f s
  | .putr f => Sys2Proof.Machine.execPutr f s
  | .getr f => Sys2Proof.Machine.execGetr f s
  | .clstat f => Sys2Proof.Machine.execClstat f s
  | .launch f => Sys2Proof.Machine.execLaunch f s
  | .depdec f => Sys2Proof.Machine.execDepdec f s
  | .spawn f => Sys2Proof.Machine.execSpawn f s
  | .sflush f => Sys2Proof.Machine.execSflush f s
  | .prioget f => Sys2Proof.Machine.execPrioget f s
  | .prioset f => Sys2Proof.Machine.execPrioset f s
  | .qyield f => Sys2Proof.Machine.execQyield f s
  | .preq f => Sys2Proof.Machine.execPreq f s
  | .grdget f => Sys2Proof.Machine.execGrdget f s
  | .tret f => Sys2Proof.Machine.execTret f s
  | .tretR f => Sys2Proof.Machine.execTretR f s
  | .tretRp f => Sys2Proof.Machine.execTretRp f s
  | .scall f => Sys2Proof.Machine.execScall f s
  | .srd f => Sys2Proof.Machine.execSrd f s
  | .swr f => Sys2Proof.Machine.execSwr f s
  | .fwait f => Sys2Proof.Machine.execFwait f s
  | .frsm f => Sys2Proof.Machine.execFrsm f s
  | .fkill f => Sys2Proof.Machine.execFkill f s
  | .tdisp f => Sys2Proof.Machine.execTdisp f s
  | .fvots f => Sys2Proof.Machine.execFvots f s
  | .tlbinv f => Sys2Proof.Machine.execTlbinv f s
  | .xprobe f => Sys2Proof.Machine.execXprobe f s
  | .dirrd f => Sys2Proof.Machine.execDirrd f s
  | .monrd f => Sys2Proof.Machine.execMonrd f s
  | .stest f => Sys2Proof.Machine.execStest f s
  | .recctlStatus f => Sys2Proof.Machine.execRecctlStatus f s
  | .recctlMarker f => Sys2Proof.Machine.execRecctlMarker f s
  | .recctlStop f => Sys2Proof.Machine.execRecctlStop f s
  | .elog f => Sys2Proof.Machine.execElog f s
  | .tstop f => Sys2Proof.Machine.execTstop f s
  | .tgo f => Sys2Proof.Machine.execTgo f s
  | .mma f => Sys2Proof.Machine.execMma f s
  | .mms f => Sys2Proof.Machine.execMms f s
  | .mmat f => Sys2Proof.Machine.execMmat f s
  | .mdrn f => Sys2Proof.Machine.execMdrn f s
  | .mdrz f => Sys2Proof.Machine.execMdrz f s
  | .mldc f => Sys2Proof.Machine.execMldc f s
  | .mzero f => Sys2Proof.Machine.execMzero f s
  | .mjmp f => Sys2Proof.Machine.execMjmp f s
  | .mbnz f => Sys2Proof.Machine.execMbnz f s
  | .mdjnz f => Sys2Proof.Machine.execMdjnz f s
  | .mblt f => Sys2Proof.Machine.execMblt f s
  | .mqset f => Sys2Proof.Machine.execMqset f s
  | .mqadd f => Sys2Proof.Machine.execMqadd f s
  | .mqsub f => Sys2Proof.Machine.execMqsub f s
  | .mqmul f => Sys2Proof.Machine.execMqmul f s
  | .mqshl f => Sys2Proof.Machine.execMqshl f s
  | .mqand f => Sys2Proof.Machine.execMqand f s
  | .mqld f => Sys2Proof.Machine.execMqld f s
  | .msync f => Sys2Proof.Machine.execMsync f s
  | .mend f => Sys2Proof.Machine.execMend f s
  | .extendedBlockGrant t => Sys2Proof.Machine.execExtendedBlockGrant t s
  | .deferRecordLoad g => Sys2Proof.Machine.execDeferRecordLoad g s
  | .freshGroupForm cands => Sys2Proof.Machine.execFreshGroupForm cands s
  | .compactionTimeout g e => Sys2Proof.Machine.execCompactionTimeout g e s
  | .ageCap g e => Sys2Proof.Machine.execAgeCap g e s
  | .resultReturn g n => Sys2Proof.Machine.execResultReturn g n s
  | .userTrap g => Sys2Proof.Machine.execUserTrap g s
  | .retypeComplete g => Sys2Proof.Machine.execRetypeComplete g s
  | .l1Fill clus line req => Sys2Proof.Machine.execL1Fill clus line req s
  | .invalidation clus msg => Sys2Proof.Machine.execInvalidation clus msg s
  | .recall clus msg => Sys2Proof.Machine.execRecall clus msg s
  | .udWriteBack msg data mask rel => Sys2Proof.Machine.execUdWriteBack msg data mask rel s
  | .lineEviction clus line => Sys2Proof.Machine.execLineEviction clus line s
  | .coherenceResend n => Sys2Proof.Machine.execCoherenceResend n s
  | .linePoison line => Sys2Proof.Machine.execLinePoison line s
  | .backInvalidationSnoop line half => Sys2Proof.Machine.execBackInvalidationSnoop line half s
  | .regionEntryWrite idx val mask => Sys2Proof.Machine.execRegionEntryWrite idx val mask s
  | .regionTableSwitch => Sys2Proof.Machine.execRegionTableSwitch s
  | .granuleLend core gran => Sys2Proof.Machine.execGranuleLend core gran s
  | .granuleReclaim core count => Sys2Proof.Machine.execGranuleReclaim core count s
  | .atomicPacket src seq op ty rnd pa v w rel => Sys2Proof.Machine.execAtomicPacket src seq op ty rnd pa v w rel s
  | .paddockCrossDiePhase pd b => Sys2Proof.Machine.execPaddockCrossDiePhase pd b s
  | .copyComplete id => Sys2Proof.Machine.execCopyComplete id s
  | .voteResult g slot => Sys2Proof.Machine.execVoteResult g slot s
  | .foldJoinMessage id key size => Sys2Proof.Machine.execFoldJoinMessage id key size s
  | .foldFormed g slot => Sys2Proof.Machine.execFoldFormed g slot s
  | .foldLeave id key => Sys2Proof.Machine.execFoldLeave id key s
  | .foldContribution id vote key p mode => Sys2Proof.Machine.execFoldContribution id vote key p mode s
  | .foldlost id keys => Sys2Proof.Machine.execFoldlost id keys s
  | .collectiveStart t => Sys2Proof.Machine.execCollectiveStart t s
  | .chunkReceive fold num chunk src pos final elems counts fls => Sys2Proof.Machine.execChunkReceive fold num chunk src pos final elems counts fls s
  | .treeContribution fold num pos word root count dcount elems => Sys2Proof.Machine.execTreeContribution fold num pos word root count dcount elems s
  | .collectiveComplete fold num pos => Sys2Proof.Machine.execCollectiveComplete fold num pos s
  | .rickFetch => Sys2Proof.Machine.execRickFetch s
  | .chunkResend msg => Sys2Proof.Machine.execChunkResend msg s
  | .haloReceive fold src dst tag num elems => Sys2Proof.Machine.execHaloReceive fold src dst tag num elems s
  | .remotePacket src cmd num pa body => Sys2Proof.Machine.execRemotePacket src cmd num pa body s
  | .repeatWindowExpire src cmd => Sys2Proof.Machine.execRepeatWindowExpire src cmd s
  | .remotePathLost id => Sys2Proof.Machine.execRemotePathLost id s
  | .flitReceive port f => Sys2Proof.Machine.execFlitReceive port f s
  | .nakReceive port ack => Sys2Proof.Machine.execNakReceive port ack s
  | .ackTimer port => Sys2Proof.Machine.execAckTimer port s
  | .nakRepeat port => Sys2Proof.Machine.execNakRepeat port s
  | .replayTimeout port => Sys2Proof.Machine.execReplayTimeout port s
  | .laneLossOfLock port lanes => Sys2Proof.Machine.execLaneLossOfLock port lanes s
  | .ctrlRetrain port lanes ack => Sys2Proof.Machine.execCtrlRetrain port lanes ack s
  | .retrainLockComplete port lanesFound => Sys2Proof.Machine.execRetrainLockComplete port lanesFound s
  | .ctrlReady port ack => Sys2Proof.Machine.execCtrlReady port ack s
  | .ctrlDown port => Sys2Proof.Machine.execCtrlDown port s
  | .portctlRetrain port => Sys2Proof.Machine.execPortctlRetrain port s
  | .spawnBinTimer b => Sys2Proof.Machine.execSpawnBinTimer b s
  | .spawnBinLaunch b => Sys2Proof.Machine.execSpawnBinLaunch b s
  | .schedulerPlace => Sys2Proof.Machine.execSchedulerPlace s
  | .quantumExpire t => Sys2Proof.Machine.execQuantumExpire t s
  | .preemptSave t => Sys2Proof.Machine.execPreemptSave t s
  | .teamRestore u => Sys2Proof.Machine.execTeamRestore u s
  | .taskRetire gr => Sys2Proof.Machine.execTaskRetire gr s
  | .tlbinvComplete g e => Sys2Proof.Machine.execTlbinvComplete g e s
  | .faultRecordPost => Sys2Proof.Machine.execFaultRecordPost s
  | .machineCheck unit corrected syndrome => Sys2Proof.Machine.execMachineCheck unit corrected syndrome s
  | .selfTestComplete unit pass => Sys2Proof.Machine.execSelfTestComplete unit pass s
  | .recordCheckpoint => Sys2Proof.Machine.execRecordCheckpoint s
  | .replayInject head payload => Sys2Proof.Machine.execReplayInject head payload s
  | .sensorRefresh vals => Sys2Proof.Machine.execSensorRefresh vals s
  | .clockStepSelect stp pnow tmax => Sys2Proof.Machine.execClockStepSelect stp pnow tmax s
  | .hedgePowerTrip => Sys2Proof.Machine.execHedgePowerTrip s
  | .thermalTrip => Sys2Proof.Machine.execThermalTrip s
  | .rd c => Sys2Proof.Machine.execRd c s
  | .wr c => Sys2Proof.Machine.execWr c s
  | .submit c => Sys2Proof.Machine.execSubmit c s
  | .ctxend c => Sys2Proof.Machine.execCtxend c s
  | .attest c => Sys2Proof.Machine.execAttest c s
  | .fwload c => Sys2Proof.Machine.execFwload c s
  | .done c => Sys2Proof.Machine.execDone c s
  | .standby c => Sys2Proof.Machine.execStandby c s
  | .hostBadCommand c => Sys2Proof.Machine.execHostBadCommand c s
  | .registerWrite dest bytes => Sys2Proof.Machine.execRegisterWrite dest bytes s
  | .pkgWrite n => Sys2Proof.Machine.execPkgWrite n s
  | .bootctlGo val => Sys2Proof.Machine.execBootctlGo val s
  | .powerCapWrite w => Sys2Proof.Machine.execPowerCapWrite w s
  | .foldTableWrite id val mask => Sys2Proof.Machine.execFoldTableWrite id val mask s
  | .contextDescriptorWrite idx off bytes => Sys2Proof.Machine.execContextDescriptorWrite idx off bytes s
  | .powerGood fwOk svn => Sys2Proof.Machine.execPowerGood fwOk svn s
  | .trainingComplete ddrGib => Sys2Proof.Machine.execTrainingComplete ddrGib s
  | .zeroingComplete => Sys2Proof.Machine.execZeroingComplete s
  | .corePowerRemoved => Sys2Proof.Machine.execCorePowerRemoved s
  | .homeRequest pkg clus line req => Sys2Proof.Machine.execHomeRequest pkg clus line req s
  | .joinRefused g slot sub => Sys2Proof.Machine.execJoinRefused g slot sub s
  | .retrainResend port => Sys2Proof.Machine.execRetrainResend port s
  | .dimmSupplyLoss => Sys2Proof.Machine.execDimmSupplyLoss s
  | .effectivePriorityRaise u => Sys2Proof.Machine.execEffectivePriorityRaise u s

end Sys2Proof.Machine
end

