-- ==== Sys2Proof/Machine/ExecCode.lean ====
section
/-! DEFINITION. The effect of a decoded word, through the same meanings as the dispatch: what the step runs, so that it
need not build the instruction first (see Laws/Step.lean for their agreement). -/

namespace Sys2Proof.Machine
open Sys2Proof

/-- Words of the format of VF. -/
def vExec (op : Op) (f : VF) (s : State) : Host.Outcome State Fault Refusal :=
  match op with
  | .addIntVr => exec (.addIntVr f) s
  | .addIntUr => exec (.addIntUr f) s
  | .subIntVr => exec (.subIntVr f) s
  | .subIntUr => exec (.subIntUr f) s
  | .mulIntVr => exec (.mulIntVr f) s
  | .mulIntUr => exec (.mulIntUr f) s
  | .mulhiVr => exec (.mulhiVr f) s
  | .mulhiUr => exec (.mulhiUr f) s
  | .madVr => exec (.madVr f) s
  | .madUr => exec (.madUr f) s
  | .divIntVr => exec (.divIntVr f) s
  | .divIntUr => exec (.divIntUr f) s
  | .remVr => exec (.remVr f) s
  | .remUr => exec (.remUr f) s
  | .minIntVr => exec (.minIntVr f) s
  | .minIntUr => exec (.minIntUr f) s
  | .maxIntVr => exec (.maxIntVr f) s
  | .maxIntUr => exec (.maxIntUr f) s
  | .absIntVr => exec (.absIntVr f) s
  | .absIntUr => exec (.absIntUr f) s
  | .negIntVr => exec (.negIntVr f) s
  | .negIntUr => exec (.negIntUr f) s
  | .andVr => exec (.andVr f) s
  | .andUr => exec (.andUr f) s
  | .orVr => exec (.orVr f) s
  | .orUr => exec (.orUr f) s
  | .xorVr => exec (.xorVr f) s
  | .xorUr => exec (.xorUr f) s
  | .notVr => exec (.notVr f) s
  | .notUr => exec (.notUr f) s
  | .shlVr => exec (.shlVr f) s
  | .shlUr => exec (.shlUr f) s
  | .shrVr => exec (.shrVr f) s
  | .shrUr => exec (.shrUr f) s
  | .rotVr => exec (.rotVr f) s
  | .rotUr => exec (.rotUr f) s
  | .popcVr => exec (.popcVr f) s
  | .popcUr => exec (.popcUr f) s
  | .clzVr => exec (.clzVr f) s
  | .clzUr => exec (.clzUr f) s
  | .brevVr => exec (.brevVr f) s
  | .brevUr => exec (.brevUr f) s
  | .bfeVr => exec (.bfeVr f) s
  | .bfeUr => exec (.bfeUr f) s
  | .bfiVr => exec (.bfiVr f) s
  | .bfiUr => exec (.bfiUr f) s
  | .cmpIntVr => exec (.cmpIntVr f) s
  | .cmpIntUr => exec (.cmpIntUr f) s
  | .selVr => exec (.selVr f) s
  | .selUr => exec (.selUr f) s
  | .movVr => exec (.movVr f) s
  | .movUr => exec (.movUr f) s
  | .leaVr => exec (.leaVr f) s
  | .leaUr => exec (.leaUr f) s
  | .extVr => exec (.extVr f) s
  | .extUr => exec (.extUr f) s
  | .dp4Vr => exec (.dp4Vr f) s
  | .dp4Ur => exec (.dp4Ur f) s
  | .mset => exec (.mset f) s
  | .mget => exec (.mget f) s
  | .mlog => exec (.mlog f) s
  | .addFloat => exec (.addFloat f) s
  | .subFloat => exec (.subFloat f) s
  | .mulFloat => exec (.mulFloat f) s
  | .fma => exec (.fma f) s
  | .fms => exec (.fms f) s
  | .fnma => exec (.fnma f) s
  | .divFloat => exec (.divFloat f) s
  | .sqrt => exec (.sqrt f) s
  | .minFloat => exec (.minFloat f) s
  | .maxFloat => exec (.maxFloat f) s
  | .absFloat => exec (.absFloat f) s
  | .negFloat => exec (.negFloat f) s
  | .cpys => exec (.cpys f) s
  | .cmpFloat => exec (.cmpFloat f) s
  | .fcls => exec (.fcls f) s
  | .pres => exec (.pres f) s
  | .cvt => exec (.cvt f) s
  | .rint => exec (.rint f) s
  | .rcp => exec (.rcp f) s
  | .rsqrt => exec (.rsqrt f) s
  | .exp2 => exec (.exp2 f) s
  | .log2 => exec (.log2 f) s
  | .sinpi => exec (.sinpi f) s
  | .cospi => exec (.cospi f) s
  | .tanh => exec (.tanh f) s
  | .sigm => exec (.sigm f) s
  | .rsum => exec (.rsum f) s
  | .rmin => exec (.rmin f) s
  | .rmax => exec (.rmax f) s
  | .rcnt => exec (.rcnt f) s
  | .shfl => exec (.shfl f) s
  | .shup => exec (.shup f) s
  | .shdn => exec (.shdn f) s
  | .shxr => exec (.shxr f) s
  | .shrt => exec (.shrt f) s
  | .prm2 => exec (.prm2 f) s
  | .rfal => exec (.rfal f) s
  | .rfau => exec (.rfau f) s
  | .insl => exec (.insl f) s
  | .bprm => exec (.bprm f) s
  | .zip2 => exec (.zip2 f) s
  | .zip3 => exec (.zip3 f) s
  | .zip4 => exec (.zip4 f) s
  | .unz2 => exec (.unz2 f) s
  | .unz3 => exec (.unz3 f) s
  | .unz4 => exec (.unz4 f) s
  | .pmake => exec (.pmake f) s
  | .padd => exec (.padd f) s
  | .pmov => exec (.pmov f) s
  | .pget => exec (.pget f) s
  | .fset => exec (.fset f) s
  | .fget => exec (.fget f) s
  | .xset => exec (.xset f) s
  | .xget => exec (.xget f) s
  | .xid => exec (.xid f) s
  | .xinv => exec (.xinv f) s
  | .xprm => exec (.xprm f) s
  | .scalc => exec (.scalc f) s
  | .scval => exec (.scval f) s
  | .scmul => exec (.scmul f) s
  | .qnt => exec (.qnt f) s
  | .dqnt => exec (.dqnt f) s
  | .ndot => exec (.ndot f) s
  | .namax => exec (.namax f) s
  | _ => ok s

/-- Words of the format of SPF. -/
def spExec (op : Op) (f : SPF) (s : State) : Host.Outcome State Fault Refusal :=
  match op with
  | .xacq => exec (.xacq f) s
  | .xrel => exec (.xrel f) s
  | .donate => exec (.donate f) s
  | .jmpr => exec (.jmpr f) s
  | .callr => exec (.callr f) s
  | .ret => exec (.ret f) s
  | .join => exec (.join f) s
  | .exit => exec (.exit f) s
  | .jmpv => exec (.jmpv f) s
  | .mact => exec (.mact f) s
  | .nop => exec (.nop f) s
  | .yield => exec (.yield f) s
  | .lcrd => exec (.lcrd f) s
  | .lcwr => exec (.lcwr f) s
  | .fjoin => exec (.fjoin f) s
  | .fleave => exec (.fleave f) s
  | .fvote => exec (.fvote f) s
  | .fcnt => exec (.fcnt f) s
  | .fpend => exec (.fpend f) s
  | .prioget => exec (.prioget f) s
  | .prioset => exec (.prioset f) s
  | .qyield => exec (.qyield f) s
  | .preq => exec (.preq f) s
  | .grdget => exec (.grdget f) s
  | .tret => exec (.tret f) s
  | .tretR => exec (.tretR f) s
  | .tretRp => exec (.tretRp f) s
  | .scall => exec (.scall f) s
  | .srd => exec (.srd f) s
  | .swr => exec (.swr f) s
  | .fwait => exec (.fwait f) s
  | .frsm => exec (.frsm f) s
  | .fkill => exec (.fkill f) s
  | .tdisp => exec (.tdisp f) s
  | .fvots => exec (.fvots f) s
  | .tlbinv => exec (.tlbinv f) s
  | .xprobe => exec (.xprobe f) s
  | .dirrd => exec (.dirrd f) s
  | .monrd => exec (.monrd f) s
  | .stest => exec (.stest f) s
  | .recctlStatus => exec (.recctlStatus f) s
  | .recctlMarker => exec (.recctlMarker f) s
  | .recctlStop => exec (.recctlStop f) s
  | .elog => exec (.elog f) s
  | .tstop => exec (.tstop f) s
  | .tgo => exec (.tgo f) s
  | _ => ok s

/-- Words of the format of BRF. -/
def brExec (op : Op) (f : BRF) (s : State) : Host.Outcome State Fault Refusal :=
  match op with
  | .bra => exec (.bra f) s
  | .brt => exec (.brt f) s
  | .brf => exec (.brf f) s
  | .bany => exec (.bany f) s
  | .ball => exec (.ball f) s
  | .call => exec (.call f) s
  | .loop => exec (.loop f) s
  | .ldec => exec (.ldec f) s
  | .lexit => exec (.lexit f) s
  | .cbr => exec (.cbr f) s
  | _ => ok s

/-- Words of the format of MAF. -/
def maExec (op : Op) (f : MAF) (s : State) : Host.Outcome State Fault Refusal :=
  match op with
  | .ld => exec (.ld f) s
  | .st => exec (.st f) s
  | .ldu => exec (.ldu f) s
  | .stu => exec (.stu f) s
  | .pld => exec (.pld f) s
  | .pst => exec (.pst f) s
  | .pchk => exec (.pchk f) s
  | .pref => exec (.pref f) s
  | .aadd => exec (.aadd f) s
  | .amin => exec (.amin f) s
  | .amax => exec (.amax f) s
  | .aand => exec (.aand f) s
  | .aor => exec (.aor f) s
  | .axor => exec (.axor f) s
  | .axch => exec (.axch f) s
  | .acas => exec (.acas f) s
  | .cgth => exec (.cgth f) s
  | _ => ok s

/-- Words of the format of RTF. -/
def rtExec (op : Op) (f : RTF) (s : State) : Host.Outcome State Fault Refusal :=
  match op with
  | .pwiden => exec (.pwiden f) s
  | .pnarrow => exec (.pnarrow f) s
  | .pwidens => exec (.pwidens f) s
  | .pnarrows => exec (.pnarrows f) s
  | _ => ok s

/-- Words of the format of BAF. -/
def baExec (op : Op) (f : BAF) (s : State) : Host.Outcome State Fault Refusal :=
  match op with
  | .binitTeam => exec (.binitTeam f) s
  | .binitObject => exec (.binitObject f) s
  | .barriveTeam => exec (.barriveTeam f) s
  | .barriveObject => exec (.barriveObject f) s
  | .barrivePaddock => exec (.barrivePaddock f) s
  | .bwaitTeam => exec (.bwaitTeam f) s
  | .bwaitObject => exec (.bwaitObject f) s
  | .bwaitPaddock => exec (.bwaitPaddock f) s
  | .bsyncTeam => exec (.bsyncTeam f) s
  | .bsyncPaddock => exec (.bsyncPaddock f) s
  | .bbytes => exec (.bbytes f) s
  | .btest => exec (.btest f) s
  | .bdropTeam => exec (.bdropTeam f) s
  | .bdropObject => exec (.bdropObject f) s
  | _ => ok s

/-- Words of the format of ENF. -/
def enExec (op : Op) (f : ENF) (s : State) : Host.Outcome State Fault Refusal :=
  match op with
  | .cpy => exec (.cpy f) s
  | .cpy2d => exec (.cpy2d f) s
  | .cfill => exec (.cfill f) s
  | .ncopy => exec (.ncopy f) s
  | .cbatch => exec (.cbatch f) s
  | .cwait => exec (.cwait f) s
  | .cstat => exec (.cstat f) s
  | .accld => exec (.accld f) s
  | .accst => exec (.accst f) s
  | .accrd => exec (.accrd f) s
  | .accwr => exec (.accwr f) s
  | .tset => exec (.tset f) s
  | .tget => exec (.tget f) s
  | .collAr => exec (.collAr f) s
  | .collRs => exec (.collRs f) s
  | .collAg => exec (.collAg f) s
  | .collBc => exec (.collBc f) s
  | .collRd => exec (.collRd f) s
  | .collBar => exec (.collBar f) s
  | .halo => exec (.halo f) s
  | .putr => exec (.putr f) s
  | .getr => exec (.getr f) s
  | .clstat => exec (.clstat f) s
  | .launch => exec (.launch f) s
  | .depdec => exec (.depdec f) s
  | .spawn => exec (.spawn f) s
  | .sflush => exec (.sflush f) s
  | _ => ok s

/-- Words of the format of MXF. -/
def mxExec (op : Op) (f : MXF) (s : State) : Host.Outcome State Fault Refusal :=
  match op with
  | .mma => execMma f s
  | .mms => execMms f s
  | .mmat => execMmat f s
  | _ => ok s

/-- Words of the format of MDF. -/
def mdExec (op : Op) (f : MDF) (s : State) : Host.Outcome State Fault Refusal :=
  match op with
  | .mdrn => execMdrn f s
  | .mdrz => execMdrz f s
  | .mldc => execMldc f s
  | .mzero => execMzero f s
  | _ => ok s

/-- Words of the format of MCF. -/
def mcExec (op : Op) (f : MCF) (s : State) : Host.Outcome State Fault Refusal :=
  match op with
  | .mjmp => execMjmp f s
  | .mbnz => execMbnz f s
  | .mdjnz => execMdjnz f s
  | .mblt => execMblt f s
  | _ => ok s

/-- Words of the format of MQF. -/
def mqExec (op : Op) (f : MQF) (s : State) : Host.Outcome State Fault Refusal :=
  match op with
  | .mqset => execMqset f s
  | .mqadd => execMqadd f s
  | .mqsub => execMqsub f s
  | .mqmul => execMqmul f s
  | .mqshl => execMqshl f s
  | .mqand => execMqand f s
  | .mqld => execMqld f s
  | _ => ok s

/-- Words of the format of MSF. -/
def msExec (op : Op) (f : MSF) (s : State) : Host.Outcome State Fault Refusal :=
  match op with
  | .msync => execMsync f s
  | .mend => execMend f s
  | _ => ok s

/-- A decoded word run. -/
def execCode (c : Code) (s : State) : Host.Outcome State Fault Refusal :=
  match c with
  | .v op f => vExec op f s
  | .ma op f => maExec op f s
  | .rt op f => rtExec op f s
  | .br op f => brExec op f s
  | .sp op f => spExec op f s
  | .en op f => enExec op f s
  | .ba op f => baExec op f s
  | .mx op f => mxExec op f s
  | .md op f => mdExec op f s
  | .mc op f => mcExec op f s
  | .mq op f => mqExec op f s
  | .ms op f => msExec op f s

end Sys2Proof.Machine
end

