-- ==== Sys2Proof/Machine/Issue.lean ====
section
/-! DEFINITION. The issue of a group word and of a matrix word: fetch, decode, and the checks of R56 that no decoder can make (R33,
R113, R141, R162, R165, R301-R308). -/

namespace Sys2Proof.Machine
open Sys2Proof

/-- Whether split `e` of group `g` may issue (R165): READY, its Y wait over, not stalled, nothing of its group, team or
context holding it. -/
def State.canIssue (s : State) (g e : Nat) : Bool :=
  let x := s.group g
  let t := s.team x.team
  let l := x.set e
  l.st == .ready && l.lanes != 0 && !l.stalled && l.cand.isNone &&
  !(l.waits.any fun n => x.out.any fun p => p.n == n) &&
  !x.ended && !x.held && !x.xwait && x.trapReq.isNone &&
  (x.handler.isNone || x.handles l) &&
  (t.st == .resident || (t.resident && x.inRoutine && l.pc != routineRet)) && !t.tstop && !t.mchk && !s.stopsAt g l &&
  (match x.ra with | some r => r.issued < 512 && !r.halted | none => true)

/-- Step 12 of R56. -/
def regRange (o : Opnds) (g : Group) : Bool :=
  rangeBad g o.d || rangeBad g o.a || rangeBad g o.b || rangeBad g o.c

/-- Two groups of registers that meet without being the same (R56, step 13). -/
def overlapBad (d x : Opnd) : Bool :=
  let meet (r n r' n' : Nat) : Bool := r < r' + n' && r' < r + n && (r, n) != (r', n')
  match d, x with
  | .vec r n _ _, .vec r' n' _ _ => meet r n r' n'
  | .uni r n, .uni r' n' => meet r n r' n'
  | _, _ => false

/-- Step 13 of R56: a destination meets a source. -/
def overlaps (o : Opnds) : Bool :=
  !o.dRead && (overlapBad o.d o.a || overlapBad o.d o.b || overlapBad o.d o.c)

/-- The words of the instruction at `pc` for group `g`: the word and the literal, or the fault of the fetch with its
address (R33). -/
def State.fetch (s : State) (g : Nat) (pc : DWord) : Except (XFault × DWord) (DWord × DWord) :=
  match s.codeWord g pc.toNat with
  | .error x => .error (x, pc)
  | .ok w =>
    if wL w then
      match s.codeWord g (pc + 8).toNat with
      | .error x => .error (x, pc + 8)
      | .ok l => .ok (w, l)
    else .ok (w, 0)

/-- The words of a loop's body, a literal of the end instruction with it, as group `g` finds them (R159). -/
def State.bodyWords (s : State) (g : Nat) (r : LoopRec) : Nat :=
  (r.stop.toNat - r.start.toNat) / 8 + 1 + (match s.codeWord g r.stop.toNat with | .ok w => if wL w then 1 else 0 | .error _ => 0)

/-- The words that the loop buffer of a quarter holds. -/
def State.captured (s : State) (q : Nat) : Nat := (s.mem.lbuf.filter fun e => e.1 == q).length

/-- A code word that neither a loop buffer nor the cluster's slice has is read at home (R441, R455). -/
def State.codeRead (s : State) (clus pa : Nat) (buffered : Bool) : State :=
  if buffered || (s.mem.line? clus (pa / 128)).isSome then s else { s with mem := s.mem.homeRead [pa / 128] }

/-- What a fetch leaves behind: the translation used (R432), and the word in the loop buffer, while it has room, when a loop of at
most 256 words holds it (R15, R159). -/
def State.fetched (s : State) (g : Nat) (va : Nat) (w : DWord) : State :=
  let x := s.group g
  let t := s.team x.team
  let q := s.quarterKey g
  let s1 := match s.lookup t.core t.ctx t.user .fetch va with
    | .ok l => (s.useLeaf t.core t.ctx .fetch l).codeRead (clusterOf t.core) (l.pa va) (s.bufferWord g va).isSome
    | .error _ => s
  let loops := x.loops.any fun r => s.mem.covers q t.ctx r va && s.bodyWords g r ≤ 256
  if (s.bufferWord g va).isNone && loops && s.captured q < 256 then
    { s1 with mem := { s1.mem with lbuf := s1.mem.lbuf ++ [(q, t.ctx, va, w)] } }
  else s1

/-- The classes that an incomplete retyping holds back (R227). -/
def heldByRetype (cls : BitVec 4) : Bool := cls == 4 || cls == 5 || cls == 6 || cls == 7 || cls == 10

/-- The registers that an instruction, which made `y` of `x`, wrote: the banks, or by a result on its way; by kind and number (R346). -/
def wroteRegs (x y : Group) : List (Nat × Nat) :=
  let banks (k n : Nat) (p : Nat → Bool) : List (Nat × Nat) := ((List.range n).filter p).map fun r => (k, r)
  let sent := (y.out.filter fun p => x.issueNo ≤ p.n && !p.t).flatMap fun p => p.ws.map fun w => match w with
    | .v r .. => (0, r)
    | .s r .. => (1, r)
    | .p r _ => (2, r)
    | .m r .. => (3, r)
  (banks 0 128 (fun r => vecAt x.regs.vNo r 0 != vecAt y.regs.vNo r 0) ++ banks 1 64 (fun r => vecAt x.regs.sNo r 0 != vecAt y.regs.sNo r 0) ++
    banks 2 16 (fun r => vecAt x.regs.pNo r 0 != vecAt y.regs.pNo r 0) ++ banks 3 8 (fun r => vecAt x.regs.mNo r 0 != vecAt y.regs.mNo r 0) ++
    banks 4 3 (fun r => vecAt x.regs.lc r 0 != vecAt y.regs.lc r 0) ++ banks 5 8 (fun r => vecAt x.regs.f r 0 != vecAt y.regs.f r 0) ++ sent).dedup

/-- An instruction in run-ahead that made `t` of `s` has its undo records, or stalls where the log of its core has no room for them yet
(R346). -/
def State.logged (s t : State) : State :=
  match s.cg.ra, (t.group s.cur.g).ra with
  | some r, some _ =>
    let new := (wroteRegs s.cg (t.group s.cur.g)).filter fun e => !r.logged.contains e
    if !new.isEmpty && !s.logGrants ((new.map fun e => recordSize e.1).foldl (· + ·) 0) then s.askLog s.cset.served
    else t.modGroup s.cur.g fun x => { x with ra := x.ra.map fun a => { a with logged := a.logged ++ new } }
  | _, _ => t

/-- A word that decoded, run: the retyping hold (R227), steps 12 and 13 of R56, then its meaning, with the undo records of run-ahead
(R346). -/
def State.runCode (s : State) (c : Code) : Host.Outcome State Fault Refusal :=
  let o := wordOpnds (s.decEnv s.cur.g) s.cur.word
  if s.cg.retype.isSome && heldByRetype (wClass s.cur.word) then ok s.stall
  else if regRange o s.cg then ok (s.userTrap 0x03 0)
  else if overlaps o then ok (s.userTrap 0x02 0)
  else match execCode c s with
    | .next t => ok (s.logged t)
    | r => r

/-- The fate of a word that is no instruction of the issuing group (R56).  PRIV and SYSENC park the active lanes (R420), all lanes of
the split where the word's MSK leaves none (log 19). -/
def State.runFate (s : State) (f : Fate) : State :=
  let m := s.act (wMsk s.cur.word)
  let a := if m == 0 then s.cset.lanes else m
  match f with
  | .ill sub => s.userTrap 0x01 sub
  | .priv => s.faultSplit 0x04 s.cur.word a
  | .sysenc => s.faultSplit 0x05 s.cur.word a
  | .mxenc | .short => s.userTrap 0x01 0x03

/-- The word `w` with its literal issued by split `e` of group `g`. -/
def State.issueWord (s : State) (g e : Nat) (w lit : DWord) : Host.Outcome State Fault Refusal :=
  let pc := ((s.group g).set e).pc
  let s1 := { s with cur := { s.cur with g, e, pc, size := if wL w then 16 else 8, word := w, lit } }
  match decodeCode (s1.decEnv g) w lit with
  | .error f => ok (s1.runFate f)
  | .ok c => s1.runCode c

/-- A split issues its next instruction; a fetch that faults parks its lanes (R141). -/
def State.issueSplit (s : State) (g e : Nat) : Host.Outcome State Fault Refusal :=
  let l := (s.group g).set e
  match s.fetch g l.pc with
  | .error (x, va) =>
    let s1 := { s with cur := { s.cur with g, e, pc := l.pc, size := 8, word := 0, lit := 0 } }
    ok (s1.laneFaults ((lanesOf l.lanes).map fun i =>
      { lane := i, code := x.code, sub := x.sub, elem := 0, va, info := x.info, flags := 2 }) id)
  | .ok (w, lit) =>
    let s1 := s.fetched g l.pc.toNat w
    (if wL w then s1.fetched g (l.pc + 8).toNat lit else s1).issueWord g e w lit

/-! ## The matrix sequencer (R286, R301-R308) -/

/-- Whether the sequencer of team `t` may issue: it runs, or its wait can end; nothing holds its team, and a pre-emption of the team has
not come to its images (R308). -/
def State.canIssueSeq (s : State) (t : Nat) : Bool :=
  let x := s.team t
  match x.seq with
  | none => false
  | some q =>
    (q.st == .run || (q.st == .wait && (x.bar q.waitOn).passable 32)) && x.st == .resident && !x.tstop && !x.mchk &&
      !(x.preq && s.mayStop t)

/-- The 128-bit word at an address of team `t`'s matrix stream, with its translation; none where it cannot be fetched (R301, R307). -/
def State.fetchMx (s : State) (t : Nat) (pc : DWord) : Option (QWord × Leaf) :=
  let x := s.team t
  if pc.toNat % 16 != 0 then none
  else match s.lookup x.core x.ctx x.user .fetch pc.toNat with
    | .error _ => none
    | .ok l =>
      if s.mem.poisoned (l.pa pc.toNat / 128) then none
      else some (BitVec.ofNat 128 (leNat ((List.range 16).map fun k => s.mem.codeByte (clusterOf x.core) (l.pa pc.toNat + k))), l)

/-- The sequencer of team `t` issues the word at MXPC. -/
def State.issueSeq (s : State) (t : Nat) : Host.Outcome State Fault Refusal :=
  match s.seqOf t with
  | none => ok s
  | some q =>
    let at_ (w : QWord) : State := { s with cur := { s.cur with t, pc := q.pc, size := 16, word := bits w 0 64, lit := bits w 64 64 } }
    match s.fetchMx t q.pc with
    | none => ok ((at_ (Config.undef s.tick 1 ++ Config.undef s.tick 0)).mxFault t mxFetch q.wdone)
    | some (w, l) =>
      let x := s.team t
      let s1 := ((at_ w).useLeaf x.core x.ctx .fetch l).codeRead (clusterOf x.core) (l.pa q.pc.toNat) false
      match decodeMatrix w with
      | none => ok (s1.mxFault t mxEnc q.wdone)
      | some c => execCode c s1

end Sys2Proof.Machine
end

