-- ==== Sys2Proof/Machine/Agents.lean ====
section
/-! DEFINITION. Who moves next (R164, R165; log 2): the splits of each quarter, the messages on their way and the internal
events of the machine; time; and the placing of an instruction for the step to fetch (log 14). -/

namespace Sys2Proof.Machine
open Sys2Proof

/-- What can move by itself; from `timeout` to `raised` what time alone brings. -/
inductive Agent where
  | split (g e : Nat)
  | seq (t : Nat)
  | ret (g n : Nat)
  | trap (g : Nat)
  | defer (g : Nat)
  | retype (g : Nat)
  | inv (g e : Nat)
  | fresh (cs : List (Nat × Nat))
  | grant (t : Nat)
  | start (t : Nat)
  | drain (t : Nat)
  | coll (fold num pos : Nat)
  | save (t : Nat)
  | restore (u : Nat)
  | copy (id : Nat)
  | phase (pd b : Nat)
  | msg (m : Msg)
  | rick
  | place
  | bin (b : Nat)
  | retire (gr : Nat)
  | post
  | regions
  | host
  | timeout (g e : Nat)
  | binTimer (b : Nat)
  | quantum (t : Nat)
  | raised (u : Nat)
  | ack (port : Nat)
  | lend (core n : Nat)
deriving DecidableEq, Repr

/-! ## Issue selection (R165) -/

/-- Eff (R165). -/
def State.eff (s : State) (g e : Nat) : Nat :=
  if ((s.group g).set e).age ≥ 1024 then 16 else (s.team (s.group g).team).prio

/-- The position of a group in its quarter: fresh groups after the slots (R165). -/
def State.place (s : State) (g : Nat) : Nat := if (s.group g).homes.isEmpty then (s.group g).slot else 64 + g

/-- Whether split `a` is chosen before split `b` of the same quarter (R165). -/
def State.before (s : State) (a b : Nat × Nat) : Bool :=
  let age (x : Nat × Nat) : Nat := ((s.group x.1).set x.2).age
  let k (x : Nat × Nat) : List Nat := [16 - s.eff x.1 x.2, 1024 - age x, s.place x.1, x.2]
  k a < k b

/-- The splits that may issue. -/
def State.readySplits (s : State) : List (Nat × Nat) :=
  (List.range s.groups.length).flatMap fun g => ((List.range 4).filter (s.canIssue g)).map fun e => (g, e)

/-- A word that takes the uniform slot of its quarter: formats UR, BR and SP, and FSET, FGET, XID, TSET and TGET (R164, R165). -/
def uniformWord (w : DWord) : Bool :=
  let m := (wMinor w).toNat
  match (wFmt w).toNat with
  | 1 | 3 | 4 => true
  | 0 => wClass w == 8 && (m == 1 || m == 2 || m == 5)
  | 5 => wClass w == 10 && (m == 1 || m == 2)
  | _ => false

/-- The slot for which a split's next instruction competes; one that cannot be fetched takes the uniform one. -/
def State.uniformNext (s : State) (a : Nat × Nat) : Bool :=
  match s.codeWord a.1 ((s.group a.1).set a.2).pc.toNat with
  | .ok w => uniformWord w
  | .error _ => true

/-- The split that each slot of each quarter chooses among the ready ones that fit it. -/
def State.chosenSplits (s : State) : List (Nat × Nat) :=
  let rs := s.readySplits
  rs.filter fun a => !rs.any fun b =>
    a != b && s.quarterKey a.1 == s.quarterKey b.1 && s.uniformNext a == s.uniformNext b && s.before b a

/-! ## Internal events that are enabled -/

/-- The candidates for compaction that may form a fresh group with `c`, `c` among them (R151). -/
def State.partners (s : State) (cs : List (Nat × Nat)) (c : Nat × Nat) : List (Nat × Nat) := cs.filter (s.mayCombine c)

/-- Splits that are candidates for compaction. -/
def State.candidates (s : State) : List (Nat × Nat) :=
  (List.range s.groups.length).flatMap fun g =>
    ((List.range 4).filter fun e => ((s.group g).set e).cand.isSome && ((s.group g).set e).lanes != 0).map fun e => (g, e)

/-- The internal events of group `g`. -/
def State.groupEvents (s : State) (g : Nat) : List Agent :=
  let x := s.group g
  (x.out.filter (·.ready)).map (fun p => .ret g p.n) ++
  (match x.trapReq with
    | some r => if r.waits.any fun n => x.out.any fun p => p.n == n then [] else [.trap g]
    | none => []) ++
  (if !x.stack.isEmpty && (x.freeEntry.isSome ||
      (x.sets.toList.all (fun l => l.st == .join || l.st == .bar) && x.stack.any fun l => l.st == .defer)) then [.defer g]
    else []) ++
  (if x.retype.isSome then [.retype g] else []) ++ x.invs.map fun r => .inv g r.entry

/-- The internal events of team `t`. -/
def State.teamEvents (s : State) (t : Nat) : List Agent :=
  let x := s.team t
  (if !x.xq.isEmpty && x.xfree != 0 then [.grant t] else []) ++
  (if s.canIssueSeq t then [.seq t] else []) ++
  (if x.order.images.isEmpty then [] else [.drain t]) ++
  (if !x.collWords.isEmpty && x.st == .resident then [.start t] else []) ++
  (x.colls.filter fun (c : Coll) => !c.done && !c.held).map (fun c => .coll c.fold c.num c.pos)

/-- The internal events of the package. -/
def State.packageEvents (s : State) : List Agent :=
  (s.cmds.filter fun c => !c.done && !c.held).map (fun c => .copy c.id) ++
  ((List.range s.paddocks.length).flatMap fun k => ((List.range 4).filter fun b =>
    let x := vecAt (s.paddock k).bars b {}; x.local0 && x.local1).map fun b => .phase k b) ++
  s.msgs.map .msg ++
  (if s.pkg.rick.isEmpty then [] else [.rick]) ++
  ((List.range 64).filter fun b => (s.bin b).any fun x => x.launched).map .bin ++
  ((List.range s.grids.length).filter fun k => s.mayRetire k || ((s.grid k).phase == .retiring && !(s.grid k).held)).map .retire ++
  (if s.faults.isEmpty then [] else [.post]) ++
  (if s.mem.rewriting then [.regions] else []) ++ (if s.hostNext.isSome then [.host] else []) ++ ((List.range 12).filter fun n => (s.port n).due).map .ack ++
  (s.mem.gran.filter fun g => s.granUsed g.1 < s.mem.held g.1).map fun g => .lend g.1 (s.mem.held g.1 - s.granUsed g.1)

/-- What the scheduler and the saves and restores under way do at once, as soon as they can (R403, R405, R406). -/
def State.prompt (s : State) : List Agent :=
  (if s.waitingUnits.isEmpty || s.schedule.isNone then [] else [.place]) ++
  ((List.range s.teams.length).filter s.saveMoves).map .save ++
  ((List.range s.teams.length).filter s.restoreMoves).map .restore

/-- The timers that count ns, with their times: spawn bins, quanta, and the rise of a waiting unit (R397, R403, R414). -/
def State.nsTimers (s : State) : List (Nat × Agent) :=
  ((List.range 64).filterMap fun b => (s.bin b).bind fun x =>
    let t := (s.ctx (s.grid x.grid).ctx).spawnt.toNat
    if x.launched then none else some (x.since + (if t == 0 then 2000 else t), .binTimer b)) ++
  ((List.range s.teams.length).filter fun t => (s.team t).timed).map (fun t => ((s.team t).qstart + s.quantum t, .quantum t)) ++
  (s.waitingUnits.filter fun u => !(s.team u).raised).map fun u => ((s.team u).ready + 16 * s.quantum u, .raised u)

/-- The timers that count cycles: 64 cc after its branch a candidate runs on (R151). -/
def State.ccTimers (s : State) : List (Nat × Agent) :=
  s.candidates.map fun c => ((((s.group c.1).set c.2).cand.getD 0) + 64, .timeout c.1 c.2)

/-- The timers that have run out. -/
def State.due (s : State) : List Agent :=
  ((s.nsTimers.filter fun t => t.1 ≤ s.pkg.timens) ++ (s.ccTimers.filter fun t => t.1 ≤ s.pkg.cycles)).map (·.2)

/-- What moves in its own time. -/
def State.moving (s : State) : List Agent :=
  let cs := s.candidates
  s.chosenSplits.map (fun a => .split a.1 a.2) ++ (List.range s.groups.length).flatMap s.groupEvents ++
  (List.range s.teams.length).flatMap s.teamEvents ++ s.packageEvents ++
  ((cs.map (s.partners cs)).filter fun p => (p.map (·.1)).dedup.length ≥ 2).map .fresh

/-- What can move now: what is due comes first, so that nothing that runs on can hold it up (R404). -/
def State.agents (s : State) : List Agent :=
  match s.due ++ s.prompt with
  | [] => s.moving
  | as => as

/-- The least of some times that is not before `now`; `now` where there is none. -/
def nextTime (now : Nat) (ts : List Nat) : Nat :=
  match sortBy (fun a b => a ≤ b) ts with
  | [] => now
  | t :: _ => max now t

/-- Nothing moves before the next timer runs out: time passes to it. -/
def State.idle (s : State) : State :=
  { s with pkg := { s.pkg with timens := nextTime s.pkg.timens (s.nsTimers.map (·.1)), cycles := nextTime s.pkg.cycles (s.ccTimers.map (·.1)) } }

/-- A message reaches its unit. -/
def State.runMsg (s : State) (m : Msg) : Host.Outcome State Fault Refusal :=
  match m with
  | .join id key size => execFoldJoinMessage id key size s
  | .leave id key => execFoldLeave id key s
  | .contribution id vote key p mode => execFoldContribution id vote key p mode s
  | .formed g slot _ _ => execFoldFormed g slot s
  | .refused g slot sub => execJoinRefused g slot sub s
  | .result g slot _ => execVoteResult g slot s
  | .chunk fold num chunk src pos final elems counts fls => execChunkReceive fold num chunk src pos final elems counts fls s
  | .tree fold num pos word root count dcount elems => execTreeContribution fold num pos word root count dcount elems s
  | .halo fold src dst tag num elems => execHaloReceive fold src dst tag num elems s
  | _ => ok s

/-- One agent's move. -/
def State.runAgent (s : State) (a : Agent) : Host.Outcome State Fault Refusal :=
  match a with
  | .split g e => s.issueSplit g e
  | .seq t => s.issueSeq t
  | .ret g n => execResultReturn g n s
  | .trap g => execUserTrap g s
  | .defer g => execDeferRecordLoad g s
  | .retype g => execRetypeComplete g s
  | .inv g e => execTlbinvComplete g e s
  | .fresh cs => execFreshGroupForm cs s
  | .grant t => execExtendedBlockGrant t s
  | .start t => execCollectiveStart t s
  | .drain t => ok (s.drainOne t)
  | .coll fold num pos => execCollectiveComplete fold num pos s
  | .save t => execPreemptSave t s
  | .restore u => execTeamRestore u s
  | .copy id => execCopyComplete id s
  | .phase pd b => execPaddockCrossDiePhase pd b s
  | .msg m => s.runMsg m
  | .rick => execRickFetch s
  | .place => execSchedulerPlace s
  | .bin b => execSpawnBinLaunch b s
  | .retire gr => execTaskRetire gr s
  | .post => execFaultRecordPost s
  | .regions => execRegionTableSwitch s
  | .host => ok s.hostResume
  | .timeout g e => execCompactionTimeout g e s
  | .binTimer b => execSpawnBinTimer b s
  | .quantum t => execQuantumExpire t s
  | .raised u => execEffectivePriorityRaise u s
  | .ack n => execAckTimer n s
  | .lend core n => execGranuleLend core n s

/-! ## Time -/

/-- The ready splits that were not chosen grow older (R165). -/
def State.aged (s : State) (but : Option (Nat × Nat)) : State :=
  s.readySplits.foldl (fun s a =>
    if some a == but then s
    else s.modGroup a.1 fun x => x.putSet a.2 { x.set a.2 with age := min 1024 ((x.set a.2).age + 1) }) s

/-- Stalled splits look at their instruction again (after any progress). -/
def Group.wake (g : Group) : Group := { g with sets := vecMap (fun l => { l with stalled := false }) g.sets }

/-- Whether the split that just issued stalled. -/
def State.justStalled (s : State) (a : Agent) : Bool :=
  match a with
  | .split g e => ((s.group g).set e).stalled
  | _ => false

/-- The chosen agent moves; every other ready split grows older. -/
def State.move (s : State) (a : Agent) : Host.Outcome State Fault Refusal :=
  let s0 := s.aged (match a with | .split g e => some (g, e) | _ => none)
  match s0.runAgent a with
  | .next t => if t.justStalled a then .next t else .next { t with groups := t.groups.map Group.wake }
  | r => r

/-- The choice among `n` agents: fixed in advance, or a free one (log 2). Every 4096th step takes them in turn, so that none waits
without end (R404). -/
def State.pickNo (s : State) (n : Nat) : Nat × State :=
  if s.tick % 4096 == 4095 then (s.tick / 4096 % n, s)
  else match s.sched with
    | k :: ks => (k % n, { s with sched := ks })
    | [] => (Config.pick s.tick n % n, s)

/-- One of several agents moves. -/
def State.choose (s : State) (as : List Agent) : Host.Outcome State Fault Refusal :=
  match as with
  | [] => .next { s.idle with groups := s.groups.map Group.wake }
  | [a] => s.move a
  | a :: rest =>
    let p := s.pickNo (rest.length + 1)
    p.2.move ((a :: rest).getD p.1 a)

/-- The machine moves; where nothing does, time passes, and stalled splits look again. -/
def State.runAgents (s : State) : Host.Outcome State Fault Refusal := s.choose s.agents

/-- The vector registers of fresh group `f` stand in the blocks of its home groups, where other splits of those read them, and where it
reads those of a thread that has gone home (R121, R152, R186). -/
def State.mirror (s0 : State) (f : Nat) : State :=
  let s := s0.modGroup f fun x => { x with regs := { x.regs with v := Vector.ofFn fun r => vregOf fun i =>
    match x.homes[i]? with
    | some h => (if h.2 < 32 then laneOf (vecAt x.regs.v r.val (Vector.replicate 32 0)) i
        else laneOf (vecAt (s0.group h.1).regs.v r.val (Vector.replicate 32 0)) (h.2 % 32)).toNat
    | none => (laneOf (vecAt x.regs.v r.val (Vector.replicate 32 0)) i).toNat } }
  let x := s.group f
  (homesOf x.homes).foldl (fun s h => s.modGroup h fun y => { y with regs := { y.regs with
    v := Vector.ofFn fun r => moveVreg x.homes h (vecAt y.regs.v r.val (Vector.replicate 32 0))
      (vecAt x.regs.v r.val (Vector.replicate 32 0)) } }) s

/-- The fresh groups that hold threads. -/
def State.freshOnes (s : State) : List Nat :=
  (List.range s.groups.length).filter fun g => !(s.group g).homes.isEmpty && !(s.group g).ended

/-- What DDR-5 and the CXL pool have returned is recorded: the line's address and its data (R441; log 59). -/
def State.recordFetched (s : State) : State :=
  let s1 := s.mem.fetched.foldl (fun s ln =>
    if s.homedHere ln then
      s.record (if isCxl (ln * 128) then 4 else 3) ((Config.device 15 ln).toNat % 256) (leBytes 8 (ln * 128) ++ leBytes 128 (s.mem.homeData ln).toNat)
    else s) s
  { s1 with mem := { s1.mem with fetched := [] } }

/-- In replay nothing leaves through the ports (R442). -/
def State.quietLinks (s : State) : State :=
  if s.pkg.replay then { s with pkg := { s.pkg with ports := vecMap (fun p => { p with out := [], queue := [] }) s.pkg.ports } } else s

/-- What follows every step by itself: memory's returns are recorded (R441), the blocks that fresh groups use are their home groups'
(R152), a group that can go no further is found out (R147, R148), messages for other packages are given to the ports (R379), early writes
of registers that a matrix word has read take effect (R305), the divergence stacks stand in their context areas (R137), and slices and
directory sets hold no more than they can (R239, R240). -/
def State.settled (s : State) : State :=
  let s1 := s.freshOnes.foldl State.mirror s.recordFetched.sendOutbox
  let s2 := (List.range s1.groups.length).foldl State.groupLocks s1
  let s3 := (List.range s2.teams.length).foldl State.checkReads s2.postAll
  ((List.range s3.groups.length).foldl State.putStack s3.quietLinks).fitted

/-- What the counters gain in a step: a free amount, but some in every 4096 steps (R404, R411; log 4). -/
def timeOf (tick : Nat) : Nat × Nat :=
  let t := Config.elapsed tick
  if tick % 4096 == 4095 then (max 1 t.1, max 1 t.2) else t

/-- A step takes some time: the counters run (R411; log 4). -/
def State.ticked (o : Host.Outcome State Fault Refusal) : Host.Outcome State Fault Refusal :=
  match o with
  | .next t =>
    let s := t.settled
    .next { s with
      tick := s.tick + 1
      pkg := { s.pkg with
        timens := s.pkg.timens + (timeOf s.tick).1, cycles := s.pkg.cycles + (timeOf s.tick).2 } }
  | r => r

/-! ## Placing an instruction (log 14) -/

/-- The virtual address of the placed code. -/
def placeVa : Nat := 0x10000

/-- A group about to issue its first instruction at `placeVa`, in a team of one. -/
def placeGroup : Group :=
  { Group.dead with
      slim := 63, vlim := 127, evlim := 127, ext := true, live := ones32, present := ones32, ended := false, issueNo := 1,
      sets := vecPut (Vector.replicate 4 {}) 0 { lanes := ones32, st := .ready, pc := BitVec.ofNat 64 placeVa } }

/-- The four consumer groups beside a placed matrix word, none of which issues. -/
def placeConsumers : List Group :=
  (List.range 4).map fun i =>
    { placeGroup with gidx := i, slot := 16 * i, quarter := i, consumer := true, sets := Vector.replicate 4 {} }

/-- The header of the placed team. -/
def placeHdr (mx : Bool) : Header :=
  { Header.dead with entry := BitVec.ofNat 64 placeVa, traph := 0x20000#64, matrix := mx, groups := if mx then 4 else 1, scratch := 4 }

/-- The team: at S for a word that a user-mode group may not issue. -/
def placeTeam (user mx : Bool) : Team :=
  { Team.dead with
      st := .resident, user, prio := 8, prio0 := 8, bars := Vector.replicate 16 (Bar.fresh (if mx then 15 else 1)), hdr := placeHdr mx }

/-- The page that maps the placed code: readable, writable, fetchable. -/
def placeTlb : Tlb :=
  { core := 0, ctx := 0, base := 0x10000, size := 4096, leaf := 0x8E00_0000_0001_0C00#64, ea := 0x8080 }

/-- The machine with one resident team that fetches the bytes next. -/
def State.placeWord (s : State) (nbits w : Nat) (bs : List Byte) : State :=
  let mx := 64 < nbits && (decodeMatrix (BitVec.ofNat 128 w)).isSome
  let user := match decodeCode (tableEnv false) (BitVec.ofNat 64 w) (BitVec.ofNat 64 (w / 2 ^ 64)) with
    | .ok _ => false
    | .error _ => true
  let t : Team := placeTeam user mx
  let seq : Seq :=
    { pc := BitVec.ofNat 64 placeVa, st := .run, wdone := false, waitOn := 0, cause := 0, q := Vector.replicate 16 0, acc := [] }
  { s with
      inputs := []
      groups := if mx then placeConsumers else [placeGroup]
      teams := [if mx then { t with seq := some seq } else t]
      grids := [{ Grid.dead with hdr := t.hdr, gx := 1, gy := 1, gz := 1, count := 1, phase := .active }]
      pkg := { s.pkg with ctxs := [(0, { Ctx.dead with cfg := 0xA000_0000_0001_0000#64 })] }
      mem := { s.mem with
        cells := cellsWrite s.mem.cells 0x10000 bs
        tlb := [placeTlb] } }

end Sys2Proof.Machine
end

