-- ==== Sys2Proof/Machine/Step.lean ====
section
/-! DEFINITION. One step of the machine (log 2), and the placing of an instruction for the step to fetch. -/

namespace Sys2Proof.Machine
open Sys2Proof

/-- One step: an event from outside that waits is taken first; else one of the agents that can move does; else the machine
idles. -/
def step (s : State) : Host.Outcome State Fault Refusal :=
  match s.inputs with
  | i :: rest => State.ticked (exec i { s with inputs := rest, cur := { s.cur with size := 8 } })
  | [] => State.ticked s.runAgents

/-- The bytes of an instruction of `nbits` bits given as the opcode table numbers them, up to the longest instruction. -/
def fetchBytes (w : Nat) : List Byte := leBytes 16 w

/-- `s` with an instruction where the step fetches its next one: a resident team with one group, or one matrix sequencer for
a matrix word, whose code page is mapped and holds the bytes (log 14). -/
def State.withFetchWord (s : State) (nbits w : Nat) : State := s.placeWord nbits w (fetchBytes w)

end Sys2Proof.Machine
end

