-- ==== Sys2Proof/Safety.lean ====
section
/-! DEFINITION. What counts as a safe run, and the terms in which claims about an instruction are stated: what it leaves unchanged, and
how a reader finds a register, a lane or a byte afterwards. -/

namespace Sys2Proof
open Sys2Proof.Machine

/-- The step goes on: neither a fault nor a refusal. -/
def Goes (s : State) : Prop := ∃ t, step s = .next t

/-- A run of `n` steps that goes on all the way. -/
def GoesOn : Nat → State → Prop
  | 0, _ => True
  | n + 1, s => ∃ t, step s = .next t ∧ GoesOn n t

/-- Home memory and every scratchpad are in canonical form. -/
abbrev MemCanonical (s : State) : Prop :=
  Memory.wf s.mem.cells = true ∧ ∀ t ∈ s.teams, Memory.wf t.scratch = true

/-- A cluster has one copy of a line at most, and one cluster at most owns a line (R242). -/
abbrev OneOwner (m : MemSys) : Prop :=
  m.lines.Pairwise fun a b => a.line = b.line → a.clus ≠ b.clus ∧ ¬ (a.st = .tm ∧ b.st = .tm)

/-- The accumulator store lists rising places, and no entry at its reset value. -/
abbrev AccCanonical (q : Seq) : Prop := (q.acc.map (·.1)).Pairwise (· < ·) ∧ ∀ c ∈ q.acc, c.2 ≠ accReset

/-- Copies and accumulator stores are in order. -/
abbrev Tidy (s : State) : Prop := OneOwner s.mem ∧ ∀ x ∈ s.teams, ∀ q, x.seq = some q → AccCanonical q

namespace Claims

/-! ## The issuing group -/

/-- The state issues from a group that it holds. -/
abbrev Issues (s : State) : Prop := s.cur.g < s.groups.length

/-- It issues a READY split that the group has, with lanes. -/
abbrev IssuesSplit (s : State) : Prop := Issues s ∧ s.cur.e < 4 ∧ s.cset.lanes ≠ 0 ∧ s.cset.st = .ready

/-- The issuing group is not in run-ahead. -/
abbrev NotAhead (s : State) : Prop := s.cg.ra = none

/-- The issuing group is one that was formed with its team. -/
abbrev Original (s : State) : Prop := s.cg.homes = []

/-- The issuing split is the whole group. -/
abbrev WholeGroup (s : State) : Prop := s.cset.lanes = s.cg.live

/-- The issuing group's team is one that the state holds. -/
abbrev TeamHeld (s : State) : Prop := s.cg.team < s.teams.length

/-- Agent `a` is the one that moves in `s`: no input waits, and it is the only one that can, or the choice falls on it (log 2). `s1` is
`s` with that choice used up. -/
def Moves (s s1 : State) (a : Agent) : Prop :=
  s.inputs = [] ∧
  ((s.agents = [a] ∧ s1 = s) ∨
   (2 ≤ s.agents.length ∧ s.agents[(s.pickNo s.agents.length).1]? = some a ∧ s1 = (s.pickNo s.agents.length).2))

/-- The end of a step: splits that stalled look again unless the mover stalled itself, and time passes (log 4). -/
def stepEnd (a : Agent) (t : State) : Host.Outcome State Fault Refusal :=
  State.ticked (.next (if t.justStalled a then t else { t with groups := t.groups.map Group.wake }))

/-! ## What is unchanged -/

/-- Every byte reads as before: at home and through every cluster's slice, and in every scratchpad. -/
def SameBytes (s t : State) : Prop :=
  (∀ c pa, t.mem.codeByte c pa = s.mem.codeByte c pa) ∧ (∀ pa, cellGet t.mem.cells pa = cellGet s.mem.cells pa) ∧
    ∀ u o, t.padNat u o 1 = s.padNat u o 1

/-- Nothing but the issuing group and the loop buffers' captured words differs. -/
def OnlyGroup (s t : State) : Prop :=
  (∀ h, h ≠ s.cur.g → t.group h = s.group h) ∧
  { t with groups := s.groups, mem := { t.mem with lbuf := s.mem.lbuf } } = s ∧ SameBytes s t

/-- The same, but for the exception counters of contexts (R111). -/
def OnlyGroupAndCounts (s t : State) : Prop :=
  (∀ h, h ≠ s.cur.g → t.group h = s.group h) ∧ (∀ c, { t.ctx c with exc := (s.ctx c).exc } = s.ctx c) ∧
  { t with groups := s.groups, mem := { t.mem with lbuf := s.mem.lbuf }, pkg := { t.pkg with ctxs := s.pkg.ctxs } } = s ∧ SameBytes s t

/-- Nothing but groups, captured words and what is on its way to the issuing team differs: for forms that change a team. -/
def OnlyTeam (s t : State) (u : Nat) : Prop :=
  (∀ v, v ≠ u → t.team v = s.team v) ∧
  { t with groups := s.groups, teams := s.teams, mem := { t.mem with lbuf := s.mem.lbuf } } = s

/-- What a reader of vector register `r` finds from instruction `m` on: the window's entry, and the banks'. -/
def vView (g : Group) (m r : Nat) : Option RegW × VReg :=
  (seen g.win m (.v r (Vector.replicate 32 0) 0 0), vecAt g.regs.v r (Vector.replicate 32 0))
def sView (g : Group) (m r : Nat) : Option RegW × Word := (seen g.win m (.s r 0 0), vecAt g.regs.s r 0)
def pView (g : Group) (m r : Nat) : Option RegW × QWord := (seen g.win m (.p r 0), vecAt g.regs.p r 0)
def mView (g : Group) (m r : Nat) : Option RegW × Word := (seen g.win m (.m r 0 0), vecAt g.regs.m r 0)

/-- The registers of each kind that an instruction writes. -/
structure Writes where
  v : Nat → Prop := fun _ => False
  s : Nat → Prop := fun _ => False
  p : Nat → Prop := fun _ => False
  m : Nat → Prop := fun _ => False

/-- Every register but those of `w` reads as before to every later instruction. -/
def KeepsRegs (x y : Group) (w : Writes) : Prop :=
  (∀ r m, ¬ w.v r → x.issueNo < m → vView y m r = vView x m r) ∧ (∀ r m, ¬ w.s r → x.issueNo < m → sView y m r = sView x m r) ∧
  (∀ r m, ¬ w.p r → x.issueNo < m → pView y m r = pView x m r) ∧ (∀ r m, ¬ w.m r → x.issueNo < m → mView y m r = mView x m r)

/-- The format, tile, flag and status registers are as before; the loop counters may change by the end check of R157. -/
def KeepsSpecial (x y : Group) : Prop :=
  y.regs.f = x.regs.f ∧ y.regs.t = x.regs.t ∧ y.regs.fpflags = x.regs.fpflags ∧ y.regs.status = x.regs.status

/-- Of the rest of the group only the lane sets, the loop stack, the window, the issue numbers and the outstanding results may change:
the TRAP registers, the handler, the folds, the batches and the blocks are as before. -/
def KeepsGroup (x y : Group) : Prop :=
  { y with regs := x.regs, win := x.win, sets := x.sets, stack := x.stack, loops := x.loops, issueNo := x.issueNo, out := x.out,
           ra := x.ra } = x

/-- The frame of a form that writes registers and no special register. -/
def RegFrame (s t : State) (w : Writes) : Prop :=
  OnlyGroup s t ∧ KeepsRegs s.cg t.cg w ∧ KeepsSpecial s.cg t.cg ∧ KeepsGroup s.cg t.cg

/-- The same where flags and exception counters may change (R108, R111). -/
def FlagFrame (s t : State) (w : Writes) : Prop :=
  OnlyGroupAndCounts s t ∧ KeepsRegs s.cg t.cg w ∧ KeepsGroup s.cg t.cg ∧
    t.cg.regs.f = s.cg.regs.f ∧ t.cg.regs.t = s.cg.regs.t ∧ t.cg.regs.status = s.cg.regs.status

/-! ## Results -/

/-- A type's codes fit their places in a lane, as those of every valid type do (R89). -/
abbrev FitsPlace (g : Group) (t : Ty) : Prop := (codingOf g.nf t).w ≤ contW g.nf t

/-- Element `j` of a lane value. -/
def elOf (g : Group) (t : Ty) (v j : Nat) : Nat := elemGet g.nf t v j

/-- What a result written over part of a register merges with (R121): the value seen when it is transient, the banks' otherwise. -/
def under (g : Group) (t : Bool) (r : Nat) : VReg := if t then g.vreg r else vecAt g.regs.v r (Vector.replicate 32 0)
def underS (g : Group) (t : Bool) (r : Nat) : Word := if t then g.sreg r else vecAt g.regs.s r 0
def underM (g : Group) (t : Bool) (r : Nat) : Word := if t then g.mreg r else vecAt g.regs.m r 0

/-- In vector registers `d..d+n-1` the active lanes hold `val`, the others what they held. -/
def VecResult (x y : Group) (t : Bool) (d n : Nat) (act : Word) (val : Nat → Nat) : Prop :=
  (∀ L, L < 32 → bit act L = true → y.vlane d n L = val L % 2 ^ (32 * n)) ∧
  ∀ k L, k < n → bit act L = false → laneOf (y.vreg (d + k)) L = laneOf (under x t (d + k)) L

/-- The same where only the bits `bm` of the active lanes' value change. -/
def VecPart (x y : Group) (t : Bool) (d n : Nat) (act : Word) (bm : Nat) (val : Nat → Nat) : Prop :=
  ∀ k L, k < n → L < 32 → laneOf (y.vreg (d + k)) L =
    if bit act L then mergeBits (BitVec.ofNat 32 (bm / 2 ^ (32 * k))) (laneOf (under x t (d + k)) L) (BitVec.ofNat 32 (val L / 2 ^ (32 * k)))
    else laneOf (under x t (d + k)) L

/-- Uniform registers `d..d+n-1` hold a value. -/
def UniResult (y : Group) (d n val : Nat) : Prop := y.sval d n = val % 2 ^ (32 * n)

/-- In mask register `d` the bits of the active lanes hold `holds`, the others what they held; m0 is not written (R112). -/
def MaskResult (x y : Group) (t : Bool) (d : Nat) (act : Word) (holds : Nat → Bool) : Prop :=
  d ≠ 0 → ∀ L, L < 32 → bit (y.mreg d) L = if bit act L then holds L else bit (underM x t d) L

/-- The registers of a group of `n` from `d` on. -/
def range (d n : Nat) (r : Nat) : Prop := d ≤ r ∧ r < d + n

/-- Mask register `d`, which is written only when it is not m0. -/
def mask (d r : Nat) : Prop := r = d ∧ d ≠ 0

/-- An unchecked result on its way (R161): the last of the outstanding ones, with the issuing instruction's number. -/
def Sent (x y : Group) (t : Bool) (ws : List RegW) (fls : List Fl) : Prop :=
  y.out = x.out ++ [{ n := x.issueNo, t, ws, fls }]

/-! ## The element-wise forms of class 0 -/

/-- Sources d ← a b, d ← a, d ← a b c of a VR or UR word (R126). -/
def srcAC (ur : Bool) (f : VF) (g : Group) (L : Nat) : List Nat := [g.srcA ur f f.ty L, g.srcC ur f f.ty L]
def srcC (ur : Bool) (f : VF) (g : Group) (L : Nat) : List Nat := [g.srcC ur f f.ty L]
def srcABC (ur : Bool) (f : VF) (g : Group) (L : Nat) : List Nat := [g.srcA ur f f.ty L, g.srcB ur f f.ty L, g.srcC ur f f.ty L]

/-- A form: whether it is UR, its instruction, its sources and what it makes of their elements. -/
structure ElemForm where
  ur : Bool
  i : Instr
  src : Group → Nat → List Nat
  h : List Nat → Nat

/-- The VR and the UR form of one operation. -/
def both (vr ur : Instr) (src : Bool → Group → Nat → List Nat) (h : List Nat → Nat) : List ElemForm :=
  [⟨false, vr, src false, h⟩, ⟨true, ur, src true, h⟩]

/-- The arithmetic of R127 and R128. -/
def arithForms (f : VF) : List ElemForm :=
  both (.addIntVr f) (.addIntUr f) (srcAC · f) (intElem f.ty f.k opAdd) ++
  both (.subIntVr f) (.subIntUr f) (srcAC · f) (intElem f.ty f.k opSub) ++
  both (.mulIntVr f) (.mulIntUr f) (srcAC · f) (intElem f.ty f.k opMul) ++
  both (.mulhiVr f) (.mulhiUr f) (srcAC · f) (intElem f.ty false (opMulhi f.ty)) ++
  both (.madVr f) (.madUr f) (srcABC · f) (intElem f.ty f.k opMad) ++
  both (.divIntVr f) (.divIntUr f) (srcAC · f) (intElem f.ty false (opDiv f.ty)) ++
  both (.remVr f) (.remUr f) (srcAC · f) (intElem f.ty false opRem) ++
  both (.minIntVr f) (.minIntUr f) (srcAC · f) (intElem f.ty f.k (opMin f.ty)) ++
  both (.maxIntVr f) (.maxIntUr f) (srcAC · f) (intElem f.ty f.k (opMax f.ty)) ++
  both (.absIntVr f) (.absIntUr f) (srcC · f) (intElem f.ty false opAbs) ++
  both (.negIntVr f) (.negIntUr f) (srcC · f) (intElem f.ty false opNeg)

/-- The bit operations, shifts and fields of R126, R129 and R130, and MOV (R132). -/
def bitForms (f : VF) : List ElemForm :=
  both (.andVr f) (.andUr f) (srcAC · f) (bitElem f.ty (· &&& ·)) ++ both (.orVr f) (.orUr f) (srcAC · f) (bitElem f.ty (· ||| ·)) ++
  both (.xorVr f) (.xorUr f) (srcAC · f) (bitElem f.ty (· ^^^ ·)) ++
  both (.notVr f) (.notUr f) (srcC · f) (unElem f.ty fun n a => 2 ^ n - 1 - a) ++
  both (.shlVr f) (.shlUr f) (srcAC · f) (shiftElem f.ty opShl) ++ both (.shrVr f) (.shrUr f) (srcAC · f) (shiftElem f.ty opShr) ++
  both (.rotVr f) (.rotUr f) (srcAC · f) (rotElem f.ty f.x) ++ both (.popcVr f) (.popcUr f) (srcC · f) (unElem f.ty popcount) ++
  both (.clzVr f) (.clzUr f) (srcC · f) (unElem f.ty clzBits) ++ both (.brevVr f) (.brevUr f) (srcC · f) (unElem f.ty revBits) ++
  both (.bfeVr f) (.bfeUr f) (srcAC · f) (bfeElem f.ty) ++ both (.bfiVr f) (.bfiUr f) (srcABC · f) (bfiElem f.ty) ++
  both (.movVr f) (.movUr f) (srcC · f) (fun l => l.headD 0)

/-- Every element of the result is `h` of the sources' elements, in the active lanes or in the uniform destination; inactive lanes and
every other register keep what they held. -/
def ElemResult (s t : State) (f : VF) (w : ElemForm) : Prop :=
  let d := f.dst.toNat
  let n := f.ty.regs
  let out (L j : Nat) : Nat := w.h ((w.src s.cg L).map fun v => elOf s.cg f.ty v j) % 2 ^ (codingOf s.cg.nf f.ty).w
  if w.ur then
    (∀ j, j < elemsOf s.cg.nf f.ty → elOf s.cg f.ty (t.cg.sval d n) j = out 0 j) ∧ RegFrame s t { s := range d n }
  else
    (∀ L j, L < 32 → j < elemsOf s.cg.nf f.ty → bit (s.act f.msk) L = true → elOf s.cg f.ty (t.cg.vlane d n L) j = out L j) ∧
    (∀ k L, k < n → bit (s.act f.msk) L = false → laneOf (t.cg.vreg (d + k)) L = laneOf (under s.cg f.t (d + k)) L) ∧
    RegFrame s t { v := range d n }

/-- The float forms that work element by element (R170-R174, R179): sources and what they make of the elements, with the flags. -/
def fltForms (f : VF) : List (Instr × (Group → Nat → List Nat) × (List Nat → Nat × Fl)) :=
  [(.addFloat f, srcAC false f, fltElem f.ty f.k (fopAdd f.ty f.rnd)), (.subFloat f, srcAC false f, fltElem f.ty f.k (fopSub f.ty f.rnd)),
   (.mulFloat f, srcAC false f, fltElem f.ty f.k (fopMul f.ty f.rnd)), (.fma f, srcABC false f, fltElem f.ty f.k (fopFma f.ty f.rnd false false)),
   (.fms f, srcABC false f, fltElem f.ty f.k (fopFma f.ty f.rnd false true)), (.fnma f, srcABC false f, fltElem f.ty f.k (fopFma f.ty f.rnd true false)),
   (.divFloat f, srcAC false f, fltElem f.ty false (fopDiv f.ty f.rnd)), (.sqrt f, srcC false f, fltElem f.ty false (fopSqrt f.ty f.rnd)),
   (.minFloat f, srcAC false f, fltElem f.ty f.k (fopMinmax f.ty false)), (.maxFloat f, srcAC false f, fltElem f.ty f.k (fopMinmax f.ty true)),
   (.absFloat f, srcC false f, signElem f.ty fun _ => false), (.negFloat f, srcC false f, signElem f.ty fun l => !l.headD false),
   (.cpys f, srcAC false f, signElem f.ty fun l => l.getD 1 false), (.rint f, srcC false f, fltElem f.ty false (fopRint f.ty f.rnd)),
   (.rcp f, srcC false f, fltElem f.ty false (fopSpecial f.ty .rcp)), (.rsqrt f, srcC false f, fltElem f.ty false (fopSpecial f.ty .rsqrt)),
   (.exp2 f, srcC false f, fltElem f.ty false (fopSpecial f.ty .exp2)), (.log2 f, srcC false f, fltElem f.ty false (fopSpecial f.ty .log2)),
   (.sinpi f, srcC false f, fltElem f.ty false (fopSpecial f.ty .sinpi)), (.cospi f, srcC false f, fltElem f.ty false (fopSpecial f.ty .cospi)),
   (.tanh f, srcC false f, fltElem f.ty false (fopSpecial f.ty .tanh)), (.sigm f, srcC false f, fltElem f.ty false (fopSpecial f.ty .sigm))]

/-- The flags `fls` of an instruction's elements have been raised: FPFLAGS holds them beside the old ones, and outside run-ahead the
context has counted them (R108, R111). -/
def Raised (s t : State) (fls : List Fl) : Prop :=
  t.cg.regs.fpflags = s.cg.regs.fpflags ||| (joinFl fls).setWidth 32 ∧
    (s.cg.ra = none → (t.ctx s.ct.ctx).exc = addExc (s.ctx s.ct.ctx).exc fls)

/-- The destination registers exist (R38). -/
abbrev DstFits (ur : Bool) (d n : Nat) : Prop := d + n ≤ if ur then 64 else 128

/-! ## Where lanes stand -/

/-- Lane `L` stands at `pc` in a lane set that may issue. -/
def StandsAt (g : Group) (L : Nat) (pc : DWord) : Prop :=
  ∃ l ∈ g.laneSets, bit l.lanes L = true ∧ l.pc = pc ∧ (l.st = .ready ∨ l.st = .defer)

/-- The address after the issuing instruction with its end check, and the loop stack and counters that the check leaves (R157). -/
def nextPc (s : State) : DWord := (endCheck s.cur.pc s.cg.loops s.cg.regs.lc s.afterPc).1

/-- No lane set of the group is in JOIN at `pc`, where an arrival would be taken in (R145). -/
abbrev NoJoinAt (g : Group) (pc : DWord) : Prop := ∀ l ∈ g.sets.toList ++ g.stack, l.st = .join → l.pc ≠ pc

/-- No JOIN set of the group is complete, and none stands at `pc` or where a READY split does: a move to `pc` completes none. -/
abbrev JoinsRest (g : Group) (pc : DWord) : Prop :=
  ∀ l ∈ g.sets.toList ++ g.stack, l.st = .join → l.pc ≠ pc ∧ l.rj &&& g.live &&& ~~~l.lanes ≠ 0 ∧
    ∀ x ∈ g.sets.toList, x.st = .ready → x.pc ≠ l.pc

/-- Every lane of the issuing split stands at `pc`. -/
def SplitAt (s : State) (y : Group) (pc : DWord) : Prop := ∀ L, L < 32 → bit s.cset.lanes L = true → StandsAt y L pc

/-- No lane set but the issuing split stands at its address. -/
abbrev AloneHere (s : State) : Prop :=
  (∀ e, e < 4 → e ≠ s.cur.e → (s.cg.set e).st ≠ .empty → (s.cg.set e).pc ≠ s.cur.pc) ∧ ∀ l ∈ s.cg.stack, l.pc ≠ s.cur.pc

/-- A branch form: whether its target comes from a register, which lanes it takes, and where each of them goes (R141, R142). -/
structure Jump where
  i : Instr
  reg : Bool
  takes : Nat → Bool
  target : Nat → DWord

/-- The conditional branches of R142. -/
def brForms (s : State) (f : BRF) : List Jump :=
  let a := s.act f.msk
  let p (L : Nat) : Bool := if f.pk then s.cg.sreg f.pred.toNat != 0 else bit (s.cg.mreg f.pred.toNat) L
  let here (L : Nat) : Bool := bit s.cset.lanes L
  let some_ (q : Nat → Bool) : Bool := (List.range 32).any fun L => bit a L && q L
  [⟨.bra f, false, fun L => bit a L, fun _ => s.brTarget f⟩,
   ⟨.brt f, false, fun L => bit a L && p L, fun _ => s.brTarget f⟩,
   ⟨.brf f, false, fun L => bit a L && !p L, fun _ => s.brTarget f⟩,
   ⟨.bany f, false, fun L => here L && some_ (bit (s.cg.mreg f.pred.toNat)), fun _ => s.brTarget f⟩,
   ⟨.ball f, false, fun L => here L && some_ (fun _ => true) && !some_ (fun k => !bit (s.cg.mreg f.pred.toNat) k), fun _ => s.brTarget f⟩]

/-- The jumps through registers (R141, R142, R144). -/
def jmpForms (s : State) (f : SPF) : List Jump :=
  [⟨.jmpr f, true, bit (s.act f.msk), fun _ => s.cg.spair f.sa.toNat⟩, ⟨.ret f, true, bit (s.act f.msk), fun _ => s.cg.spair f.sa.toNat⟩,
   ⟨.jmpv f, true, bit (s.act f.msk), fun L => BitVec.ofNat 64 (s.cg.vlane f.sa.toNat 2 L)⟩]

/-- Where lane `L` of the split is after a branch. -/
def Jump.dest (s : State) (j : Jump) (L : Nat) : DWord := if j.takes L then j.target L else nextPc s

/-- An instruction word can be fetched at a branch target, which is a legal address where it comes from a register (R141). -/
def Reachable (s : State) (reg : Bool) (pc : DWord) : Prop :=
  (reg = true → badTarget pc = false) ∧ ∃ w, s.codeWord s.cur.g pc.toNat = .ok w

/-- Lanes can go where a branch sends them, and no JOIN set takes them in there. -/
def Jump.Clear (s : State) (j : Jump) : Prop :=
  ∀ L, L < 32 → bit s.cset.lanes L = true →
    (j.takes L = true → Reachable s j.reg (j.target L)) ∧ NoJoinAt s.cg (j.dest s L)

/-- The count that a LOOP takes from its source (R156): absent is 0. -/
def loopCount (s : State) (f : BRF) : Word :=
  let raw := if f.pk then s.cg.sreg f.pred.toNat else f.fn.setWidth 32
  if raw = ones32 then 0 else raw

/-- The counters, the loop stack and the address after an advance from the issuing word with these counters and this stack (R157). -/
def ended (s : State) (lc : Vector Word 3) (ls : List LoopRec) : DWord × List LoopRec × Vector Word 3 × List LoopRec :=
  endCheck s.cur.pc ls lc s.afterPc

/-! ## What R206 and R215 demand before an access goes on -/

/-- The pointer passes R206 for an access: its fields. -/
abbrev PtrOk (s : State) (img : QWord) (pair : Ty → Bool) (store : Bool) (p : Ptr) : Prop := s.ptrCheck s.cur.g img pair store = .ok p

/-- No element of the access waits, and no lane faults. -/
abbrev AccessClear (s : State) (r : Lanes × List LaneFault) : Prop := r.2 = [] ∧ (r.1.elems.any fun e => s.waits e.place) = false

/-! ## Bytes -/

/-- A byte of a scratchpad, or of memory as cluster `c` finds it. -/
def placeByte (s : State) (c : Nat) : Place → Nat
  | .pad u o => s.padNat u o 1
  | .mem pa => (s.mem.codeByte c pa).toNat

/-- A byte after element writes in order. -/
def written (ws : List EWrite) (q : Place) (old : Nat) : Nat :=
  ws.foldl (fun b w => match byteIn q 0 w.place w.bytes with
    | some k => w.byte b k
    | none => b) old

/-- An element whose translation has its A and D bits set already, which reaches no device and lies in one line, and whose cluster has no
copy that the access must give up first. -/
def Steady (s : State) (p : Ptr) (e : Elem) : Prop :=
  (∀ l, e.leaf = some l → bit l.leaf 10 = true ∧ bit l.leaf 11 = true) ∧ (e.nib ≠ none → e.bytes = 1) ∧
  match e.place with
  | .pad u _ => u < s.teams.length
  | .mem pa => isIo pa = false ∧ pa % 128 + e.bytes ≤ 128 ∧
      OneOwner s.mem ∧
      (tracked p.cls p.sc = true → ∀ l, s.mem.line? (clusterOf s.ct.core) (pa / 128) = some l → l.st = .ts ∨ l.st = .tm)

/-- A held store that is performed without a wait, a machine check or a device, in one line, of which the core's cluster has no copy that
the store must give up first. -/
def HeldClear (s : State) (core : Nat) (h : HeldStore) : Prop :=
  s.waits h.w.place = false ∧ (h.w.nib ≠ none → h.w.bytes = 1) ∧
  match h.w.place with
  | .pad u _ => u < s.teams.length
  | .mem pa => isIo pa = false ∧ pa % 128 + h.w.bytes ≤ 128 ∧ s.mem.poisoned (pa / 128) = false ∧
      (tracked h.cls h.sc = true → ∀ l, s.mem.line? (clusterOf core) (pa / 128) = some l → l.st = .ts ∨ l.st = .tm)

/-- The code that an element holds, below the held stores of the group. -/
def codeAt (s : State) (p : Ptr) (e : Elem) : Nat :=
  let v := leNat ((List.range e.bytes).map fun i => BitVec.ofNat 8 (placeByte s (clusterOf s.ct.core) (match e.place with
    | .pad u o => .pad u (o + i)
    | .mem pa => .mem (pa + i))))
  codeOf e.nib (overlay s.cg.held' e.place e.bytes v) % 2 ^ (codingOf s.cg.nf p.ty).w

/-! ## Tasks -/

/-- Grid `g`, number `k` in `t`, has been released (R390): it is active with its teams queued, or over with a cause of FAIL, or held by a
read that faults, with no team. -/
def Released (s t : State) (k : Nat) (g : Grid) (cap : Nat) : Prop :=
  (g.phase = .active ∧ g.prio ≤ cap ∧ ∃ ts, t.teams = s.teams ++ ts ∧ ts.length = g.count ∧
    ∀ x ∈ ts, x.grid = k ∧ x.st = .queued ∧ x.ctx = g.ctx ∧ x.user = g.user ∧ x.prio = g.prio) ∨
  (g.phase = .over ∧ (g.cause = 1 ∨ g.cause = 2 ∨ g.cause = 3) ∧ t.teams = s.teams) ∨
  (g.phase = .release ∧ g.held = true ∧ t.teams = s.teams)

end Claims

end Sys2Proof
end

