-- ==== Sys2Proof/Certificates/Slice0/Obligations.lean ====
section
/-! DEFINITION. The statements for the provers.  Each says in its docstring which rule of the manual it formalises; what rests on a
choice of the model names the log entry. -/

open Sys2Proof Sys2Proof.Machine Sys2Proof.Claims

/-! ## Encoding (R33-R61) -/

/-- R33-R56: the bytes of every well-formed group instruction, whatever follows them, decode to that instruction and to its length. -/
def Obligations.GroupWordsDecodeBack : Prop :=
  ∀ (e : DecEnv) (i : Instr) (c : Code) (rest : List Byte),
    i.code = some c → c.isMatrix = false → i.wf e = true →
    decodeBytes e (encode i ++ rest) = .ok (c, (encode i).length) ∧ c.instr = some i

/-- R57-R61: the bytes of every well-formed matrix instruction decode to it. -/
def Obligations.MatrixWordsDecodeBack : Prop :=
  ∀ (e : DecEnv) (i : Instr) (c : Code) (rest : List Byte),
    i.code = some c → c.isMatrix = true → i.wf e = true →
    decodeMatrixBytes (encode i ++ rest) = .ok c ∧ c.instr = some i ∧ (encode i).length = 16

/-- R54: the all-zero word and the all-ones word are ILLENC in every environment, and a split that executes one takes the trap. -/
def Obligations.EmptyPatternsTrap : Prop :=
  (∀ e lit, decodeCode e 0#64 lit = .error (.ill 0x03)) ∧ (∀ e lit, decodeCode e (BitVec.allOnes 64) lit = .error (.ill 0x01)) ∧
  (wClass 0#64 = 0 ∧ wFmt 0#64 = 0 ∧ wMinor 0#64 = 0 ∧ wClass (BitVec.allOnes 64) = 15) ∧
  ∀ (s : State) (g e : Nat) (lit : DWord),
    let at_ (w : DWord) (n : Nat) : State :=
      { s with cur := { s.cur with g, e, pc := ((s.group g).set e).pc, size := n, word := w, lit } }
    s.issueWord g e 0#64 lit = .next ((at_ 0#64 8).userTrap 0x01 0x03) ∧
    s.issueWord g e (BitVec.allOnes 64) lit = .next ((at_ (BitVec.allOnes 64) 16).userTrap 0x01 0x01)

/-- R42, R43, R45, R46, R62: words that the manual writes out decode to the instructions they stand for. -/
def Obligations.WordsOfTheManualDecode : Prop :=
  decode (tableEnv true) 0xD050210384082080#64 0 = some (.fma
    { y := true, t := true, msk := 2, dst := 5, sa := 1, sb := 4, sc := 7, ty := .f32, rnd := .rne, k := false, ak := false, bk := true,
      ck := .reg, x := false, lit := 0 }) ∧
  decode (tableEnv true) 0x0091200001301804#64 0x186A0#64 = some (.addIntVr
    { y := false, t := false, msk := 0, dst := 9, sa := 9, sb := 0, sc := 0, ty := .i32, rnd := .rne, k := false, ak := false,
      bk := false, ck := .lit, x := false, lit := 0x186A0 }) ∧
  decode (tableEnv true) 0x0000200202000058#64 0 = some (.brt
    { y := false, msk := 0, dst := 0, pred := 1, off := 4, hint := false, cpt := false, pk := false, sel := 0, mode := 0, fn := 0,
      l := false, lit := 0 }) ∧
  decode (tableEnv true) 0x00001FFE88000058#64 0 = some (.ldec
    { y := false, msk := 0, dst := 0, pred := 0, off := 0x3FFD, hint := false, cpt := false, pk := false, sel := 0, mode := 0, fn := 0,
      l := false, lit := 0 }) ∧
  decode (tableEnv true) 0x1800000014000060#64 0 = some (.exit { y := false, msk := 3, dst := 0, sa := 0, sel := 0, fn := 0 }) ∧
  decode (tableEnv false) 0x0140000005000320#64 0 = some (.fwait { y := false, msk := 0, dst := 20, sa := 0, sel := 0, fn := 0 })

/-! ## Invariants, reset and the step -/

/-- Host.Core: every step keeps home memory and every scratchpad in canonical form, so that equal memories are equal data (log 3). -/
def Obligations.StepsKeepMemoryCanonical : Prop :=
  ∀ s t, MemCanonical s → step s = .next t → MemCanonical t

/-- R242: no step makes two copies of a line in one cluster or two owners of a line; accumulator stores keep the form in which equal stores are
equal data (the form is the model's, log 3). -/
def Obligations.StepsKeepOneOwner : Prop :=
  ∀ s t, Tidy s → step s = .next t → Tidy t

/-- R454, R382, R411, R447, R449, R451, R455: at reset no task, group, team or command exists, the package has not powered up and is not locked, every
PORTSTAT reads WIDTH 3 and nothing else, PKG is 0 and the SVN the fused one, BOOTCTL, EQBASE, STEP, PNOW and TMAX are 0, PCAP is the limit, and the time counters are 0.
The model's choices: no context is described (log 5), memory lists nothing and is in canonical form, no line has a copy (log 3). -/
def Obligations.ResetLeavesAnEmptyPackage : Prop :=
  MemCanonical State.reset ∧ Tidy State.reset ∧ State.reset.mem.lines = [] ∧ State.reset.mem.cells = [] ∧
  State.reset.groups = [] ∧ State.reset.teams = [] ∧ State.reset.grids = [] ∧ State.reset.cmds = [] ∧ State.reset.pkg.boot = .off ∧
  State.reset.pkg.lock = false ∧ (∀ k, k < 12 → (vecAt State.reset.pkg.ports k Port.zero).train = false) ∧
  State.reset.pkg.timens = 0 ∧ State.reset.pkg.cycles = 0 ∧ State.reset.pkg.ctxs = [] ∧
  (∀ k, k < 12 → State.reset.ioValue (.portstat k) = 0xC0000000) ∧ State.reset.ioValue .bootctl = 0 ∧ State.reset.pkg.reg eqBaseReg = 0 ∧
  State.reset.pkg.pcap = Config.powerLimit ∧ State.reset.pkg.step = 0 ∧ State.reset.pkg.pnow = 0 ∧ State.reset.pkg.tmax = 0 ∧
  State.reset.pkg.num = 0 ∧ State.reset.pkg.recArm = false ∧ State.reset.pkg.svn = Config.fusedSvn

/-- No instruction or event of the manual stops the machine: every step answers a next state. -/
def Obligations.EveryStepGoesOn : Prop := ∀ s, Goes s

/-- R33, R56, R165 (the choice among agents is the model's, log 2): when a split moves, and the bytes at its PC are the words of an
instruction for it, which no retyping holds back and whose registers pass steps 12 and 13 of R56, the step is `exec` of that instruction
at the state with the words in place, followed by its undo records where it runs ahead (R346) and by what ends every step.
A sequencer that moves runs the matrix word at MXPC likewise (R286, R301).
An event from outside that waits is taken before anything else moves (the model's own rule, log 2). -/
def Obligations.StepRunsTheDecodedInstruction : Prop :=
  (∀ (s s1 : State) (g e : Nat) (w lit : DWord) (i : Instr) (t : State),
    Moves s s1 (.split g e) →
    let s2 := s1.aged (some (g, e))
    let pc := ((s2.group g).set e).pc
    let s3 := (if wL w then (s2.fetched g pc.toNat w).fetched g (pc + 8).toNat lit else s2.fetched g pc.toNat w)
    let s4 := { s3 with cur := { s3.cur with g, e, pc := ((s3.group g).set e).pc, size := if wL w then 16 else 8, word := w, lit } }
    s2.fetch g pc = .ok (w, lit) → decode (s4.decEnv g) w lit = some i →
    (s4.cg.retype.isSome && heldByRetype (wClass w)) = false → regRange (wordOpnds (s4.decEnv g) w) s4.cg = false →
    overlaps (wordOpnds (s4.decEnv g) w) = false → exec i s4 = .next t →
    step s = stepEnd (.split g e) (s4.logged t)) ∧
  (∀ (s s1 : State) (u : Nat) (q : Seq) (w : QWord) (l : Leaf) (i : Instr) (t : State),
    Moves s s1 (.seq u) →
    let s2 := s1.aged none
    let s3 := { s2 with cur := { s2.cur with t := u, pc := q.pc, size := 16, word := bits w 0 64, lit := bits w 64 64 } }
    let s4 := (s3.useLeaf (s2.team u).core (s2.team u).ctx .fetch l).codeRead (clusterOf (s2.team u).core) (l.pa q.pc.toNat) false
    s2.seqOf u = some q → s2.fetchMx u q.pc = some (w, l) → decodeMx w = some i → exec i s4 = .next t →
    step s = stepEnd (.seq u) t) ∧
  ∀ (s : State) (i : Instr) (rest : List Instr) (t : State), s.inputs = i :: rest →
    exec i { s with inputs := rest, cur := { s.cur with size := 8 } } = .next t → step s = State.ticked (.next t)

/-! ## Class 0: integers, bits, selection (R126-R135) -/

/-- R126, R127, R128, R129, R130, R132: an integer, bit, shift or field form and MOV completes, each element of its result is what the operation
makes of the elements of its sources, and nothing but the destination changes. -/
def Obligations.ElementwiseFormsComplete : Prop :=
  ∀ (s : State) (f : VF) (w : ElemForm), w ∈ arithForms f ++ bitForms f → IssuesSplit s → FitsPlace s.cg f.ty →
    DstFits w.ur f.dst.toNat f.ty.regs → ∃ t, exec w.i s = .next t ∧ ElemResult s t f w

/-- R128: DIV rounds toward zero and REM takes the sign of a; by zero DIV delivers Max, Min or 0 and REM a; −Max ÷ −1 is exact; absent
operands propagate; no flag is set and no trap is taken. -/
def Obligations.DivisionNeverTraps : Prop :=
  ∀ (s : State) (f : VF), IssuesSplit s → f.ty.isI ∨ f.ty.isN → f.dst.toNat + f.ty.regs ≤ 128 →
    let c := codingOf (fun _ => 0) f.ty
    let a (L j : Nat) := elOf s.cg f.ty (s.cg.srcA false f f.ty L) j
    let b (L j : Nat) := elOf s.cg f.ty (s.cg.srcC false f f.ty L) j
    ∃ t u, exec (.divIntVr f) s = .next t ∧ exec (.remVr f) s = .next u ∧
      (∀ L j, L < 32 → j < elemsOf s.cg.nf f.ty → bit (s.act f.msk) L = true →
        let q := intOf f.ty (elOf s.cg f.ty (t.cg.vlane f.dst.toNat f.ty.regs L) j)
        let r := intOf f.ty (elOf s.cg f.ty (u.cg.vlane f.dst.toNat f.ty.regs L) j)
        match intOf f.ty (a L j), intOf f.ty (b L j) with
        | some x, some y =>
          if y = 0 then q = some (if x > 0 then c.maxInt else if x < 0 then c.minInt else 0) ∧ r = some x
          else q = some (x.tdiv y) ∧ r = some (x - y * x.tdiv y)
        | _, _ => q = none ∧ r = none) ∧
      t.cg.regs.fpflags = s.cg.regs.fpflags ∧ u.cg.regs.fpflags = s.cg.regs.fpflags ∧ t.cg.trapReq = s.cg.trapReq ∧
      u.cg.trapReq = s.cg.trapReq

/-- R131-R135: comparisons, SEL, LEA, EXT, DP4 and the mask moves complete with their results and change nothing else; a write of m0 is
discarded (R112).
EXT writes, of each active lane, the elements that the sub-elements of its source from SB on give, and keeps the others (R134, R81). -/
def Obligations.SelectionAndMaskFormsComplete : Prop :=
  (∀ (s : State) (f : VF), IssuesSplit s →
    let d := f.dst.toNat
    let n := f.ty.regs
    let a := s.act f.msk
    (d < 8 → ∃ t, exec (.cmpIntVr f) s = .next t ∧
      MaskResult s.cg t.cg f.t d a (fun L => cmpCodes f.ty f.sb.toNat (s.cg.srcA false f f.ty L) (s.cg.srcC false f f.ty L)) ∧
      RegFrame s t { m := mask d }) ∧
    (d < 64 → ∃ t, exec (.cmpIntUr f) s = .next t ∧
      t.cg.sreg d = (if cmpCodes f.ty f.sb.toNat (s.cg.srcA true f f.ty 0) (s.cg.srcC true f f.ty 0) then 1 else 0) ∧
      RegFrame s t { s := range d 1 }) ∧
    (d + n ≤ 128 → FitsPlace s.cg f.ty → ∃ t, exec (.selVr f) s = .next t ∧ ElemResult s t f
      ⟨false, .selVr f, fun g L => [if bit (g.mreg f.sb.toNat) L then g.srcA false f f.ty L else g.srcC false f f.ty L], fun l => l.headD 0⟩) ∧
    (d + n ≤ 64 → FitsPlace s.cg f.ty → ∃ t, exec (.selUr f) s = .next t ∧ ElemResult s t f
      ⟨true, .selUr f, fun g L => [if g.sreg f.sb.toNat ≠ 0 then g.srcA true f f.ty L else g.srcC true f f.ty L], fun l => l.headD 0⟩) ∧
    (d + 2 ≤ 128 → ∃ t, exec (.leaVr f) s = .next t ∧
      VecResult s.cg t.cg f.t d 2 a (fun L => leaVal f.ty (s.cg.srcA false f f.ty L) (s.cg.src f.bk f.sb.toNat 1 L) f.sc.toNat) ∧
      RegFrame s t { v := range d 2 }) ∧
    (d + 2 ≤ 64 → ∃ t, exec (.leaUr f) s = .next t ∧
      UniResult t.cg d 2 (leaVal f.ty (s.cg.srcA true f f.ty 0) (s.cg.src true f.sb.toNat 1 0) f.sc.toNat) ∧ RegFrame s t { s := range d 2 }) ∧
    (d + 1 ≤ 128 → ∃ t, exec (.dp4Vr f) s = .next t ∧
      VecResult s.cg t.cg f.t d 1 a (fun L => dp4Val f.ty f.k (s.cg.srcA false f f.ty L) (s.cg.srcB false f f.ty L) (s.cg.srcC false f f.ty L)) ∧
      RegFrame s t { v := range d 1 }) ∧
    (d + 1 ≤ 64 → ∃ t, exec (.dp4Ur f) s = .next t ∧
      UniResult t.cg d 1 (dp4Val f.ty f.k (s.cg.srcA true f f.ty 0) (s.cg.srcB true f f.ty 0) (s.cg.srcC true f f.ty 0)) ∧
      RegFrame s t { s := range d 1 }) ∧
    (d < 8 → ∃ t, exec (.mset f) s = .next t ∧ (d ≠ 0 → t.cg.mreg d = s.cg.sreg f.sa.toNat) ∧ RegFrame s t { m := mask d }) ∧
    (d < 64 → ∃ t, exec (.mget f) s = .next t ∧ t.cg.sreg d = s.cg.mreg f.sa.toNat ∧ RegFrame s t { s := range d 1 }) ∧
    (d < 8 → ∃ t, exec (.mlog f) s = .next t ∧
      (d ≠ 0 → t.cg.mreg d = (match f.sb.toNat with
        | 0 => s.cg.mreg f.sa.toNat &&& s.cg.mreg f.sc.toNat
        | 1 => s.cg.mreg f.sa.toNat ||| s.cg.mreg f.sc.toNat
        | 2 => s.cg.mreg f.sa.toNat ^^^ s.cg.mreg f.sc.toNat
        | _ => s.cg.mreg f.sa.toNat &&& ~~~s.cg.mreg f.sc.toNat)) ∧ RegFrame s t { m := mask d })) ∧
  ∀ (s : State) (f : VF) (u : Ty), IssuesSplit s → tyOfCode (f.sc.setWidth 5) = some u →
    let d := f.dst.toNat
    let n := f.ty.regs
    let val (ur : Bool) (L : Nat) : Nat := (extVal f.ty u f.sb.toNat (s.cg.srcA ur f u L)).1
    let bm := (extVal f.ty u f.sb.toNat 0).2
    (d + n ≤ 128 → ∃ t, exec (.extVr f) s = .next t ∧ VecPart s.cg t.cg f.t d n (s.act f.msk) bm (val false) ∧ RegFrame s t { v := range d n }) ∧
    (d + n ≤ 64 → ∃ t, exec (.extUr f) s = .next t ∧
      (∀ k, k < n → t.cg.sreg (d + k) = mergeBits (BitVec.ofNat 32 (bm / 2 ^ (32 * k))) (underS s.cg f.t (d + k))
        (BitVec.ofNat 32 (val true 0 / 2 ^ (32 * k)))) ∧ RegFrame s t { s := range d n })

/-! ## Class 1: branches, loops and reconvergence (R140-R160) -/

/-- R141, R142, R143, R144: a branch whose targets can be fetched completes: each lane of the split stands at its target when the form's
condition takes it, and after the word, with the end check of R157, when not; no register changes.
CALL and CALLR go as well, and write the address after the word to the link pair when some lane is active. -/
def Obligations.BranchesSendEachLane : Prop :=
  (∀ (s : State) (j : Jump), (∃ f, j ∈ brForms s f) ∨ (∃ f, j ∈ jmpForms s f) → IssuesSplit s → NotAhead s → j.Clear s →
    ∃ t, exec j.i s = .next t ∧ (∀ L, L < 32 → bit s.cset.lanes L = true → StandsAt t.cg L (j.dest s L)) ∧ RegFrame s t {}) ∧
  ∀ (s : State) (i : Instr) (reg : Bool) (act : Word) (tgt : DWord) (d : Nat),
    (∃ f : BRF, i = .call f ∧ reg = false ∧ act = s.act f.msk ∧ tgt = s.brTarget f ∧ d = f.dst.toNat) ∨
    (∃ f : SPF, i = .callr f ∧ reg = true ∧ act = s.act f.msk ∧ tgt = s.cg.spair f.sa.toNat ∧ d = f.dst.toNat) →
    IssuesSplit s → NotAhead s → d + 2 ≤ 64 → (⟨i, reg, bit act, fun _ => tgt⟩ : Jump).Clear s →
    ∃ t, exec i s = .next t ∧
      (∀ L, L < 32 → bit s.cset.lanes L = true → StandsAt t.cg L (if bit act L then tgt else nextPc s)) ∧
      (act ≠ 0 → UniResult t.cg d 2 s.afterPc.toNat) ∧ RegFrame s t { s := fun r => act ≠ 0 ∧ range d 2 r }

/-- R156, R157: LOOP with a count other than 0 sets its counter, pushes its record and goes on with the end check, which counts a LOOP that
stands at a record's end; with 0 the split goes on after the end instruction.  LOOP takes the records of its counter, and those above, off the stack first.
LDEC decrements its counter, no further than 0, and branches while it is not 0; LEXIT drops the records of its counter and branches, both to
a target that can be fetched (R141);
LCRD and LCWR copy a counter from and to a uniform register (R158). -/
def Obligations.LoopFormsComplete : Prop :=
  (∀ (s : State) (f : BRF), IssuesSplit s →
    let n := f.sel.toNat
    let rest := (popLoops n s.cg.loops).1
    let pushed := ended s (vecPut s.cg.regs.lc n (loopCount s f)) ({ n, start := s.afterPc, stop := s.brTarget f } :: rest)
    (loopCount s f ≠ 0 → JoinsRest s.cg pushed.1 →
      ∃ t, exec (.loop f) s = .next t ∧ t.cg.regs.lc = pushed.2.2.1 ∧ t.cg.loops = pushed.2.1 ∧ SplitAt s t.cg pushed.1 ∧
        RegFrame s t {}) ∧
    (∀ a, loopCount s f = 0 → s.after s.cur.g (s.brTarget f) = .ok a → JoinsRest s.cg a →
      ∃ t, exec (.loop f) s = .next t ∧ t.cg.regs.lc = vecPut s.cg.regs.lc n 0 ∧ t.cg.loops = rest ∧ SplitAt s t.cg a ∧ RegFrame s t {})) ∧
  ∀ s, IssuesSplit s →
    (∀ f : BRF,
      let n := f.sel.toNat
      let c := vecAt s.cg.regs.lc n 0
      let lc := vecPut s.cg.regs.lc n (if c = 0 then 0 else c - 1)
      let e := ended s lc s.cg.loops
      (2 ≤ c.toNat → Reachable s false (s.brTarget f) → JoinsRest s.cg (s.brTarget f) →
        ∃ t, exec (.ldec f) s = .next t ∧ t.cg.regs.lc = lc ∧ t.cg.loops = s.cg.loops ∧ SplitAt s t.cg (s.brTarget f) ∧ RegFrame s t {}) ∧
      (c.toNat < 2 → JoinsRest s.cg e.1 →
        ∃ t, exec (.ldec f) s = .next t ∧ t.cg.regs.lc = e.2.2.1 ∧ t.cg.loops = e.2.1 ∧ SplitAt s t.cg e.1 ∧ RegFrame s t {}) ∧
      (Reachable s false (s.brTarget f) → JoinsRest s.cg (s.brTarget f) →
        ∃ t, exec (.lexit f) s = .next t ∧ t.cg.regs.lc = s.cg.regs.lc ∧ t.cg.loops = (popLoops n s.cg.loops).1 ∧
          SplitAt s t.cg (s.brTarget f) ∧ RegFrame s t {})) ∧
    ∀ f : SPF,
      (f.dst.toNat < 64 → ∃ t, exec (.lcrd f) s = .next t ∧ t.cg.sreg f.dst.toNat = vecAt s.cg.regs.lc f.sel.toNat 0 ∧
        RegFrame s t { s := range f.dst.toNat 1 }) ∧
      (let e := ended s (vecPut s.cg.regs.lc f.sel.toNat (s.cg.sreg f.sa.toNat)) s.cg.loops
       JoinsRest s.cg e.1 → ∃ t, exec (.lcwr f) s = .next t ∧ t.cg.regs.lc = e.2.2.1 ∧ t.cg.loops = e.2.1 ∧ SplitAt s t.cg e.1 ∧ RegFrame s t {})

/-- R157, R160: NOP, YIELD and MACT go on at the next address that the end check of R157 gives, with its loop records and counters; MACT
writes the active lanes to its mask, the others nothing. -/
def Obligations.QuietFormsGoOn : Prop :=
  ∀ (s : State) (f : SPF), IssuesSplit s →
    let e := ended s s.cg.regs.lc s.cg.loops
    let moved (t : State) : Prop := JoinsRest s.cg e.1 → t.cg.regs.lc = e.2.2.1 ∧ t.cg.loops = e.2.1 ∧ SplitAt s t.cg e.1
    (∃ t, exec (.nop f) s = .next t ∧ moved t ∧ RegFrame s t {}) ∧ (∃ t, exec (.yield f) s = .next t ∧ moved t ∧ RegFrame s t {}) ∧
    (f.dst.toNat < 8 → ∃ t, exec (.mact f) s = .next t ∧ moved t ∧ (f.dst.toNat ≠ 0 → t.cg.mreg f.dst.toNat = s.act f.msk) ∧
      RegFrame s t { m := mask f.dst.toNat })

/-- R157: the loop record on top whose end address is the instruction's sends the split back to its start while its counter is above 1,
and is popped when not; the counter goes down by one, from 1 or 0 to 0.
R145, R146: a whole split that executes JOIN waits there with its rejoin set while lanes of that set are missing (at S, where the deadlock of
a group goes to its own handler, while another split can run, R147, R421), and goes on at once, after the end check of R157 at the JOIN (log 20), when none is.
R139, R160: EXIT ends its active lanes: they are live no longer and in no lane set; a group that ends with them is ended. -/
def Obligations.LanesRepeatJoinAndEnd : Prop :=
  (∀ (a next : DWord) (r : LoopRec) (rs : List LoopRec) (lc : Vector Word 3), r.n < 3 →
    (r.stop ≠ a → endCheck a (r :: rs) lc next = (next, r :: rs, lc, [])) ∧
    (r.stop = a → 2 ≤ (vecAt lc r.n 0).toNat →
      endCheck a (r :: rs) lc next = (r.start, r :: rs, vecPut lc r.n (vecAt lc r.n 0 - 1), [])) ∧
    (r.stop = a → (vecAt lc r.n 0).toNat ≤ 1 →
      let e := endCheck a rs (vecPut lc r.n 0) next
      endCheck a (r :: rs) lc next = (e.1, e.2.1, e.2.2.1, r :: e.2.2.2))) ∧
  (∀ (s : State) (f : SPF), IssuesSplit s → Original s → s.act f.msk = s.cset.lanes → AloneHere s → JoinsRest s.cg s.cur.pc →
    let rj := (s.cg.mreg f.sa.toNat ||| s.cset.lanes) &&& s.cg.live
    (rj &&& ~~~s.cset.lanes ≠ 0 → s.ct.user = true ∨ (∃ x ∈ s.cg.laneSets, x.lanes &&& s.cset.lanes = 0 ∧ (x.st = .ready ∨ x.st = .defer)) →
      ∃ t, exec (.join f) s = .next t ∧
      ∀ L, L < 32 → bit s.cset.lanes L = true → ∃ l ∈ t.cg.laneSets, bit l.lanes L = true ∧ l.st = .join ∧ l.pc = s.cur.pc ∧ l.rj = rj) ∧
    (rj &&& ~~~s.cset.lanes = 0 → NoJoinAt s.cg (endCheck s.cur.pc s.cg.loops s.cg.regs.lc (s.cur.pc + 8)).1 →
      ∃ t, exec (.join f) s = .next t ∧ SplitAt s t.cg (endCheck s.cur.pc s.cg.loops s.cg.regs.lc (s.cur.pc + 8)).1)) ∧
  (∀ (s : State) (f : SPF), IssuesSplit s → Original s → NotAhead s → ∃ t, exec (.exit f) s = .next t ∧
    t.cg.live = s.cg.live &&& ~~~s.act f.msk ∧ (∀ l ∈ t.cg.laneSets, l.lanes &&& s.act f.msk = 0) ∧
    (s.cg.live &&& ~~~s.act f.msk = 0 → s.cg.lent = 0 → t.cg.ended = true))

/-! ## Allocation (R113-R118) -/

/-- R115, R116: XACQ by a group that holds a block, and XREL by one that holds none, only go on; XREL gives the block back once no result
to v64-v127 that was outstanding when it came there is so still, and waits for those before (R162); a group without a block that may have one enters its team's queue, and the oldest
group of the queue receives a free block, its v64-v127 zero.
R117, R258, R304: DONATE by a group that has not arrived on bN in this phase, its register writes being in the banks, arrives; its
result stays outstanding until the phase completes. -/
def Obligations.AllocationFormsComplete : Prop :=
  (∀ s, IssuesSplit s → TeamHeld s → Original s → NotAhead s →
    (∀ f, s.cg.ext = true → ∃ t, exec (.xacq f) s = .next t ∧ t.cg.ext = true ∧ RegFrame s t {}) ∧
    (∀ f, s.cg.ext = false → 64 ≤ s.cg.evlim → s.ct.user = true ∨ s.ct.xfree ≠ 0 →
      ∃ t, exec (.xacq f) s = .next t ∧ t.cg.xwait = true ∧ t.ct.xq = s.ct.xq ++ [s.cur.g] ∧ t.cg.regs = s.cg.regs) ∧
    (∀ f, s.cg.ext = false → ∃ t, exec (.xrel f) s = .next t ∧ t.ct.xfree = s.ct.xfree ∧ RegFrame s t {}) ∧
    (∀ f, s.cg.ext = true → s.cset.fsnap = none → s.cg.extPending ≠ [] → ∃ t, exec (.xrel f) s = .next t ∧
      t.cset.waits = s.cg.extPending ∧ t.cset.pc = s.cset.pc ∧ t.cset.fsnap.isSome = true ∧ t.cg.ext = true ∧ RegFrame s t {}) ∧
    (∀ f, s.cg.ext = true → s.cset.fsnap.isSome = true ∨ s.cg.extPending = [] → ∃ t, exec (.xrel f) s = .next t ∧ t.cg.ext = false ∧
      t.cg.evlim = s.cg.evlim ∧ t.ct = { s.ct with xfree := s.ct.xfree + 1 } ∧ OnlyTeam s t s.cg.team ∧ KeepsRegs s.cg t.cg {} ∧
      KeepsSpecial s.cg t.cg) ∧
    ∀ u g rest, u < s.teams.length → g < s.groups.length → (s.team u).xq = g :: rest → (s.team u).xfree ≠ 0 →
      ∃ t, exec (.extendedBlockGrant u) s = .next t ∧ (t.group g).ext = true ∧ (t.group g).xwait = false ∧
        (t.team u) = { s.team u with xq := rest, xfree := (s.team u).xfree - 1 } ∧
        (∀ r, vecAt (t.group g).regs.v r (Vector.replicate 32 0) =
          if r < 64 then vecAt (s.group g).regs.v r (Vector.replicate 32 0) else Vector.replicate 32 0) ∧
        (∀ h, h ≠ g → t.group h = s.group h) ∧ t.mem = s.mem) ∧
  ∀ (s : State) (f : SPF), IssuesSplit s → TeamHeld s → Original s → NotAhead s → WholeGroup s → s.cg.bankPending = false →
    let b := f.sel.toNat % 16
    (s.ct.bar b).arrived s.cg.gidx = false → s.groupAt s.cg.team s.cg.gidx = some s.cur.g →
    popc (s.ct.bar b).memb + (s.ct.bar b).extra.toNat > (s.ct.bar b).arrv + 1 → s.cg.gidx < 32 →
    ∃ t, exec (.donate f) s = .next t ∧
      (t.ct.bar b).arrv = (s.ct.bar b).arrv + 1 ∧ (t.ct.bar b).ph = (s.ct.bar b).ph ∧
      vecAt (t.ct.bar b).arrp s.cg.gidx none = some (s.ct.bar b).ph ∧
      (∃ d ∈ t.ct.don, d.bar = b ∧ d.donor = s.cur.g ∧ d.recipient = s.cg.sreg f.sa.toNat ∧ d.n = s.cg.issueNo) ∧
      (∃ p ∈ t.cg.out, p.n = s.cg.issueNo ∧ p.ready = false) ∧ KeepsRegs s.cg t.cg {} ∧ KeepsSpecial s.cg t.cg ∧
      OnlyTeam { s with hb := t.hb } t s.cg.team

/-! ## Lane-set and compaction events (R137, R147, R151, R165) -/

/-- R137, R147: with a free entry the oldest record of the stack comes back, a DEFER one READY, its lanes where they stood, a BAR or FAULT
one as it was; where four parked sets hold the entries, the oldest DEFER record comes back in place of one of them.
R151: a candidate that found no partner runs on alone (64 cc after its branch); R165: a split whose age reaches AgeCap has the age 1,024.
R150-R152: candidates of two groups that may combine leave their groups, their lanes lent, and run in a fresh group at their common
address, each thread with its vector registers and all of them with the uniform registers of the host, while the quarter holds fewer
than four fresh groups. -/
def Obligations.LaneSetEventsMoveLanes : Prop :=
  (∀ (s : State) (g : Nat), g < s.groups.length → ∃ t, exec (.deferRecordLoad g) s = .next t ∧
    (∀ h, h ≠ g → t.group h = s.group h) ∧ KeepsRegs (s.group g) (t.group g) {} ∧ t.mem.cells = s.mem.cells ∧
    (∀ e l rest, (s.group g).freeEntry = some e → (s.group g).stack = l :: rest →
      (l.st = .ready ∨ l.st = .defer → NoJoinAt (s.group g) l.pc → ∀ L, L < 32 → bit l.lanes L = true → StandsAt (t.group g) L l.pc) ∧
      (l.st = .bar ∨ l.st = .fault → ∀ L, L < 32 → bit l.lanes L = true →
        ∃ x ∈ (t.group g).laneSets, bit x.lanes L = true ∧ x.st = l.st ∧ x.pc = l.pc)) ∧
    ∀ d, (s.group g).freeEntry = none → (∀ e, e < 4 → ((s.group g).set e).st = .join ∨ ((s.group g).set e).st = .bar) →
      (s.group g).stack.find? (fun l => l.st == .defer) = some d → NoJoinAt (s.group g) d.pc →
      ∀ L, L < 32 → bit d.lanes L = true → StandsAt (t.group g) L d.pc) ∧
  (∀ (s : State) (g e : Nat), g < s.groups.length → e < 4 →
    exec (.ageCap g e) s = .next (s.setGroup g ((s.group g).putSet e { (s.group g).set e with age := 1024 })) ∧
    ∃ t, exec (.compactionTimeout g e) s = .next t ∧ (∀ h, h ≠ g → t.group h = s.group h) ∧
      (t.group g).regs.v = (s.group g).regs.v ∧ t.mem = s.mem ∧
      (((s.group g).set e).st = .ready → NoJoinAt (s.group g) ((s.group g).set e).pc →
        ∀ L, L < 32 → bit ((s.group g).set e).lanes L = true → StandsAt (t.group g) L ((s.group g).set e).pc) ∧
      (((s.group g).set e).st = .ready → JoinsRest (s.group g) ((s.group g).set e).pc →
        (∀ k, k < 4 → k ≠ e → ((s.group g).set k).pc ≠ ((s.group g).set e).pc) →
        (t.group g).set e = { (s.group g).set e with cand := none })) ∧
  ∀ (s : State) (a b : Nat × Nat),
    let ma := ((s.group a.1).set a.2).lanes
    let mb := ((s.group b.1).set b.2).lanes
    a.1 < s.groups.length → b.1 < s.groups.length → a.2 < 4 → b.2 < 4 → (s.group a.1).gidx < (s.group b.1).gidx →
    s.mayCombine a a = true → s.mayCombine a b = true → ma &&& mb = 0 →
    (s.groups.filter fun g => !g.homes.isEmpty && !g.ended && (s.team g.team).core == (s.team (s.group a.1).team).core &&
      g.quarter == (s.group a.1).quarter).length < 4 →
    ∃ t, exec (.freshGroupForm [a, b]) s = .next t ∧ t.groups.length = s.groups.length + 1 ∧
      (let f := t.group s.groups.length
       f.homes = s.freshHomes [a, b] ∧ StandsAt f 0 ((s.group a.1).set a.2).pc ∧ f.host = a.1 ∧ f.regs.s = (s.group a.1).regs.s ∧
       ∀ r i, r < 128 → i < f.homes.length →
        laneOf (vecAt f.regs.v r (Vector.replicate 32 0)) i =
          laneOf (vecAt (s.group (f.homes.getD i (0, 0)).1).regs.v r (Vector.replicate 32 0)) (f.homes.getD i (0, 0)).2) ∧
      (t.group a.1).lent = (s.group a.1).lent ||| ma ∧ (t.group b.1).lent = (s.group b.1).lent ||| mb ∧
      ((t.group a.1).set a.2).lanes = 0 ∧ ((t.group b.1).set b.2).lanes = 0 ∧ t.mem = s.mem

/-! ## Class 2: floats (R167-R182) -/

/-- R108, R111, R123, R170-R174, R179, R180: a float form completes in every active lane with the elements that its operation gives,
raises their flags, and changes nothing else.
R175-R177: the float comparisons and classifications write one bit of a mask for each active lane, raise their flags, and change
nothing else; a write of m0 is discarded (R112).
R178: CVT writes the elements of the active lanes that its source has from sub-element SB on, each absent or rounded under RND, and
keeps the other elements. -/
def Obligations.FloatFormsTestsAndConversionsComplete : Prop :=
  (∀ (s : State) (f : VF) (i : Instr) (src : Group → Nat → List Nat) (h : List Nat → Nat × Fl), (i, src, h) ∈ fltForms f →
    IssuesSplit s → f.ty.isFl = true → f.dst.toNat + f.ty.regs ≤ 128 →
    let a := s.act f.msk
    let out (L j : Nat) : Nat × Fl := h ((src s.cg L).map fun v => elemGet noNf f.ty v j)
    ∃ t, exec i s = .next t ∧
      (∀ L j, L < 32 → j < elemsOf noNf f.ty → bit a L = true →
        elemGet noNf f.ty (t.cg.vlane f.dst.toNat f.ty.regs L) j = (out L j).1 % 2 ^ (codingOf noNf f.ty).w) ∧
      (∀ k L, k < f.ty.regs → bit a L = false → laneOf (t.cg.vreg (f.dst.toNat + k)) L = laneOf (under s.cg f.t (f.dst.toNat + k)) L) ∧
      Raised s t ((lanesOf a).flatMap fun L => (List.range (elemsOf noNf f.ty)).map fun j => (out L j).2) ∧
      FlagFrame s t { v := range f.dst.toNat f.ty.regs }) ∧
  ((∀ (s : State) (f : VF), IssuesSplit s → f.dst.toNat < 8 →
    let a := s.act f.msk
    let x (v : Nat) : Nat := elemGet noNf f.ty v (if f.x then 1 else 0)
    let c (L : Nat) : Bool × Fl := fcmpElem f.ty f.sb.toNat (x (s.cg.srcA false f f.ty L)) (x (s.cg.srcC false f f.ty L))
    (∃ t, exec (.cmpFloat f) s = .next t ∧ MaskResult s.cg t.cg f.t f.dst.toNat a (fun L => (c L).1) ∧
      Raised s t ((lanesOf a).map fun L => (c L).2) ∧ FlagFrame s t { m := mask f.dst.toNat }) ∧
    (∃ t, exec (.fcls f) s = .next t ∧ MaskResult s.cg t.cg f.t f.dst.toNat a (fun L => fclsElem f.ty f.sb (x (s.cg.srcA false f f.ty L))) ∧
      t.cg.regs.fpflags = s.cg.regs.fpflags ∧ FlagFrame s t { m := mask f.dst.toNat }) ∧
    ∃ t, exec (.pres f) s = .next t ∧
      MaskResult s.cg t.cg f.t f.dst.toNat a (fun L =>
        elOf s.cg f.ty (s.cg.srcA false f f.ty L) f.sb.toNat ≠ (codingOf s.cg.nf f.ty).absent) ∧
      t.cg.regs.fpflags = s.cg.regs.fpflags ∧ FlagFrame s t { m := mask f.dst.toNat }) ∧
  ∀ (s : State) (f : VF) (u : Ty), IssuesSplit s → tyOfCode (f.sc.setWidth 5) = some u → f.dst.toNat + f.ty.regs ≤ 128 →
    let g := s.cg
    let a := s.act f.msk
    let wt := contW g.nf f.ty
    let js := (List.range (elemsOf g.nf f.ty)).filter fun j => f.sb.toNat + j < elemsOf g.nf u
    let one (L j : Nat) : Nat × Fl :=
      match (codingOf g.nf u).read (elemGet g.nf u (g.srcA false f u L) (f.sb.toNat + j)) with
      | none => ((codingOf g.nf f.ty).absent.getD 0, 0)
      | some x => (codingOf g.nf f.ty).round f.rnd (Ty.isInt u) x
    ∃ t, exec (.cvt f) s = .next t ∧
      VecPart g t.cg f.t f.dst.toNat f.ty.regs a (js.foldl (fun acc j => acc + (2 ^ wt - 1) * 2 ^ (j * wt)) 0)
        (fun L => js.foldl (fun acc j => acc + (one L j).1 * 2 ^ (j * wt)) 0) ∧
      Raised s t ((lanesOf a).flatMap fun L => js.map fun j => (one L j).2) ∧ FlagFrame s t { v := range f.dst.toNat f.ty.regs })

/-- R106, R181, R182: a reduction writes one result to every active lane: the tree over the present elements of the active lanes, or their
number. -/
def Obligations.ReductionsReachEveryLane : Prop :=
  ∀ (s : State) (f : VF) (i : Instr) (op : List (Option Xv) → Nat × Fl),
    (i, op) ∈ [(Instr.rsum f, fopAdd f.ty f.rnd), (Instr.rmin f, fopMinmax f.ty false), (Instr.rmax f, fopMinmax f.ty true)] →
    IssuesSplit s → f.ty.isFl = true →
    let a := s.act f.msk
    let leaves (j : Nat) := leavesOf f.ty a (s.cg.srcA false f f.ty) j
    let tree (j : Nat) := treeReduce (nodeOf f.ty op) 5 (leaves j)
    (f.dst.toNat + f.ty.regs ≤ 128 → ∃ t, exec i s = .next t ∧
      (∀ L j, L < 32 → j < elemsOf noNf f.ty → bit a L = true →
        elemGet noNf f.ty (t.cg.vlane f.dst.toNat f.ty.regs L) j = (tree j).1.getD (fltAbsent f.ty) % 2 ^ (codingOf noNf f.ty).w) ∧
      Raised s t ((List.range (elemsOf noNf f.ty)).flatMap fun j => (tree j).2) ∧ FlagFrame s t { v := range f.dst.toNat f.ty.regs }) ∧
    (f.dst.toNat < 128 → ∃ t, exec (.rcnt f) s = .next t ∧
      (∀ L j, L < 32 → bit a L = true → j < (if (codingOf noNf f.ty).w = 16 then 2 else 1) →
        elemGet noNf (rcntTy f.ty) (t.cg.vlane f.dst.toNat 1 L) j = (leaves j).countP (·.isSome)) ∧
      t.cg.regs.fpflags = s.cg.regs.fpflags ∧ FlagFrame s t { v := range f.dst.toNat 1 })

/-! ## Class 3: shuffles and permutes (R185-R195) -/

/-- R187, R189, R193: each active lane of a shuffle, a permute and BPRM receives the value the form picks; other lanes keep theirs and
nothing else changes.
R190, R191, R192: RFAL and RFAU write the value of the lowest active lane, RFAU setting NONUNIF when some active lane differs; with no
active lane nothing is written; INSL writes one lane, when it is active.
R194: ZIPn interleaves the elements of n sources, over the lanes in order, and UNZn takes them apart again: element j of lane L in
destination w is the one at flat index n apart. -/
def Obligations.LaneValuesMove : Prop :=
  (∀ (s : State) (f : VF), IssuesSplit s →
    let g := s.cg
    let d := f.dst.toNat
    let n := f.ty.regs
    let act := s.act f.msk
    let a (L : Nat) : Nat := g.srcA false f f.ty L
    let b (L : Nat) : Nat := g.srcB false f f.ty L
    let none_ (L : Nat) : Nat := notMember g f.ty (a L)
    let member (p : Nat) : Bool := p < 32 && bit g.live p && bit (g.mreg f.sb.toNat) p
    let x (L : Nat) : Nat := g.lane32 f L
    let from_ (L p : Nat) : Nat := if member p then g.vlane f.sa.toNat n p else none_ L
    (∀ i lane, (i, lane) ∈ [(Instr.shfl f, fun L => from_ L (x L)), (Instr.shup f, fun L => if x L ≤ L then from_ L (L - x L) else none_ L),
        (Instr.shdn f, fun L => from_ L (L + x L)), (Instr.shxr f, fun L => from_ L (L ^^^ x L)),
        (Instr.shrt f, fun L => from_ L ((L + x L % 32) % 32))] → f.ak = false → d + n ≤ 128 →
      ∃ t, exec i s = .next t ∧ VecResult g t.cg f.t d n act lane ∧ RegFrame s t { v := range d n }) ∧
    (d + n ≤ 128 → ∃ t, exec (.prm2 f) s = .next t ∧
      VecResult g t.cg f.t d n act (fun L =>
        if x L < 32 ∧ bit g.live (x L) = true then a (x L)
        else if 32 ≤ x L ∧ x L < 64 ∧ bit g.live (x L - 32) = true then b (x L - 32) else none_ L) ∧ RegFrame s t { v := range d n }) ∧
    (d < 128 → ∃ t, exec (.bprm f) s = .next t ∧
      VecResult g t.cg f.t d 1 act (fun L => bytesOf (a L) (b L) (g.srcC false f f.ty L)) ∧ RegFrame s t { v := range d 1 })) ∧
  ((∀ (s : State) (f : VF), IssuesSplit s →
    let g := s.cg
    let d := f.dst.toNat
    let n := f.ty.regs
    let act := s.act f.msk
    let a (L : Nat) : Nat := g.vlane f.sa.toNat n L
    (d + n ≤ 64 → ∀ L, (L < 32 ∧ bit act L = true ∧ ∀ k, k < L → bit act k = false) →
      (∃ t, exec (.rfal f) s = .next t ∧ UniResult t.cg d n (a L) ∧ RegFrame s t { s := range d n }) ∧
      ∃ t, exec (.rfau f) s = .next t ∧ UniResult t.cg d n (a L) ∧ KeepsRegs g t.cg { s := range d n } ∧ OnlyGroup s t ∧
        t.cg.regs.status = (if ∀ k, k < 32 → bit act k = true → a k = a L then g.regs.status else g.regs.status ||| 4)) ∧
    (act = 0 → (∃ t, exec (.rfal f) s = .next t ∧ RegFrame s t {}) ∧ ∃ t, exec (.rfau f) s = .next t ∧ RegFrame s t {}) ∧
    (d + n ≤ 128 → ∃ t, exec (.insl f) s = .next t ∧
      (if g.lane32 f 0 < 32 ∧ bit act (g.lane32 f 0) = true then
        VecResult g t.cg f.t d n (1#32 <<< g.lane32 f 0) (fun _ => g.sval f.sa.toNat n) ∧ RegFrame s t { v := range d n }
       else RegFrame s t {}))) ∧
  ∀ (s : State) (f : VF) (n : Nat) (i : Instr) (source : Nat → Nat → Nat → Nat × Nat),
    (i, n, source) ∈ [(Instr.zip2 f, 2, zipSource 2), (Instr.zip3 f, 3, zipSource 3), (Instr.zip4 f, 4, zipSource 4),
      (Instr.unz2 f, 2, unzSource 2), (Instr.unz3 f, 3, unzSource 3), (Instr.unz4 f, 4, unzSource 4)] →
    IssuesSplit s → FitsPlace s.cg f.ty →
    let g := s.cg
    let G := f.ty.regs
    let E := elemsOf g.nf f.ty
    f.dst.toNat + G * n ≤ 128 →
    ∃ t, exec i s = .next t ∧
      (∀ w L j, w < n → L < 32 → j < E → bit (s.act f.msk) L = true →
        let us := source (32 * E) w (E * L + j)
        bit g.live (us.2 / E) = true →
        elOf g f.ty (t.cg.vlane (f.dst.toNat + G * w) G L) j = elOf g f.ty (g.vlane (f.sa.toNat + G * us.1) G (us.2 / E)) (us.2 % E)) ∧
      RegFrame s t { v := range f.dst.toNat (G * n) })

/-! ## Traps and results on their way (R72-R76, R163, R423) -/

/-- R72, R73, R74, R75: once what was outstanding at the trap has returned, the entry writes the TRAP registers, empties the window, and the
trapping split starts at TRAPH as the handler; other splits, registers and groups stay as they are.
R163: a result that returns with T = 0 reaches the bank unless a younger write is there, and its flags reach FPFLAGS; with T = 1 no bank
changes. -/
def Obligations.TrapsEnterAndResultsReturn : Prop :=
  (∀ (s : State) (g : Nat) (r : TrapReq),
    let x := s.group g
    g < s.groups.length → x.trapReq = some r → x.ra = none → (∀ n ∈ r.waits, ∀ p ∈ x.out, p.n ≠ n) → r.entry < 4 →
    (x.set r.entry).lanes ≠ 0 → r.info = none →
    let e := s.decEnv g
    let o := wordOpnds e r.word
    let imm := trapImm e r.word r.lit
    let z : Group := { x with win := [] }
    ∃ t, exec (.userTrap g) s = .next t ∧
      (let y := t.group g
       y.trap.pc = r.pc ∧ y.trap.cause = trapCause e r.word r.cause r.sub ∧ y.trap.opc = r.word ∧ y.trap.dst = trapDst e r.word ∧
       y.trap.imm = imm ∧
       (∀ L, L < 32 → vecAt y.trap.a L 0 = trapOperand z imm o.a L ∧ vecAt y.trap.b L 0 = trapOperand z imm o.b L ∧
         vecAt y.trap.c L 0 = trapOperand z imm o.c L) ∧
       (y.set r.entry).pc = (s.team x.team).hdr.traph ∧ (y.set r.entry).st = .ready ∧ (y.set r.entry).lanes = (x.set r.entry).lanes ∧
       (∀ k, k ≠ r.entry → y.set k = x.set k) ∧
       y.handler = some { lanes := (x.set r.entry).lanes, ret := r.pc + (if wL r.word then 16 else 8), interrupted := false,
                          seqTeam := r.seqTeam } ∧
       y.trapReq = none ∧ y.win = [] ∧ y.regs = x.regs ∧ y.out = x.out) ∧
      (∀ h, h ≠ g → t.group h = s.group h) ∧ { t with groups := s.groups } = s) ∧
  ∀ (s : State) (g : Nat) (p : Pend),
    let x := s.group g
    g < s.groups.length → x.ra = none → p ∈ x.out → p.ready = true → (∀ q ∈ x.out, q.n = p.n → q = p) →
    ∃ t, exec (.resultReturn g p.n) s = .next t ∧
      (let y := t.group g
       y.out = x.out.filter (fun q => q.n ≠ p.n) ∧ y.regs.fpflags = x.regs.fpflags ||| (joinFl p.fls).setWidth 32 ∧
       (p.t = true → y.regs = { x.regs with fpflags := y.regs.fpflags }) ∧
       (p.t = false →
         (∀ r val lanes bm L, p.ws = [.v r val lanes bm] → r < 128 → L < 32 →
           let old := laneOf (vecAt x.regs.v r (Vector.replicate 32 0)) L
           laneOf (vecAt y.regs.v r (Vector.replicate 32 0)) L =
             if vecAt x.regs.vNo r 0 ≤ p.n ∧ bit lanes L = true then mergeBits bm old (laneOf val L) else old) ∧
         (∀ r val bm, p.ws = [.s r val bm] → r < 64 →
           vecAt y.regs.s r 0 = if vecAt x.regs.sNo r 0 ≤ p.n then mergeBits bm (vecAt x.regs.s r 0) val else vecAt x.regs.s r 0) ∧
         (∀ r val, p.ws = [.p r val] → r < 16 →
           vecAt y.regs.p r 0 = if vecAt x.regs.pNo r 0 ≤ p.n then val else vecAt x.regs.p r 0))) ∧
      (∀ h, h ≠ g → t.group h = s.group h) ∧ t.teams = s.teams ∧ t.mem = s.mem

/-- R75, R423: in a handler, TRET sends the split to the address after the trapping instruction, TRET.rp to TRAPPC, and the split leaves
the handler; TRET.r first writes the destination that TRAPDST names from the register of its kind, on the lanes of the split where the
kind is a vector.
The model's reading, not the rules' words (log 25): a handler that divides is left by each of its splits at its own TRET; TRET.r writes a whole mask and a
whole uniform register whatever T of TRAPDST says, and the loop counter for kind 10. -/
def Obligations.TrapReturnsLeaveTheHandler : Prop :=
  ∀ (s : State) (f : SPF) (h : Handler), IssuesSplit s → NotAhead s → s.cg.handler = some h → h.lanes &&& s.cset.lanes ≠ 0 →
    (h.seqTeam = none ∨ h.lanes &&& ~~~s.cset.lanes ≠ 0) →
    let left (t : State) : Prop :=
      t.cg.handler = (if h.lanes &&& ~~~s.cset.lanes = 0 then none else some { h with lanes := h.lanes &&& ~~~s.cset.lanes }) ∧
        t.cg.trap = s.cg.trap ∧ OnlyGroup s t ∧ KeepsRegs s.cg t.cg {} ∧ KeepsSpecial s.cg t.cg
    (∀ i pc, (i, pc) ∈ [(Instr.tret f, h.ret), (Instr.tretRp f, s.cg.trap.pc)] → NoJoinAt s.cg pc →
      ∃ t, exec i s = .next t ∧ SplitAt s t.cg pc ∧ left t) ∧
    let kind := (bits s.cg.trap.dst 8 4).toNat
    let dst := (bits s.cg.trap.dst 0 7).toNat
    let o := retOpnd kind f.sa.toNat
    (h.interrupted = false → o ≠ .none → o.outOfRange = false → o.misaligned = false → rangeBad s.cg o = false → JoinsRest s.cg h.ret →
      ∃ t, exec (.tretR f) s = .next t ∧ SplitAt s t.cg h.ret ∧ left t ∧
        (kind ≠ 10 → Sent s.cg t.cg false (retWrites s.cg s.cset.lanes dst o) [] ∧ t.cg.regs.lc = s.cg.regs.lc) ∧
        (kind = 10 → t.cg.regs.lc = vecPut s.cg.regs.lc dst (vecAt s.cg.regs.lc f.sa.toNat 0)))

/-! ## Class 12 (R411, R424-R443) -/

/-- R411, R425: SRD sends the value of its special register to its destination, the lane's own to each active lane for VLANE and for TRAPA,
TRAPB and TRAPC; in a fresh group the fold registers are the host's (R337).
A read of FPFLAGS waits for what is outstanding when it first comes, and delivers the flags gathered until then (R110, R162); so does a write.
SWR clears the bits of STATUS that are written 1, writes the five flags of FPFLAGS (R108), and writes a format register. -/
def Obligations.SpecialRegistersReadAndWrite : Prop :=
  ∀ (s : State) (f : SPF), IssuesSplit s →
    let g := s.cg
    let host := s.group (s.hostOf s.cur.g)
    let d := f.dst.toNat
    let n := f.sel.toNat
    let waits (i : Instr) : Prop := ∃ t, exec i s = .next t ∧ t.cset.waits = g.out.map (·.n) ∧ t.cset.fsnap.isSome = true ∧
      t.cset.pc = s.cset.pc ∧ RegFrame s t {}
    (∀ row ∈ ([(0x0003, 1, g.groupId.toNat), (0x0004, 1, s.ct.tid), (0x0005, 1, g.role + if g.consumer then 8 else 0),
        (0x0006, 1, (s.coreloc s.ct.core).toNat), (0x0010, 1, (host.fold 0).id.toNat), (0x0014, 1, (host.fold 0).rank.toNat),
        (0x0018, 1, (host.fold 0).size.toNat), (0x0020, 1, (vecAt g.regs.f 0 0).toNat), (0x0040, 2, g.trap.pc.toNat),
        (0x0041, 1, g.trap.cause.toNat), (0x0042, 2, g.trap.opc.toNat), (0x0046, 1, g.trap.dst.toNat), (0x0047, 2, g.trap.imm.toNat),
        (0x1000, 1, (bits (s.ctx s.ct.ctx).cfg 32 16).toNat), (0x1001, 1, s.ct.ctx), (0x1010, 2, s.pkg.timens), (0x1011, 2, s.pkg.cycles)]
        : List (Nat × Nat × Nat)), n = row.1 →
      ∃ t, exec (.srd f) s = .next t ∧ Sent g t.cg false (sWrites d row.2.1 row.2.2 (fullBits row.2.1)) [] ∧ RegFrame s t {}) ∧
    (n = 0 → g.homes = [] → ∃ t, exec (.srd f) s = .next t ∧
      Sent g t.cg false (sWrites d 1 ((g.regs.status &&& 0x1C#32) ||| if s.ct.user then 0 else 1).toNat (fullBits 1)) [] ∧ RegFrame s t {}) ∧
    (n = 1 → g.homes = [] → g.out = [] → s.cset.fsnap = none → ∃ t, exec (.srd f) s = .next t ∧
      Sent g t.cg false (sWrites d 1 g.regs.fpflags.toNat (fullBits 1)) [] ∧ RegFrame s t {}) ∧
    (∀ w, n = 1 → s.cset.fsnap = some w → ∃ t, exec (.srd f) s = .next t ∧
      Sent g t.cg false (sWrites d 1 w.toNat (fullBits 1)) [] ∧ RegFrame s t {}) ∧
    (n = 1 → g.out ≠ [] → s.cset.fsnap = none → waits (.srd f)) ∧
    (n = 2 → ∃ t, exec (.srd f) s = .next t ∧ Sent g t.cg false (vWrites d 1 (s.vlaneOf s.cur.g) (s.act f.msk) (fullBits 1)) [] ∧
      RegFrame s t {}) ∧
    (∀ row ∈ ([(0x43, g.trap.a), (0x44, g.trap.b), (0x45, g.trap.c)] : List (Nat × Vector QWord 32)), n = row.1 →
      ∃ t, exec (.srd f) s = .next t ∧
        Sent g t.cg false (vWrites d 4 (fun L => (vecAt row.2 L 0).toNat) (s.act f.msk) (fullBits 4)) [] ∧ RegFrame s t {}) ∧
    (NotAhead s →
      let v := g.sreg f.sa.toNat
      let kept (t : State) : Prop := OnlyGroup s t ∧ KeepsRegs g t.cg {} ∧ KeepsGroup g t.cg ∧ t.cg.regs.t = g.regs.t
      (n = 0 → ∃ t, exec (.swr f) s = .next t ∧ t.cg.regs.status = g.regs.status &&& ~~~(v &&& 0x1C#32) ∧
        t.cg.regs.fpflags = g.regs.fpflags ∧ t.cg.regs.f = g.regs.f ∧ kept t) ∧
      (n = 1 → g.out ≠ [] → s.cset.fsnap = none → waits (.swr f)) ∧
      (n = 1 → g.out = [] ∨ s.cset.fsnap ≠ none → ∃ t, exec (.swr f) s = .next t ∧ t.cg.regs.fpflags = v &&& 0x1F#32 ∧ t.cg.regs.status = g.regs.status ∧
        t.cg.regs.f = g.regs.f ∧ kept t) ∧
      (0x20 ≤ n → n < 0x28 → ∃ t, exec (.swr f) s = .next t ∧ t.cg.regs.f = vecPut g.regs.f (n - 0x20) v ∧
        t.cg.regs.status = g.regs.status ∧ t.cg.regs.fpflags = g.regs.fpflags ∧ kept t))

/-- R434, R440-R443: XPROBE sends the leaf entry that the walk found with the level, and the fault that the access would take; DIRRD half of
the directory entry of a line homed here; MONRD an exception counter or a sensor's value, all ones for an unassigned number, or what a replay has brought (R442); STEST the
state of the test it starts; ELOG a quarter of a log entry; RECCTL the recorder's status, after it recorded a marker or stopped.
The model's reading, not the rules' words: RECCTL's status is read after its operation (log 59); MONRD delivers the next replayed value, whatever its
number is (log 60). -/
def Obligations.ProbesAndMonitorsAnswer : Prop :=
  ∀ (s : State) (f : SPF), IssuesSplit s → NotAhead s →
    let g := s.cg
    let d := f.dst.toNat
    let va := (g.spair f.sa.toNat).toNat
    let v := g.sreg f.sa.toNat
    let pair (t : State) (x : Nat) : Prop := Sent g t.cg false (sWrites d 2 x (fullBits 2)) []
    let word (t : State) (x : Word) : Prop := Sent g t.cg false [.s d x ones32] []
    (∀ lv e l, s.walk s.ct.ctx va = (.ok l, lv, e) → s.leafCheck s.ct.ctx (bit f.sel 1) (if bit f.sel 0 then .store else .load) va l = none →
      ∃ t, exec (.xprobe f) s = .next t ∧ Sent g t.cg false (sWrites d 4 (e.toNat + lv % 8 * 2 ^ 64) (fullBits 4)) [] ∧ RegFrame s t {}) ∧
    (∀ lv e x, s.walk s.ct.ctx va = (.error x, lv, e) →
      ∃ t, exec (.xprobe f) s = .next t ∧
        Sent g t.cg false (sWrites d 4 (e.toNat + (lv % 8 + x.code * 2 ^ 8 + x.sub * 2 ^ 16) * 2 ^ 64) (fullBits 4)) [] ∧ RegFrame s t {}) ∧
    (∀ x, s.mem.dir.find? (fun x => x.line == va / 128) = some x → s.homedHere (va / 128) = true →
      ∃ t, exec (.dirrd f) s = .next t ∧ pair t (x.image.toNat / 2 ^ (if bit f.sel 0 then 64 else 0)) ∧ RegFrame s t {}) ∧
    (∀ k, k < 5 → v.toNat = 0x300 + k → s.pkg.monReplay = [] → ∃ t, exec (.monrd f) s = .next t ∧ pair t (vecAt (s.ctx s.ct.ctx).exc k 0).toNat ∧
      (s.pkg.recording = false → RegFrame s t {})) ∧
    (∀ x, v.toNat < 0x260 → s.pkg.sensors = [(v.toNat, x)] → s.pkg.monReplay = [] → ∃ t, exec (.monrd f) s = .next t ∧ pair t (x.toNat % 2 ^ 16)) ∧
    (0x305 ≤ v.toNat → s.pkg.monReplay = [] → ∃ t, exec (.monrd f) s = .next t ∧ pair t (2 ^ 64 - 1)) ∧
    (∀ x xs, s.pkg.monReplay = x :: xs → ∃ t, exec (.monrd f) s = .next t ∧ pair t x.toNat ∧ t.pkg.monReplay = xs) ∧
    (let id := g.spair f.sa.toNat
     let busy := s.pkg.tests.any fun d => d.id == id
     ∃ t, exec (.stest f) s = .next t ∧ word t (if (Config.unitOf id).isSome then (if busy then 1 else 0) else 2) ∧
       t.pkg.tests = match Config.unitOf id with
         | some u => if busy then s.pkg.tests else s.pkg.tests ++ [{ id, cls := u.1, place := u.2, line := none }]
         | none => s.pkg.tests) ∧
    (∃ t, exec (.elog f) s = .next t ∧
      pair t ((lookupD s.pkg.elog (bits v 2 8).toNat 0).toNat / 2 ^ (64 * (bits v 0 2).toNat)) ∧ RegFrame s t {}) ∧
    (∃ t, exec (.recctlStatus f) s = .next t ∧ word t s.pkg.recStatus ∧ RegFrame s t {}) ∧
    (let s1 := s.record 8 s.ct.core (leBytes 4 v.toNat)
     ∃ t, exec (.recctlMarker f) s = .next t ∧ word t s1.pkg.recStatus ∧ t.pkg = s1.pkg ∧ KeepsRegs g t.cg {}) ∧
    (∃ t, exec (.recctlStop f) s = .next t ∧ t.pkg = { s.pkg with recording := false } ∧ word t t.pkg.recStatus ∧
      RegFrame { s with pkg := t.pkg } t {})

/-- R420, R424: SCALL at U parks its active lanes at its address as a FAULT set, with a SYSCALL record that shows its number and s0 to s15. -/
def Obligations.SystemCallsParkTheirLanes : Prop :=
  ∀ (s : State) (f : SPF), IssuesSplit s → NotAhead s → Original s → s.ct.user = true → s.act f.msk ≠ 0 →
    ∃ t r, exec (.scall f) s = .next t ∧ t.faults = s.faults ++ [r] ∧
      r.code = 0x06 ∧ r.scope = .lanes ∧ r.group = s.cur.g ∧ r.team = s.cg.team ∧ r.lanes = s.act f.msk ∧ r.pc = s.cur.pc ∧
      r.info = f.sel.setWidth 64 ∧ r.extra = (List.range 16).flatMap (fun i => leBytes 4 (s.cg.sreg i).toNat) ∧
      (∀ L, L < 32 → bit (s.act f.msk) L = true → ∃ l ∈ t.cg.laneSets, bit l.lanes L = true ∧ l.st = .fault ∧ l.pc = s.cur.pc) ∧
      KeepsRegs s.cg t.cg {} ∧ KeepsSpecial s.cg t.cg ∧ t.mem.cells = s.mem.cells ∧ t.teams = s.teams

/-- R426, R427: FWAIT sends the index of the oldest unclaimed record, which is then claimed, and all ones, or stalls, where there is none.
With a claimed record: FRSM makes its FAULT set READY, at the next instruction under skip, FKILL ends its lanes, TDISP ends the teams of its
task, each closing the record; TSTOP and TGO set and clear the stop of its team, whose quantum stands still meanwhile, and leave it open; FVOTS contributes for its group. -/
def Obligations.RecordFormsAct : Prop :=
  ∀ (s : State) (f : SPF), IssuesSplit s → NotAhead s →
    let c := s.ct.ctx
    let sent (t : State) (v : Word) : Prop := Sent s.cg t.cg false [.s f.dst.toNat v ones32] []
    (∀ o, (s.ctx c).opened.find? (fun r => !r.claimed && !r.closed) = some o →
      ∃ t, exec (.fwait f) s = .next t ∧ sent t (BitVec.ofNat 32 o.idx) ∧
        (t.ctx c).opened = (s.ctx c).opened.map (fun r => if r.idx = o.idx then { r with claimed := true } else r) ∧
        RegFrame { s with pkg := t.pkg } t {}) ∧
    ((∀ r ∈ (s.ctx c).opened, r.claimed = true ∨ r.closed = true) →
      (bit f.fn 0 = true → ∃ t, exec (.fwait f) s = .next t ∧ sent t ones32 ∧ RegFrame s t {}) ∧
      (bit f.fn 0 = false → exec (.fwait f) s = .next s.stall)) ∧
    ∀ o, s.claimed c (s.cg.sreg f.sa.toNat) = some o →
      let r := o.fr
      let closes (t : State) : Prop := ∀ q ∈ (t.ctx c).opened, q.idx = o.idx → q.closed = true
      (∀ i y, (i, y) ∈ [(Instr.tstop f, (s.team r.team).stop s.pkg.timens), (Instr.tgo f, (s.team r.team).go s.pkg.timens)] →
        r.scope ≠ .cmd → r.scope ≠ .grid → r.team < s.teams.length →
        ∃ t, exec i s = .next t ∧ t.team r.team = y ∧ y.tstop = (match i with | .tstop _ => true | _ => false) ∧
          RegFrame (s.setTeam r.team y) t {}) ∧
      (r.scope = .lanes → r.group ≠ s.cur.g → (s.team (s.group r.group).team).st ≠ .saved →
        let x := s.group r.group
        let d : DWord := if bit f.fn 0 then s.instSize r.group r.pc else 0
        (∃ t, exec (.frsm f) s = .next t ∧ closes t ∧ KeepsRegs x (t.group r.group) {} ∧
          ∀ l ∈ x.sets.toList ++ x.stack, l.st = .fault → l.lanes &&& r.lanes ≠ 0 → NoJoinAt x (l.pc + d) →
            ∀ L, L < 32 → bit l.lanes L = true → StandsAt (t.group r.group) L (l.pc + d)) ∧
        (x.homes = [] → ∃ t, exec (.fkill f) s = .next t ∧ closes t ∧ (t.group r.group).live = x.live &&& ~~~r.lanes)) ∧
      (∃ t, exec (.tdisp f) s = .next t ∧ closes t ∧ ∀ u ∈ s.gridTeams (s.recGrid r), (t.team u).st = .ended) ∧
      (let k := (bits f.sel 4 2).toNat
       let x := s.group r.group
       r.scope = .lanes ∨ r.scope = .group → r.group < s.groups.length → r.group ≠ s.cur.g → (s.team x.team).st ≠ .saved →
       (x.fold k).valid = true → (x.fold k).pre = false → (x.fold k).pend = false →
       ∃ t, exec (.fvots f) s = .next t ∧ ((t.group r.group).fold k).pre = true ∧
         t.msgs = s.msgs ++ [.contribution (x.fold k).fid (x.fold k).vnum (x.fold k).key (bit f.sel 0)
           (match (bits f.sel 1 2).toNat with | 0 => .all | 1 => .any | _ => .maj)] ∧ t.ctx c = s.ctx c)

/-- R433: TLBINV stalls with its request, one for all splits that have merged there (R145, log 44); once no held store of the groups it covers is left, the translations and the captured words of
its scope, context and range are gone, no others, and the split goes on. -/
def Obligations.TlbInvalidationCompletes : Prop :=
  (∀ (s : State) (f : SPF), IssuesSplit s → NotAhead s → (∀ r ∈ s.cg.invs, r.pc ≠ s.cur.pc) →
    let n := 4096 * 2 ^ (bits f.sel 0 5).toNat
    let va := (s.cg.spair f.sa.toNat).toNat
    ∃ t, exec (.tlbinv f) s = .next t ∧
      t.cg.invs = s.cg.invs ++ [{ entry := s.cur.e, pc := s.cur.pc, size := s.cur.size, y := f.y, kind := (bits f.sel 8 2).toNat,
                                  scope := (bits f.sel 5 3).toNat, base := va - va % n, bytes := n }] ∧
      t.cset = { s.cset with stalled := true, served := 1 } ∧ t.cg.regs = s.cg.regs ∧ t.mem = s.mem) ∧
  (∀ (s : State) (f : SPF), IssuesSplit s → NotAhead s → (∃ r ∈ s.cg.invs, r.pc = s.cur.pc) →
    ∃ t, exec (.tlbinv f) s = .next t ∧
      t.cg.invs = s.cg.invs.map (fun r => if r.pc = s.cur.pc then { r with entry := s.cur.e } else r) ∧
      t.cset = { s.cset with stalled := true, served := 1 } ∧ t.cg.regs = s.cg.regs ∧ t.mem = s.mem) ∧
  ∀ (s : State) (g e : Nat) (r : InvReq),
    let x := s.group g
    let u := s.team x.team
    let at_ : CbrAt := { entry := e, pc := r.pc, size := r.size, target := 0, y := r.y }
    g < s.groups.length → e < 4 → x.invs.find? (fun r => r.entry == e) = some r → r.entry = e → s.standsAt g at_ = true →
    (∀ y ∈ s.groups, y.held' = []) →
    let in_ (c : Nat) : Bool := inInstance r.scope u.core c
    let ours (c : Nat) : Bool := r.kind == 2 || c == u.ctx
    let near (base size : Nat) : Bool := r.kind != 0 || (r.base < base + size && base < r.base + r.bytes)
    ∃ t, exec (.tlbinvComplete g e) s = .next t ∧
      t.mem.tlb = s.mem.tlb.filter (fun k => !(in_ k.core && ours k.ctx && near k.base k.size)) ∧
      (∀ w ∈ t.mem.lbuf, (in_ (w.1 / 4) && ours w.2.1 && near w.2.2.1 8) = false) ∧ t.mem.cells = s.mem.cells ∧
      (∀ h, h ≠ g → t.group h = s.group h) ∧ (t.group g).invs = x.invs.filter (fun q => q ≠ r) ∧ KeepsRegs x (t.group g) {}

/-! ## Class 11, tasks and the scheduler (R389-R406) -/

/-- R399: PRIOGET, PREQ and GRDGET send the team's priority, its request and the grid's size; PRIOSET sets the priority, no higher than the
one the team began with; QYIELD ends the quantum where a unit of at least its priority waits. -/
def Obligations.TeamsReadAndSetTheirPriority : Prop :=
  ∀ (s : State) (f : SPF), IssuesSplit s →
    let word (t : State) (x : Word) : Prop := Sent s.cg t.cg false [.s f.dst.toNat x ones32] [] ∧ RegFrame s t {}
    let k := s.grid s.ct.grid
    (s.ct.prio < 16 → ∃ t, exec (.prioget f) s = .next t ∧ word t (BitVec.ofNat 32 (s.ct.prio + if s.ct.at16 then 16 else 0))) ∧
    (∃ t, exec (.preq f) s = .next t ∧ word t (if s.ct.preq then 1 else 0)) ∧
    (∃ t, exec (.grdget f) s = .next t ∧
      word t (BitVec.ofNat 32 (match f.sel.toNat with | 0 => k.gx | 1 => k.gy | 2 => k.gz | _ => k.count))) ∧
    (Original s → NotAhead s →
      (let x := { s.ct with prio := min (min (s.cg.sreg f.sa.toNat).toNat 15) s.ct.prio0 }
       ∃ t, exec (.prioset f) s = .next t ∧ RegFrame (s.setTeam s.cg.team x) t {}) ∧
      ((∃ u ∈ s.teams, u.waitsPlace = true ∧ s.ct.prio ≤ u.waitPrio) →
        ∃ t, exec (.qyield f) s = .next t ∧ RegFrame (s.setTeam s.cg.team { s.ct with qexp := true }) t {}) ∧
      ((∀ u ∈ s.teams, u.waitsPlace = true → u.waitPrio < s.ct.prio) → ∃ t, exec (.qyield f) s = .next t ∧ RegFrame s t {}))

/-- R389, R390, R395: where a lane's TCB can be reached, LAUNCH of an IDLE task sends 0 and makes it WAIT while it has predecessors; with none
it is released; LAUNCH of one that is not IDLE changes nothing there and sends 1; DEPDEC of a task whose PRED is above 0 lowers it and sends
what is left, and releases the waiting task whose PRED it takes from 1 to 0; one whose PRED is 0 sends all ones.
The issuing cluster's untracked copy of the TCB's line is written back and dropped first (R222, R254).  A lane beyond the bounds of an ABS
pointer sends 2.  Several active lanes act in ascending order, each on what those before it left. -/
def Obligations.LaunchAndDependWorkOnTheSyncWord : Prop :=
  (∀ (s : State) (f : ENF) (p : Ptr) (L : Nat), MemCanonical s → IssuesSplit s → NotAhead s → Original s → L < 32 → s.act f.msk = 1#32 <<< L →
    let q := s.cg.preg f.sa.toNat
    let k := n32 (BitVec.ofNat 32 (s.cg.vlane f.sb.toNat 1 L))
    s.tcbPtr s.cur.g q = none → ptrOf q = some p →
    let sent (t : State) (v : Nat) : Prop := Sent s.cg t.cg false (vWrites f.dst.toNat 1 (fun i => if i = L then v else 0) (1#32 <<< L) (fullBits 1)) [] ∧
      KeepsRegs s.cg t.cg {}
    (∀ va pa l, s.tcbLane p L k = .at va pa → s.waits (.mem pa) = false → s.lookup s.ct.core s.ct.ctx s.ct.user .store va = .ok l →
      bit l.leaf 10 = true → bit l.leaf 11 = true →
      let m := s.mem.forHome (clusterOf s.ct.core) (pa / 128)
      let w := ({ s with mem := m } : State).syncAt pa
      (tcbState w = 0 → tcbPred w ≠ 0 → ∃ t, exec (.launch f) s = .next t ∧ sent t 0 ∧ t.syncAt pa = setTcbState w 1 ∧
        t.grids = s.grids ++ [{ Grid.dead with tcb := BitVec.ofNat 64 va, ctx := s.ct.ctx, cap := s.ct.prio, phase := .wait }]) ∧
      (tcbState w = 0 → tcbPred w = 0 → ∃ t g, exec (.launch f) s = .next t ∧ sent t 0 ∧ t.grids = s.grids ++ [g] ∧
        g.tcb = BitVec.ofNat 64 va ∧ g.ctx = s.ct.ctx ∧ g.user = true ∧ Released s t s.grids.length g s.ct.prio) ∧
      (tcbState w ≠ 0 → ∃ t, exec (.launch f) s = .next t ∧ sent t 1 ∧ t.mem.cells = m.cells ∧ t.grids = s.grids) ∧
      (2 ≤ tcbPred w → ∃ t, exec (.depdec f) s = .next t ∧ sent t (tcbPred w - 1) ∧ t.grids = s.grids ∧
        tcbPred (t.syncAt pa) = tcbPred w - 1 ∧ bits (t.syncAt pa) 32 32 = (bits w 32 32 : BitVec 32)) ∧
      (tcbPred w = 1 → tcbState w ≠ 1 → ∃ t, exec (.depdec f) s = .next t ∧ sent t 0 ∧ t.grids = s.grids ∧
        tcbPred (t.syncAt pa) = 0 ∧ bits (t.syncAt pa) 32 32 = (bits w 32 32 : BitVec 32)) ∧
      (∀ k, tcbPred w = 1 → tcbState w = 1 →
        (List.range s.grids.length).find? (fun k => (s.grid k).phase == .wait && (s.grid k).ctx == s.ct.ctx &&
          (s.grid k).tcb == BitVec.ofNat 64 va) = some k → (s.grid k).user = true →
        ∃ t g, exec (.depdec f) s = .next t ∧ sent t 0 ∧ t.grids = s.grids.set k g ∧ g.tcb = BitVec.ofNat 64 va ∧ g.ctx = s.ct.ctx ∧
          g.user = true ∧ Released s t k g (s.grid k).cap) ∧
      (tcbPred w = 0 → ∃ t, exec (.depdec f) s = .next t ∧ sent t 0xFFFFFFFF ∧ t.syncAt pa = w ∧ t.grids = s.grids)) ∧
    (s.tcbLane p L k = .out → ∀ i ∈ [Instr.launch f, Instr.depdec f], ∃ t, exec i s = .next t ∧ sent t 2 ∧ t.mem.cells = s.mem.cells ∧
      t.grids = s.grids)) ∧
  ∀ (s : State) (f : ENF) (p : Ptr) (launch : Bool), IssuesSplit s → NotAhead s → Original s →
    let q := s.cg.preg f.sa.toNat
    let act := s.act f.msk
    let lanes := (lanesOf act).map fun L => (L, s.tcbLane p L (n32 (BitVec.ofNat 32 (s.cg.vlane f.sb.toNat 1 L))))
    let upTo (n : Nat) : State := (s.tcbActs launch (lanes.filter fun l => l.1 < n)).1
    s.tcbPtr s.cur.g q = none → ptrOf q = some p → (∀ g ∈ s.grids, g.phase = .wait → g.user = true) →
    (∀ l ∈ lanes, match l.2 with
      | .fault _ => False
      | .at _ pa => s.waits (.mem pa) = false
      | .out => True) →
    ∃ t val, exec (if launch then .launch f else .depdec f) s = .next t ∧ Sent s.cg t.cg false (vWrites f.dst.toNat 1 val act (fullBits 1)) [] ∧
      KeepsRegs s.cg t.cg {} ∧ t.mem.cells = (upTo 32).mem.cells ∧ t.grids = (upTo 32).grids ∧ t.teams = (upTo 32).teams ∧
      ∀ l ∈ lanes, match l.2 with
        | .at va pa => val l.1 = ((upTo l.1).tcbAct launch va pa).2
        | _ => val l.1 = 2

/-- R397, R398: the threads of SPAWN, in lane order, enter the open bin of its key while it has room, and else an empty bin; a bin that a
thread fills is launched, and those that are left open another; with no bin free the one opened earliest is launched, and SPAWN stalls with the
threads that have not entered.  SFLUSH leaves no bin of its key that is not launched; a bin's timer, and a launched bin that finds a spawn
record free, make a team of its threads, which waits to be placed; while no record is free the bin waits launched. -/
def Obligations.SpawnBinsFillAndLaunch : Prop :=
  (∀ (s : State) (f : ENF), IssuesSplit s → NotAhead s → Original s → (s.grid s.ct.grid).nspawn ≠ 0 →
    let k := s.ct.grid
    let key := s.cg.spair f.sa.toNat
    let ls := lanesOf (s.act f.msk &&& ~~~s.cset.served)
    let vs := ls.map fun L => BitVec.ofNat 64 (s.cg.vlane f.sb.toNat 2 L)
    let free := (List.range 64).find? fun b => (s.bin b).isNone
    let opened (y : Bin) (ws : List DWord) : Prop := y.grid = k ∧ y.khdr = key ∧ y.threads = ws ∧ y.launched = false
    (∀ b x, s.openBin k key = some b → s.bin b = some x → x.threads.length + vs.length < 32 →
      ∃ t, exec (.spawn f) s = .next t ∧ t.bin b = some { x with threads := x.threads ++ vs } ∧ RegFrame { s with pkg := t.pkg } t {}) ∧
    (∀ b, s.openBin k key = none → free = some b → s.pkg.bins.length = 64 → 0 < vs.length → vs.length < 32 →
      ∃ t x, exec (.spawn f) s = .next t ∧ t.bin b = some x ∧ opened x vs ∧ RegFrame { s with pkg := t.pkg } t {}) ∧
    (∀ b x, s.openBin k key = some b → s.bin b = some x → 32 ≤ x.threads.length + vs.length → s.pkg.bins.length = 64 →
      (∀ c y, c ≠ b → s.bin c = some y → y.grid = k → y.khdr = key → y.launched = false → 32 ≤ y.threads.length) → (s.grid k).held = false →
      let n := 32 - x.threads.length
      let full := { x with threads := x.threads ++ vs.take n, launched := true }
      (∀ c, s.freeRecord k = none → (vs.drop n ≠ [] → free = some c) →
        ∃ t, exec (.spawn f) s = .next t ∧ t.bin b = some full ∧ (vs.drop n ≠ [] → ∃ y, t.bin c = some y ∧ opened y (vs.drop n)) ∧
          RegFrame { s with pkg := t.pkg } t {}) ∧
      ∀ r h, s.freeRecord k = some r → s.readHeader (s.grid k).ctx key = .ok (some h) → h.groups = 1 → h.matrix = false →
        ∃ t u, exec (.spawn f) s = .next t ∧ t.teams = s.teams ++ [u] ∧ u.grid = k ∧ u.threads = full.threads ∧ u.spawnRec = some r ∧
          u.st = .queued ∧ u.hdr = h ∧ (vs.drop n = [] → t.bin b = none) ∧
          (vs.drop n ≠ [] → ∃ c y, t.bin c = some y ∧ opened y (vs.drop n)) ∧
          RegFrame { s with pkg := t.pkg, teams := t.teams, mem := t.mem, hb := t.hb } t {} ∧
          t.mem.cells = (s.touchHeader (s.grid k).ctx key (some h)).mem.cells) ∧
    ∀ b y, s.openBin k key = none → free = none → s.oldestBin = some b → s.bin b = some y → vs ≠ [] →
      (s.grid y.grid).held = true ∨ s.freeRecord y.grid = none →
      exec (.spawn f) s = .next ((s.setBin b (some { y with launched := true })).stallWith s.cset.served)) ∧
  (∀ (s : State) (f : ENF), IssuesSplit s → NotAhead s → Original s → ∃ t, exec (.sflush f) s = .next t ∧
    ∀ b x, b < 64 → t.bin b = some x → x.grid = s.ct.grid → x.khdr = s.cg.spair f.sa.toNat → x.launched = true) ∧
  ∀ (s : State) (b : Nat) (x : Bin), b < 64 → s.bin b = some x → (s.grid x.grid).held = false →
    let i := if x.launched then Instr.spawnBinLaunch b else .spawnBinTimer b
    let g := s.grid x.grid
    (s.freeRecord x.grid = none → exec i s = .next (s.setBin b (some { x with launched := true }))) ∧
    ∀ r h, s.freeRecord x.grid = some r → s.readHeader g.ctx x.khdr = .ok (some h) → h.groups = 1 → h.matrix = false →
      ∃ t u, exec i s = .next t ∧ t.bin b = none ∧ t.teams = s.teams ++ [u] ∧ u.grid = x.grid ∧ u.tid = g.count + r ∧ u.threads = x.threads ∧
        u.spawnRec = some r ∧ u.st = .queued ∧ u.hdr = h ∧ u.user = true ∧ u.prio = g.prio ∧ t.groups = s.groups ∧
        t.mem = (s.touchHeader g.ctx x.khdr (some h)).mem

/-- R393, R400, R403: the first waiting unit of one new team that fits is placed: the team is resident on its core, and each of its groups
starts at ENTRY with the parameter words in its uniform registers.
A quantum runs in a resident team that is neither asked to leave nor under TSTOP (R427).  One that expires, alone in its unit, makes the scheduler ask the teams whose pre-emption lets a unit in, and restarts where none waits; a unit that has
waited too long is raised. -/
def Obligations.SchedulerPlacesAndAsks : Prop :=
  (∀ (s : State) (w : Nat) (rest : List Nat) (p : Placed) (c0 : Nat) (c1 : Option Nat) (ws : List Nat),
    s.byWait s.waitingUnits = w :: rest → s.fitUnit s.loads w = some ([p], c0, c1) → p.team = w → s.unitTeams w = [w] →
    (s.team w).st = .queued → s.paramWords w = .ok ws → w < s.teams.length →
    ∃ t gs, exec .schedulerPlace s = .next t ∧ (t.team w).st = .resident ∧ (t.team w).core = p.core ∧
      (t.team w).scratch = [] ∧ (t.team w).seq = (s.team w).hdr.seqStart ∧ t.groups = s.groups ++ gs ∧ gs.length = p.slots.length ∧
      ∀ x ∈ gs, x.team = w ∧ (x.gidx, x.slot) ∈ p.slots ∧ x.live = (s.team w).lanes ∧
        x.set 0 = { lanes := (s.team w).lanes, st := .ready, pc := (s.team w).hdr.entry } ∧
        ∀ r, r < 64 → vecAt x.regs.s r 0 = BitVec.ofNat 32 (ws.getD r 0)) ∧
  (∀ (s : State) (u : Nat), (s.team u).timed = false → exec (.quantumExpire u) s = .next s) ∧
  (∀ (s : State) (u : Nat), u < s.teams.length → (s.team u).timed = true → u ∈ s.unitTeams u →
    (∀ v ∈ s.unitTeams u, v = u ∨ s.quantumOver v = false) →
    let s1 := s.setTeam u { s.team u with qexp := true }
    (s1.byWait s1.waitingUnits = [] →
      exec (.quantumExpire u) s = .next (s.setTeam u { s.team u with qexp := false, qstart := s.pkg.timens })) ∧
    ∀ w rest ts, s1.byWait s1.waitingUnits = w :: rest → s1.fitUnit s1.loads w = none → s1.toRequest w = some ts →
      ∃ t, exec (.quantumExpire u) s = .next t ∧ ∀ v ∈ ts, v < s.teams.length → (t.team v).preq = true) ∧
  ∀ (s : State) (u : Nat), ∃ t, exec (.effectivePriorityRaise u) s = .next t ∧
    (∀ v ∈ s.unitTeams u, (s.team v).waitsPlace = true → (t.team v).raised = true) ∧
    (∀ v, v ∉ s.unitTeams u → t.team v = s.team v) ∧ { t with teams := s.teams } = s

/-- R405, R406: a team whose save routines are over, and of which no command is in flight (R284), is saved and off its core once its team image is
written (its layout is the hardware's own, log 52); a group whose routine has returned starts its next one; a restore refuses a team image of
another VERSION (R407); a team whose restore routines are over is resident again, at the level it had before, with the registers of its
images; the numbers of the vector registers' last writes stay with the team (log 9).
R391: a task of which everything has ended writes DONE and retires; a retiring one decrements the PRED of its next successor, and one
with no successor left is over. -/
def Obligations.TeamsAreSavedAndTasksRetire : Prop :=
  ((∀ (s : State) (u : Nat), u < s.teams.length → (s.team u).held = false → (s.team u).tstop = false → (s.team u).st = .saving →
    (∀ g ∈ s.liveGroups u, (s.group g).inRoutine = false) → s.copying u = false →
    let ws := s.teamWords u
    let base := s.teamRecord u
    ∀ s1, s.writePages (s.team u).ctx [(base, 4096, teamImage ws % 2 ^ 32768), (base + 4096, 4096, teamImage ws / 2 ^ 32768)] = .ok s1 →
    ∃ t, exec (.preemptSave u) s = .next t ∧
      t.team u = { s.team u with
        st := .saved, record := ws, xq := [], preq := false, qexp := false, at16 := false, ready := s.pkg.timens } ∧
      (∀ g ∈ s.liveGroups u, t.group g = { s.group g with ext := false, xwait := false }) ∧ t.mem = s1.mem) ∧
  (∀ (s : State) (u g : Nat) (a : DWord) (rest : List DWord), (s.team u).held = false → (s.team u).tstop = false → (s.team u).st = .saving →
    s.liveGroups u = [g] → (s.group g).routineDone = true → (s.group g).routines = a :: rest →
    ∃ t, exec (.preemptSave u) s = .next t ∧ (t.group g).routines = rest ∧ (t.group g).inRoutine = true ∧
      (t.group g).set 0 = { lanes := (s.group g).live, st := .ready, pc := a } ∧ t.team u = s.team u ∧
      vecAt (t.group g).regs.s 62 0 = bits routineRet 0 32 ∧ vecAt (t.group g).regs.s 63 0 = bits routineRet 32 32) ∧
  (∀ (s : State) (u v q : Nat) (gs : List (Nat × Nat)), s.unitTeams u = [u] → (s.team u).held = false → (s.team u).st = .restoring →
    (s.team u).imaged = false → (s.team u).hdr.matrix = false → s.readImages u = .ok (v, q, gs) → v % 2 ^ 32 ≠ 1 →
    exec (.teamRestore u) s = .next (s.ctxBad u)) ∧
  ∀ (s : State) (u g v q img : Nat), u < s.teams.length → s.unitTeams u = [u] → (s.team u).held = false → (s.team u).st = .restoring → (s.team u).imaged = true →
    s.liveGroups u = [g] → (s.group g).inRoutine = false → s.readImages u = .ok (v, q, [(g, img)]) → (s.group g).imageOk img = true →
    ∃ t, exec (.teamRestore u) s = .next t ∧ (t.team u).st = .resident ∧ t.mem = s.mem ∧
      (t.team u).user = ((s.team u).user && !(s.team u).wasS) ∧
      (let y := (s.group g).ofImage img
       t.group g = { y with regs := { y.regs with vNo := lookupD (s.team u).order.lastNos (s.group g).gidx y.regs.vNo } })) ∧
  (∀ (s : State) (k : Nat), MemCanonical s → k < s.grids.length →
    let g := s.grid k
    (s.mayRetire k = true → (∀ l ∈ s.mem.lines, g.clusters.contains l.clus = true → l.st ≠ .ud) →
      ∀ pa, s.syncPa g.ctx g.tcb = .ok pa → (∀ ln ∈ linesOf pa 8, s.mem.ownedFar ln = false) → ∃ t, exec (.taskRetire k) s = .next t ∧
        t.grid k = { g with phase := .retiring } ∧ t.syncAt pa = setTcbState (s.syncAt pa) 4 ∧ t.teams = s.teams) ∧
    (g.phase = .retiring → g.held = false →
      (g.succs = [] → g.novf = 0 → g.ev = false → s.isService k = false →
        exec (.taskRetire k) s = .next (s.setGrid k { g with phase := .over })) ∧
      (∀ a rest pa, g.succs = a :: rest → s.syncPa g.ctx a = .ok pa → (∀ ln ∈ linesOf pa 8, s.mem.ownedFar ln = false) →
        let w := (s.touchS fedCore g.ctx .store a.toNat 8).syncAt pa
        tcbPred w ≠ 1 →
        ∃ t, exec (.taskRetire k) s = .next t ∧ t.grid k = { g with succs := rest } ∧ t.syncAt pa = (decSync w).1)))

/-! ## Class 4: pointers, loads and stores (R200-R217) -/

/-- R201, R202, R203: PMAKE sends a pointer of its fields, valid where they fit and make a pointer; PADD moves the base and shortens the
length of a valid one, and clears V where the count or the base cannot be; PMOV and PGET send the image and one of its words.
R212: PCHK sends one bit for each active lane, whether all its elements are in bounds; PREF changes no register and no scratchpad. -/
def Obligations.PointersAreBuiltAndChecked : Prop :=
  (∀ (s : State) (f : VF), IssuesSplit s →
    let g := s.cg
    let base := g.spair f.sa.toNat
    let len := g.spair f.sb.toNat
    let attr := g.attrWord f
    let q := g.preg f.sa.toNat
    let sent (t : State) (x : QWord) : Prop := Sent g t.cg f.t [.p f.dst.toNat x] [] ∧ RegFrame s t {}
    (∃ t x, exec (.pmake f) s = .next t ∧ sent t x ∧ bits x 0 57 = (bits base 0 57 : BitVec 57) ∧ bits x 57 5 = f.ty.code ∧
      bit x 62 = false ∧ bits x 64 37 = (bits len 0 37 : BitVec 37) ∧ bits x 101 10 = (bits attr 0 10 : BitVec 10) ∧
      bits x 111 17 = (if bit attr 27 then BitVec.ofNat 17 (s.core17 s.cur.g) else bits attr 10 17) ∧
      (ptrV x = true ↔ bits base 57 7 = (0 : BitVec 7) ∧ bits len 37 27 = (0 : BitVec 27) ∧ bits attr 28 4 = (0 : BitVec 4) ∧
        (bit attr 27 = true → bits attr 10 17 = (0 : BitVec 17)) ∧ (ptrOf x).isSome = true)) ∧
    (∀ p n, ptrV q = true → ptrOf q = some p → g.paddCount f = some (Int.ofNat n) →
      ptrNfBad g.nf p.ty = false → (contW g.nf p.ty = 4 → n % 2 = 0) → p.base + byteStep g.nf p.ty n < 2 ^ spaceWidth p.sp →
      ∃ t, exec (.padd f) s = .next t ∧ sent t (setPtrRange q (p.base + byteStep g.nf p.ty n) (p.len - n))) ∧
    ((ptrV q = false ∨ ptrOf q = none ∨ g.paddCount f = none ∨ ∃ n, g.paddCount f = some (Int.negSucc n)) →
      ∃ t, exec (.padd f) s = .next t ∧ sent t (setPtrV q false)) ∧
    (∃ t, exec (.pmov f) s = .next t ∧ sent t q) ∧
    (∃ t, exec (.pget f) s = .next t ∧ Sent g t.cg f.t [.s f.dst.toNat (bits q (32 * (f.sc.toNat % 4)) 32) ones32] [] ∧ RegFrame s t {})) ∧
  ∀ (s : State) (f : MAF), IssuesSplit s →
    (∀ p, PtrOk s (s.cg.preg f.ptr.toNat) (pairOk s.cg.nf .rne f.ty) false p →
      ∃ t v, exec (.pchk f) s = .next t ∧ Sent s.cg t.cg false [.m f.data.toNat v (s.act f.msk)] [] ∧ RegFrame s t {} ∧
        ∀ L, L < 32 → bit v L = (bit (s.act f.msk) L && match s.cg.maFirst f L with
          | none => false
          | some e => (maSubs s.cg.nf f).all fun j => s.inBounds s.cur.g p (e + j.2))) ∧
    ∃ t, exec (.pref f) s = .next t ∧ KeepsRegs s.cg t.cg {} ∧ KeepsSpecial s.cg t.cg ∧ t.teams = s.teams ∧ t.pkg = s.pkg

/-- R209, R211, R204: a load that faults in no lane and need not wait sends, for each lane it reaches, the elements it read in their places,
with the flags of their conversions; nothing else of the group changes but SCOPEMISS, and no scratchpad does.
R214, R221: an element is the bytes at its place, as the scratchpad or the cluster's slice holds them, below the group's held stores; a
scratchpad read changes nothing. -/
def Obligations.LoadsDeliverTheirElements : Prop :=
  (∀ (s : State) (f : MAF) (p : Ptr), IssuesSplit s → PtrOk s (s.cg.preg f.ptr.toNat) (pairOk s.cg.nf .rne f.ty) false p →
    let g := s.cur.g
    let nf := s.cg.nf
    let kept (t : State) : Prop := KeepsRegs s.cg t.cg {} ∧ t.teams = s.teams ∧ (∀ h, h ≠ g → t.group h = s.group h) ∧
      t.cg.regs.f = s.cg.regs.f ∧ t.cg.regs.fpflags = s.cg.regs.fpflags ∧
      (t.cg.regs.status = s.cg.regs.status ∨ t.cg.regs.status = s.cg.regs.status ||| 8)
    (let r := s.classify g p f false [] (lanesOf (s.act f.msk))
     let q := s.readLanes g p f.ty r.1
     AccessClear s r → s.loadHeld p r.1.elems = false →
     ∃ t, exec (.ld f) s = .next t ∧ kept t ∧
       Sent s.cg t.cg false (vWrites f.data.toNat f.ty.regs (loadValue nf f.ty q.2) (lanesMask (r.1.map (·.1))) (loadBits nf f))
         (q.2.flatMap fun l => l.2.map (·.2.2))) ∧
    (let r := s.classify g p f false [] [0]
     let q := s.readLanes g p f.ty r.1
     let fl := q.2.flatMap fun l => l.2.map (·.2.2)
     AccessClear s r → s.loadHeld p r.1.elems = false →
     (∃ t, exec (.ldu f) s = .next t ∧ kept t ∧
       Sent s.cg t.cg false (sWrites f.data.toNat f.ty.regs (loadValue nf f.ty q.2 0) (loadBits nf f)) fl) ∧
     ∃ t, exec (.pld f) s = .next t ∧ kept t ∧
       Sent s.cg t.cg false [.p f.data.toNat (BitVec.ofNat 128 (loadValue nf f.ty q.2 0))] fl)) ∧
  ∀ (s : State) (p : Ptr) (e : Elem), Issues s → MemCanonical s → Steady s p e →
    (s.readElem s.cur.g p e).2 = codeAt s p e ∧ (∀ u o, e.place = .pad u o → e.leaf = none → { (s.readElem s.cur.g p e).1 with hb := s.hb } = s)

/-- R210, R211, R204: a store that faults in no lane, need not wait and is refused nothing completes: registers stay, and what it
writes is its elements' writes, lowest lane first, each lane's elements in ascending order; the flags of its conversions are raised. -/
def Obligations.StoresComplete : Prop :=
  ∀ (s : State) (f : MAF) (p : Ptr) (i : Instr) (uni : Bool) (src : Group → Nat → Nat),
    (i, uni, src) ∈ [(Instr.st f, false, fun g L => g.vlane f.data.toNat f.ty.regs L), (Instr.stu f, true, fun g _ => g.sval f.data.toNat f.ty.regs),
      (Instr.pst f, true, fun g _ => (g.preg f.data.toNat).toNat)] →
    IssuesSplit s → NotAhead s → PtrOk s (s.cg.preg f.ptr.toNat) (pairOk s.cg.nf f.rnd f.ty) true p →
    let g := s.cur.g
    let r := s.classify g p f true [] (if uni then [0] else lanesOf (s.act f.msk))
    let ws := storeLanes s.cg.nf p f.ty f.rnd (src s.cg) r.1
    AccessClear s r → s.storeErrors p ws = [] → (∀ e ∈ r.1.elems, ∀ pa, e.place = .mem pa → isIo pa = false) →
    let w := ((s.useElems g r.1.elems).writeElems g p (ws.map fun w => (w.1, w.2.1))).1
    ∃ t, exec i s = .next t ∧ t.mem.cells = w.mem.cells ∧ t.mem.lines = w.mem.lines ∧ t.teams = w.teams ∧
      Raised s t (ws.map (·.2.2)) ∧ KeepsRegs s.cg t.cg {} ∧ KeepsGroup s.cg t.cg ∧ t.cg.regs.status = s.cg.regs.status ∧
      t.cg.regs.f = s.cg.regs.f ∧ (∀ h, h ≠ g → t.group h = s.group h)

/-- R82, R210, R214, R221: after a store every byte of every scratchpad, and every byte of memory as the issuing cluster finds it, is the
one before with the element writes made in it that fall on it: no other byte changes. -/
def Obligations.StoresWriteExactlyTheirBytes : Prop :=
  ∀ (s : State) (f : MAF) (p : Ptr) (i : Instr) (uni : Bool) (src : Group → Nat → Nat),
    (i, uni, src) ∈ [(Instr.st f, false, fun g L => g.vlane f.data.toNat f.ty.regs L), (Instr.stu f, true, fun g _ => g.sval f.data.toNat f.ty.regs),
      (Instr.pst f, true, fun g _ => (g.preg f.data.toNat).toNat)] →
    IssuesSplit s → NotAhead s → MemCanonical s → PtrOk s (s.cg.preg f.ptr.toNat) (pairOk s.cg.nf f.rnd f.ty) true p →
    let r := s.classify s.cur.g p f true [] (if uni then [0] else lanesOf (s.act f.msk))
    let ws := storeLanes s.cg.nf p f.ty f.rnd (src s.cg) r.1
    AccessClear s r → (∀ e ∈ r.1.elems, Steady s p e) →
    ∃ t, exec i s = .next t ∧ ∀ q,
      placeByte t (clusterOf s.ct.core) q = written (ws.map (·.2.1)) q (placeByte s (clusterOf s.ct.core) q)

/-! ## Class 5 (R223-R228) -/

/-- R225, R226: a permitted retyping of a pointer is under way after its issue, with the pointer it will write and the lines it concerns; an S form
whose range cannot be writes its pointer with V clear at once.
R226, R227: when it completes the pointer is in the banks, no untracked copy of its lines is left where they are dropped and no dirty one
where not, and the dirty bytes of a line are at home. -/
def Obligations.RetypingWritesBackAndCompletes : Prop :=
  (∀ (s : State) (f : RTF) (p : Ptr), IssuesSplit s → NotAhead s → PtrOk s (s.cg.preg f.pa.toNat) (fun _ => true) false p →
    let g := s.cg
    let img := g.preg f.pa.toNat
    let q := retyped img f.nclass f.nscope (if f.hs then BitVec.ofNat 17 (s.core17 s.cur.g) else bits img 111 17)
    let count : Option (Option Nat) := match f.ik with
      | .uni => let v := g.sreg f.idx.toNat; some (if v == ones32 then none else some v.toNat)
      | _ => none
    let range := subRange g.nf p (if f.ol then f.lit.toInt else f.off.toInt) count
    let drops (widen : Bool) : Bool := p.sp == .glb && (!widen || 2 ≤ scopeRank f.nscope)
    let pending (widen : Bool) (x : QWord) (a n : Nat) (t : State) : Prop :=
      t.cg.retype = some ⟨f.pd.toNat, x, if drops widen then s.untrackedIn s.cur.g a (({ p with len := n } : Ptr).span g.nf) else [], !widen,
        g.issueNo⟩ ∧
      OnlyGroup s t ∧ KeepsRegs g t.cg {} ∧ KeepsSpecial g t.cg
    ∀ widen whole part, (widen, whole, part) ∈ [(true, Instr.pwiden f, Instr.pwidens f), (false, Instr.pnarrow f, Instr.pnarrows f)] →
      retypeOk widen p f.nclass f.nscope = true → (ptrOf q).isSome = true →
      (∃ t, exec whole s = .next t ∧ pending widen q p.base p.len t) ∧
      (∀ e n, range = some (e, n) →
        let a := p.base + byteStep g.nf p.ty e
        ∃ t, exec part s = .next t ∧ pending widen (setPtrRange q a n) a n t) ∧
      (range = none → f.pd.toNat < 16 → ∃ t, exec part s = .next t ∧ t.cg.preg f.pd.toNat = setPtrV q false ∧
        RegFrame s t { p := fun r => r = f.pd.toNat })) ∧
  ∀ (s : State) (g : Nat) (r : Retype), MemCanonical s → g < s.groups.length → (s.group g).retype = some r → (s.group g).ra = none →
    let c := clusterOf (s.team (s.group g).team).core
    (∀ ln ∈ r.lines, s.mem.poisoned ln = false) →
    ∃ t, exec (.retypeComplete g) s = .next t ∧ (t.group g).retype = none ∧
      (r.pd < 16 → vecAt (s.group g).regs.pNo r.pd 0 ≤ r.n → vecAt (t.group g).regs.p r.pd 0 = r.q) ∧
      (∀ ln ∈ r.lines, ∀ l, t.mem.line? c ln = some l → if r.drop then l.st = .ts ∨ l.st = .tm else l.st ≠ .ud) ∧
      (∀ ln l k, r.lines = [ln] → s.mem.ownedFar ln = false → s.mem.line? c ln = some l → l.st = .ud → k < 128 → bit l.dirty k = true →
        cellGet t.mem.cells (ln * 128 + k) = lineByte l.data k) ∧
      (∀ h, h ≠ g → t.group h = s.group h) ∧ t.teams = s.teams

/-! ## Class 6: atomics and barriers (R250-R266) -/

/-- R251-R255, R237: an atomic that faults in no lane, need not wait and is refused nothing completes: its lanes' events happen in ascending order,
and with FN[2] each lane's old value is sent to the data register; their flags come with it.
R254: an event at a place of a scratchpad, or of a line of which the cluster has no copy, finds the bytes there and leaves the combined ones,
and no other byte as the home gives it changes; a packet of another package does the same once, and a repeated one is only answered.
R252: a float-free AADD of present numbers saturates, one of a B type wraps, and ACAS stores the new value where the old one is the operand. -/
def Obligations.AtomicsCombineOnce : Prop :=
  (∀ (s : State) (f : MAF) (p : Ptr) (i : Instr) (op : AtOp),
    (i, op) ∈ [(Instr.aadd f, AtOp.add), (Instr.amin f, .min), (Instr.amax f, .max), (Instr.aand f, .and), (Instr.aor f, .or),
      (Instr.axor f, .xor), (Instr.axch f, .xch), (Instr.acas f, .cas)] →
    IssuesSplit s → NotAhead s → PtrOk s (s.cg.preg f.ptr.toNat) (· == f.ty) true p →
    let r := s.classify s.cur.g p f true [] (lanesOf (s.act f.msk))
    let q := s.atomLanes s.cur.g p op f (s.cg.vlane f.data.toNat f.ty.regs) (s.cg.vlane (f.data.toNat + f.ty.regs) f.ty.regs) r.1
    AccessClear s r → q.2.2.2 = [] →
    ∃ t, exec i s = .next t ∧ t.mem.cells = q.1.mem.cells ∧ t.mem.lines = q.1.mem.lines ∧ t.teams = q.1.teams ∧
      Sent q.1.cg t.cg false
        (if bit f.fn 2 then vWrites f.data.toNat f.ty.regs (fun L => lookupD q.2.1 L 0) (lanesMask (q.2.1.map (·.1))) (fullBits f.ty.regs)
         else []) q.2.2.1 ∧ RegFrame q.1 t {}) ∧
  (∀ (s : State) (p : Ptr) (e : Elem) (h : Nat → Nat × Fl) (t : State) (r : AtomRes), Issues s → MemCanonical s → Steady s p e → e.bytes ≤ 8 →
    s.atomic s.cur.g p e h = .ok (t, r) →
    (∀ u o, e.place = .pad u o → r.old = s.padNat u o e.bytes ∧ (∀ v a, (v ≠ u ∨ a < o ∨ o + e.bytes ≤ a) → t.padNat v a 1 = s.padNat v a 1) ∧
      t.padNat u o e.bytes = (h r.old).1 % 2 ^ (8 * e.bytes)) ∧
    (∀ pa, e.place = .mem pa → s.mem.line? (clusterOf s.ct.core) (pa / 128) = none → r.old = s.mem.homeNat pa e.bytes ∧
      t.mem.homeNat pa e.bytes = (h r.old).1 % 2 ^ (8 * e.bytes) ∧
      ∀ a, (a < pa ∨ pa + e.bytes ≤ a) → t.mem.homeByte a = s.mem.homeByte a)) ∧
  (∀ (s : State) (src seq : Nat) (op : AtOp) (ty : Ty) (rnd : Rnd) (pa : Nat) (v w : BitVec 64) (rel : Option (Nat × Scope)),
    let i := Instr.atomicPacket src seq op ty rnd pa v w rel
    let n := (codingOf (fun _ => 0) ty).w / 8
    let found := s.pkg.atomSeen.find? fun d => d.src == src && d.seq == seq
    (∀ d, found = some d → exec i s = .next { s with out := s.out ++ [.atomicResult src seq d.old d.fl d.rel] }) ∧
    (found = none → MemCanonical s → s.homedHere (pa / 128) = true → s.mem.poisoned (pa / 128) = false → s.waits (.mem pa) = false →
      1 ≤ n → n ≤ 8 → pa % n = 0 → pa % 128 + n ≤ 128 → s.mem.line? 32 (pa / 128) = none →
      OneOwner s.mem →
      let old := s.mem.homeNat pa n
      ∃ t fl rec_, exec i s = .next t ∧ .atomicResult src seq (BitVec.ofNat 64 old) fl rec_ ∈ t.out ∧
        t.mem.homeNat pa n = (combine op ty rnd old (v.toNat % 2 ^ (8 * n)) (w.toNat % 2 ^ (8 * n))).1 % 2 ^ (8 * n) ∧
        t.pkg.atomSeen = s.pkg.atomSeen ++ [{ src, seq, old := BitVec.ofNat 64 old, fl, rel := rec_ }] ∧ t.groups = s.groups ∧ t.teams = s.teams)) ∧
  ∀ (t : Ty) (rnd : Rnd) (m v w : Nat),
    let c := codingOf (fun _ => 0) t
    (t.isI → ∀ x y, intOf t m = some x → intOf t v = some y → m < 2 ^ c.w → v < 2 ^ c.w →
      intOf t (combine .add t rnd m v w).1 = some (max c.minInt (min c.maxInt (x + y)))) ∧
    (t.isB → (combine .add t rnd m v w).1 = (m + v) % 2 ^ c.w) ∧ (combine .cas t rnd m v w).1 = if m = v then w else m

/-- R257, R258: a whole group's form on bN completes: BINIT sets the members among the team's groups and the further arrivals, BARRIVE counts
one arrival in the phase, BWAIT consumes a phase that is complete, BSYNC does both, and BDROP leaves the barrier; a phase whose arrivals are
all there completes: PH goes up and the count is 0. -/
def Obligations.TeamBarriersCountPhases : Prop :=
  ∀ (s : State) (f : BAF), IssuesSplit s → TeamHeld s → Original s → NotAhead s → WholeGroup s → s.cg.gidx < 32 →
    let b := f.bnum.toNat
    let i := s.cg.gidx
    let x := s.ct.bar b
    let full (memb : Word) (extra arrv : Nat) : Prop := popc memb + extra ≤ arrv
    let n := (s.cg.cntVal f).toNat
    let memb := s.cg.sreg f.sa.toNat &&& s.ct.groupMask
    let kept (t : State) : Prop := KeepsRegs s.cg t.cg {} ∧ KeepsSpecial s.cg t.cg ∧ t.mem.cells = s.mem.cells
    let owing : Prop := ∃ d ∈ s.ct.don, d.donor = s.cur.g ∧ d.bar = b ∧ d.phase = x.ph
    (n ≤ 31 → ¬ owing → ∃ t, exec (.binitTeam f) s = .next t ∧ kept t ∧
      let y := t.ct.bar b
      y.memb = memb ∧ y.extra.toNat = n ∧ y.arrv = 0 ∧ (full memb n 0 → y.ph = x.ph + 1) ∧ (¬ full memb n 0 → y.ph = x.ph) ∧ y.wph = x.wph) ∧
    (s.cg.bankPending = false → x.arrived i = false → ¬ owing →
      (∃ t, exec (.barriveTeam f) s = .next t ∧ kept t ∧
        let y := t.ct.bar b
        y.memb = x.memb ∧ vecAt y.arrp i none = some x.ph ∧ y.wph = x.wph ∧
        (full x.memb x.extra.toNat (x.arrv + 1) → y.ph = x.ph + 1 ∧ y.arrv = 0) ∧
        (¬ full x.memb x.extra.toNat (x.arrv + 1) → y.ph = x.ph ∧ y.arrv = x.arrv + 1)) ∧
      (s.cset.served = 0 → full x.memb x.extra.toNat (x.arrv + 1) → 1 ≤ (x.ph + 1 - vecAt x.wph i 0).toNat →
        ∃ t, exec (.bsyncTeam f) s = .next t ∧ kept t ∧
          let y := t.ct.bar b
          y.ph = x.ph + 1 ∧ y.arrv = 0 ∧ vecAt y.wph i 0 = vecAt x.wph i 0 + 1)) ∧
    (1 ≤ (x.ph - vecAt x.wph i 0).toNat → ∀ j ∈ (if s.cset.served = 0 then [Instr.bwaitTeam f] else [Instr.bwaitTeam f, .bsyncTeam f]),
      ∃ t, exec j s = .next t ∧ t.ct.bar b = { x with wph := vecPut x.wph i (vecAt x.wph i 0 + 1) } ∧ kept t ∧
        OnlyTeam { s with hb := t.hb } t s.cg.team) ∧
    (s.cg.bankPending = false → bit x.memb i = true → ¬ owing →
      let left := if vecAt x.arrp i none = some x.ph then x.arrv - 1 else x.arrv
      let rest := x.memb &&& ~~~(1#32 <<< i)
      ∃ t, exec (.bdropTeam f) s = .next t ∧ kept t ∧
        let y := t.ct.bar b
        y.memb = rest ∧ (full rest x.extra.toNat left → y.ph = x.ph + 1 ∧ y.arrv = 0) ∧
        (¬ full rest x.extra.toNat left → y.ph = x.ph ∧ y.arrv = left))

/-- R263, R264: the forms on a barrier object whose eight bytes lie in a scratchpad: BINIT writes its word, BARRIVE and BBYTES count arrivals and
the balance, BDROP takes a party away, each completing the phase where all have arrived and nothing is owed; BTEST and BWAIT ask whether the
token's phase has passed; with TK the token goes to sD.
R266: the paddock forms count one arrival of a group in a phase and consume complete ones, and both halves' phases complete together. -/
def Obligations.BarrierObjectsAndPaddocksCountPhases : Prop :=
  (∀ (s : State) (f : BAF) (u k : Nat), IssuesSplit s → NotAhead s → MemCanonical s → u < s.teams.length →
    s.objPlace s.cg.team (objSpace f) (s.cg.sreg f.sa.toNat).toNat = some (u, k) →
    let o := s.objAt u k
    let v := s.cg.cntVal f
    let done (arr exp : Nat) (owed : Int) : Prop := exp ≤ arr ∧ owed = 0
    let gave (t : State) (r : Word) : Prop :=
      (bit f.fn 2 = true → Sent s.cg t.cg false [.s f.dst.toNat r ones32] []) ∧ (bit f.fn 2 = false → t.cg.out = s.cg.out) ∧
      KeepsRegs s.cg t.cg {} ∧ KeepsSpecial s.cg t.cg ∧ t.mem.cells = s.mem.cells ∧
      ∀ w a, (w ≠ u ∨ a < k ∨ k + 8 ≤ a) → t.padNat w a 1 = s.padNat w a 1
    let phase (w : DWord) (arr exp : Nat) (owed : Int) : Prop :=
      objExp w = exp ∧ (done arr exp owed → objSeq w = objSeq o + 1 ∧ objArr w = 0 ∧ objOwed w = 0) ∧
      (¬ done arr exp owed → objSeq w = objSeq o ∧ objArr w = arr ∧ objOwed w = owed)
    let token : Word := (objSeq o).setWidth 32
    (1 ≤ v.toNat → v.toNat ≤ 65535 → ∃ t, exec (.binitObject f) s = .next t ∧ gave t 0 ∧
      let w := t.objAt u k
      objSeq w = 0 ∧ objOwed w = 0 ∧ objExp w = v.toNat ∧ objArr w = 0) ∧
    (objArr o + v.toNat ≤ objExp o → ∃ t, exec (.barriveObject f) s = .next t ∧ gave t token ∧
      phase (t.objAt u k) (objArr o + v.toNat) (objExp o) (objOwed o)) ∧
    (let owed := objOwed o + v.toInt
     let arr := objArr o + if bit f.fn 3 then 1 else 0
     v ≠ 0x80000000#32 → -(2 ^ 21) ≤ owed → owed < 2 ^ 21 → (bit f.fn 3 = true → arr ≤ objExp o) →
     ∃ t, exec (.bbytes f) s = .next t ∧ gave t token ∧ phase (t.objAt u k) arr (objExp o) owed) ∧
    (2 ≤ objExp o → ∃ t, exec (.bdropObject f) s = .next t ∧ gave t 0 ∧ phase (t.objAt u k) (objArr o) (objExp o - 1) (objOwed o)) ∧
    (∃ t, exec (.btest f) s = .next t ∧ gave t (if objPassed o (v.setWidth 8) then 1 else 0) ∧ t.objAt u k = o) ∧
    (objPassed o (v.setWidth 8) = true → ∃ t, exec (.bwaitObject f) s = .next t ∧ RegFrame { s with hb := t.hb } t {}) ∧
    (objPassed o (v.setWidth 8) = false → exec (.bwaitObject f) s = .next s.stall)) ∧
  (∀ (s : State) (f : BAF) (p : Nat), IssuesSplit s → Original s → NotAhead s → WholeGroup s → s.ct.paddock = some p → p < s.paddocks.length →
    f.bnum.toNat < 4 → (∃ u ∈ (s.paddock p).teams, (s.team u).st ≠ .ended) →
    let b := f.bnum.toNat
    let g := s.cur.g
    let x := s.pbar p b
    let s1 := s.modPBar p b fun y => { y with arrp := insertK y.arrp g y.ph }
    let all_ := (s.paddock p).clus1 = none ∧ s1.halfArrived p b false = true
    let kept (t : State) : Prop := KeepsRegs s.cg t.cg {} ∧ KeepsSpecial s.cg t.cg ∧ t.teams = s.teams ∧ t.mem.cells = s.mem.cells
    (x.arrived g = false →
      (∃ t, exec (.barrivePaddock f) s = .next t ∧ kept t ∧ lookupD (t.pbar p b).arrp g 0 = x.ph ∧ (t.pbar p b).wph = x.wph ∧
        (all_ → (t.pbar p b).ph = x.ph + 1) ∧ (¬ all_ → (t.pbar p b).ph = x.ph)) ∧
      (s.cset.served = 0 → all_ → 1 ≤ (x.ph + 1 - lookupD x.wph g 0).toNat →
        ∃ t, exec (.bsyncPaddock f) s = .next t ∧ kept t ∧ (t.pbar p b).ph = x.ph + 1 ∧
          lookupD (t.pbar p b).wph g 0 = lookupD x.wph g 0 + 1)) ∧
    (1 ≤ (x.ph - lookupD x.wph g 0).toNat → ∃ t, exec (.bwaitPaddock f) s = .next t ∧ kept t ∧
      t.pbar p b = { x with wph := insertK x.wph g (lookupD x.wph g 0 + 1) })) ∧
  ∀ (s : State) (p b : Nat), (s.pbar p b).local0 = true → (s.pbar p b).local1 = true → p < s.paddocks.length → b < 4 →
    ∃ t, exec (.paddockCrossDiePhase p b) s = .next t ∧
      t.pbar p b = { s.pbar p b with ph := (s.pbar p b).ph + 1, local0 := false, local1 := false } ∧ { t with paddocks := s.paddocks, hb := s.hb } = s

/-! ## Class 7: copy commands, batches and the accumulator forms (R270-R284) -/

/-- R270, R273, R274, R282, R375: outside run-ahead and with room for one more, a copy form whose pointers pass R206, fit each other and hold every
element of its table creates one command, with its table and its pointers, and changes nothing else.
CGTH does so with the active lanes' elements, and ACCLD and ACCST with the tile of entries that their registers name. -/
def Obligations.CopyFormsCreateOneCommand : Prop :=
  (∀ (s : State) (f : ENF), IssuesSplit s → NotAhead s → s.cmdRoom = true →
    let g := s.cg
    let d := g.preg f.dst.toNat
    let p := g.preg f.sa.toNat
    let gone (i : Instr) (c : Cmd) : Prop :=
      (∀ o, c.obj = some o → (s.objPlace g.team o.1 o.2).isSome = true) →
      ∃ t, exec i s = .next t ∧ t.cmds = s.cmds ++ [{ c with id := s.cmdNo }] ∧
        RegFrame { s with cmds := s.cmds ++ [{ c with id := s.cmdNo }], cmdNo := s.cmdNo + 1 } t {}
    let lin (r : Nat) : Option CmdTab := if g.sreg r = ones32 then none else some (.lin (g.sreg r).toNat)
    let window := nbrOffset (bits d 111 3).toNat (g.sreg f.sc.toNat).toNat
    (∀ (i : Instr) (kind : CmdKind) (minor : Nat) (tab : Option CmdTab) (ob : Option (Space × Nat)) (fit : Ptr → Ptr → Prop),
      (i, kind, minor, tab, ob, fit) ∈
        [(Instr.cpy f, CmdKind.cpy, 1, lin f.sb.toNat, g.objOf f, fun dp sp => pairOk g.nf .rne dp.ty sp.ty = true),
         (.cpy2d f, .cpy2d, 2, gridTab g f.sb.toNat, g.objOf f, fun dp sp => pairOk g.nf .rne dp.ty sp.ty = true),
         (.ncopy f, .ncopy, 5, lin f.sb.toNat, if bit f.fn 2 then some (.nbr, window) else none,
           fun dp sp => dp.ty = sp.ty ∧ dp.sp = .nbr ∧ sp.sp = .loc),
         (.putr f, .putr, 10, lin f.sb.toNat, g.objOf f, fun dp sp => dp.ty = sp.ty ∧ dp.sp = .glb ∧ (sp.sp = .glb ∨ sp.sp = .loc)),
         (.getr f, .getr, 11, lin f.sb.toNat, g.objOf f, fun dp sp => dp.ty = sp.ty ∧ sp.sp = .glb ∧ (dp.sp = .glb ∨ dp.sp = .loc))] →
      ∀ dp sp tb, s.ptrCheck2 s.cur.g (some d) (some p) = none → ptrOf d = some dp → ptrOf p = some sp → fit dp sp → tab = some tb →
        s.rangeBad g.nf g.team (some sp) (some dp) tb.pairs = none →
        gone i { s.cmdOf kind minor with dst := d, src := p, ty := sp.ty, tab := tb, obj := ob }) ∧
    (∀ dp tb, s.ptrCheck2 s.cur.g (some d) none = none → ptrOf d = some dp → pairOk g.nf .rne f.ty dp.ty = true → lin f.sb.toNat = some tb →
      s.rangeBad g.nf g.team none (some dp) tb.pairs = none →
      gone (.cfill f) { s.cmdOf .cfill 3 with
        dst := d, ty := f.ty, val := BitVec.ofNat 64 (elemGet g.nf f.ty (g.sval f.sa.toNat f.ty.regs) 0), tab := tb, obj := g.objOf f }) ∧
    ∀ dp tb q, ptrOf d = some dp → dp.sp = .loc → dp.ty = f.ty → accTile (g.sreg f.sa.toNat) (g.sreg f.sb.toNat) = some tb →
      s.seqOf g.team = some q →
      (s.ptrCheck2 s.cur.g none (some d) = none → s.rangeBad g.nf g.team (some dp) none tb.pairs = none →
        gone (.accld f) { s.cmdOf .accld 9 with src := d, ty := f.ty, tab := tb, obj := g.objOf f }) ∧
      (s.ptrCheck2 s.cur.g (some d) none = none → s.rangeBad g.nf g.team none (some dp) tb.pairs = none →
        gone (.accst f) { s.cmdOf .accst 10 with dst := d, ty := f.ty, tab := tb, obj := g.objOf f })) ∧
  ∀ (s : State) (f : MAF) (dp sp : Ptr), IssuesSplit s → NotAhead s → s.cmdRoom = true →
    let g := s.cg
    let d := g.preg f.data.toNat
    let p := g.preg f.ptr.toNat
    s.ptrCheck2 s.cur.g (some d) (some p) = none → ptrOf d = some dp → ptrOf p = some sp → pairOk g.nf .rne dp.ty sp.ty = true →
    let lanes := lanesOf (s.act f.msk)
    (∀ L ∈ lanes, (sp.abs = true ∨ ∃ k, g.maFirst f L = some k ∧ s.inRange g.nf g.team sp k = true) ∧
      (dp.abs = true ∨ s.inRange g.nf g.team dp L = true)) →
    let c := { s.cmdOf .cgth 4 with dst := d, src := p, ty := sp.ty, tab := .gather (lanes.map fun L => (g.maFirst f L, L)), id := s.cmdNo }
    ∃ t, exec (.cgth f) s = .next t ∧ RegFrame { s with cmds := s.cmds ++ [c], cmdNo := s.cmdNo + 1 } t {}

/-- R274, R278, R280: a command whose elements, or whose remaining ones after a fault that has been resolved, can all be reached, and need not
wait, completes; between scratchpads and without overlap, the bytes afterwards are those before with its element writes made in them, each
the converted code of the source element, read before any write.
R282, R283: ACCST writes the entries of the store so, and ACCLD makes entries of its elements, where no matrix word clashes; R375: PUTR writes at the home of its elements, and
GETR reads there, once a command number is free (PUTR said of a U-mode task, for which no event reaches memory beside it); a GETR with
elements in other packages sends its packets and ends, with what they brought, once all are back, and a PUTR that has sent packets ends once
all are acknowledged. -/
def Obligations.CopyCommandsComplete : Prop :=
  ∀ (s : State) (id : Nat) (c : Cmd) (ms : List Move), MemCanonical s → s.liveCmd id = some c → c.obj = none → c.team < s.teams.length →
    let sp := if c.kind = .cfill ∨ c.kind = .accst then none else c.sptr
    let dp := if c.kind = .accld then none else c.dptr
    let rest := c.tab.pairs.drop c.pos
    let srcs := ms.filterMap (·.1)
    let dsts := ms.filterMap (·.2)
    let inPad (e : Elem) : Prop := e.leaf = none ∧ ∃ u o, e.place = .pad u o ∧ u < s.teams.length
    let padCode (e : Elem) : Nat := codeOf e.nib (match e.place with | .pad u o => s.padNat u o e.bytes | .mem _ => 0)
    let get (code : Elem → Nat) (p : Ptr) (m : Move) : Nat := match m.1 with
      | some e => code e % 2 ^ (codingOf c.nf p.ty).w
      | none => tailCode c.nf p.ty
    let writes (val : Move → Nat) : List EWrite := ms.filterMap fun m => m.2.map fun e => e.write (val m)
    let isDone (t : State) : Prop := ∀ x ∈ t.cmds, x.id = id → x.done = true
    let padsAre (t : State) (val : Move → Nat) : Prop :=
      ∀ u o, t.padNat u o 1 = written (writes val) (.pad u o) (s.padNat u o 1)
    let sources := sp.elim [] fun p => s.elemsAt c p .load (c.tab.pairs.filterMap (·.1))
    let dests (p : Ptr) := s.elemsAt c p .store (c.tab.pairs.map (·.2))
    (∀ e ∈ dsts, e.nib ≠ none → e.bytes = 1) → (∀ d ∈ dsts, ∀ e ∈ sources, Elem.meets d e = false) →
    (∀ p d, c.kind ∈ [CmdKind.cpy, .cpy2d, .ncopy, .cgth] → sp = some p → dp = some d → s.cmdMoves c sp dp [] rest = (ms, none) →
      tracked d.cls d.sc = false → (∀ e ∈ srcs ++ dsts, inPad e) → (∀ e ∈ srcs ++ dsts, s.waits e.place = false) →
      ∃ t, exec (.copyComplete id) s = .next t ∧ isDone t ∧ padsAre t fun m => (convert c.nf d.ty p.ty .rne (get padCode p m)).1) ∧
    (∀ d, c.kind = .cfill → dp = some d → s.cmdMoves c none dp [] rest = (ms, none) → tracked d.cls d.sc = false →
      (∀ e ∈ dsts, inPad e) → (∀ e ∈ dsts, s.waits e.place = false) →
      ∃ t, exec (.copyComplete id) s = .next t ∧ isDone t ∧ padsAre t fun _ => (convert c.nf d.ty c.ty .rne c.val.toNat).1) ∧
    (∀ d row col rows cols q, c.kind = .accst → dp = some d → c.tab = .acc row col rows cols → s.seqOf c.team = some q →
      s.cmdMoves c none dp [] rest = (ms, none) → (∀ e ∈ dsts, inPad e) → dsts.length = ms.length →
      s.cmdOpen c row rows col cols = [] →
      ∃ t, exec (.copyComplete id) s = .next t ∧ isDone t ∧ ∀ u o, t.padNat u o 1 = written
        ((dsts.zipIdx c.pos).map fun e => e.1.write (accForm c.ty (q.entry (row + e.2 / cols) (col + e.2 % cols)))) (.pad u o) (s.padNat u o 1)) ∧
    (∀ p row col rows cols q, c.kind = .accld → sp = some p → c.tab = .acc row col rows cols → s.seqOf c.team = some q →
      s.cmdMoves c sp none [] rest = (ms, none) → (∀ e ∈ srcs, inPad e) → s.cmdOpen c row rows col cols = [] →
      (q.acc.map (·.1)).Pairwise (· < ·) → col + cols ≤ 64 →
      ∃ t x, exec (.copyComplete id) s = .next t ∧ isDone t ∧ t.seqOf c.team = some x ∧
        (∀ i j k m, j < cols → k + c.pos = i * cols + j → ms[k]? = some m → k + c.pos < rows * cols →
          x.entry (row + i) (col + j) = accOfForm c.ty (get padCode p m)) ∧
        ∀ i j, j < 64 → (i < row ∨ row + rows ≤ i ∨ j < col ∨ col + cols ≤ j) → x.entry i j = q.entry i j) ∧
    (∀ p d, c.kind = .getr → sp = some p → dp = some d → s.cmdMoves c sp dp [] rest = (ms, none) →
      (∀ e ∈ dsts, inPad e) → (∀ e ∈ sources ++ dests d, s.waits e.place = false) →
      (∃ no, c.sentAt = none ∧ s.freeNumber (s.cmdSource c) = some no ∧ s.packets false (s.cmdSource c) no sources = []) ∨
        (∃ no ids, c.sentAt = some (no, ids) ∧ ids.length ≤ c.back.length) →
      ∃ t, exec (.copyComplete id) s = .next t ∧ isDone t ∧ padsAre t fun m => match m.1 with
        | some e => s.getHome c e
        | none => tailCode c.nf p.ty) ∧
    (∀ p d no, c.kind = .getr → sp = some p → dp = some d → (∀ e ∈ sources ++ dests d, s.waits e.place = false) → c.sentAt = none →
      s.freeNumber (s.cmdSource c) = some no →
      let ps := s.packets false (s.cmdSource c) no sources
      ps ≠ [] → exec (.copyComplete id) s = .next ((({ s with out := s.out ++ ps }.useNumber (s.cmdSource c) no).modCmd id fun _ =>
        { c with sentAt := some (no, (List.range ps.length).map (s.out.length + ·)) }).teamLocks c.team)) ∧
    (∀ p d no ids, c.kind = .putr → sp = some p → dp = some d → (∀ e ∈ sources ++ dests d, s.waits e.place = false) →
      c.sentAt = some (no, ids) →
      (ids.all s.ackedMsg = true → ∃ t, exec (.copyComplete id) s = .next t ∧ isDone t ∧ t.mem.cells = s.mem.cells) ∧
      (ids.all s.ackedMsg = false → exec (.copyComplete id) s = .next (s.teamLocks c.team))) ∧
    ∀ p d no, c.kind = .putr → (s.team c.team).user = true → sp = some p → dp = some d → s.cmdMoves c sp dp [] rest = (ms, none) →
      (∀ e ∈ srcs, inPad e) → (∀ e ∈ sources ++ dests d, s.waits e.place = false) → c.sentAt = none →
      s.freeNumber (s.cmdSource c) = some no → s.packets true (s.cmdSource c) no (dests d) = [] →
      (∀ e ∈ dsts, ∃ pa, e.place = .mem pa ∧ isIo pa = false ∧ (∀ l, e.leaf = some l → bit l.leaf 10 = true ∧ bit l.leaf 11 = true) ∧
        pa % 128 + e.bytes ≤ 128 ∧ s.mem.ownedFar (pa / 128) = false ∧ ∀ l ∈ s.mem.lines, l.line ≠ pa / 128) →
      ∃ t, exec (.copyComplete id) s = .next t ∧ isDone t ∧
        ∀ a, (t.mem.homeByte a).toNat = written (writes (get padCode p)) (.mem a) (s.mem.homeByte a).toNat

/-- R276, R277: CBATCH closes a batch with every command of the group that is in none, and its number is the result; a batch with nothing in it
is complete at once. CWAIT stalls until its batch is complete, traps where a command of it has failed, and goes on otherwise. CSTAT
sends DONE and the status word and, with CLR, clears FAIL.  A fresh group's batches are its host's (the model's choice, log 80).
R371: CLSTAT does the same with the team's collective status and count.
R282, R283: ACCRD sends the entries of its column, one to each active lane; ACCWR makes entries of the active lanes' values and leaves every
other entry; an entry with which the form is not ordered against a matrix word is undefined, read or written. -/
def Obligations.BatchesAndAccumulatorColumnsComplete : Prop :=
  (∀ (s : State) (f : ENF), IssuesSplit s → NotAhead s → s.ownerNo < s.groups.length →
    let g := s.cg
    let b := s.owner.batches
    let n := b.closed + 1
    let w := if (b.closed - g.sreg f.sa.toNat).toNat ≥ 2 ^ 31 then b.closed else g.sreg f.sa.toNat
    let covered : Prop := bit b.csw 31 = true ∧ ((bits w 0 16 : BitVec 16) - bits b.csw 0 16).toNat < 2 ^ 15
    let after (t : State) : Batches := (t.group s.ownerNo).batches
    let kept (t : State) : Prop := (∀ h, h ≠ s.cur.g → h ≠ s.ownerNo → t.group h = s.group h) ∧ t.mem.cells = s.mem.cells ∧
      ∀ v, { t.team v with order := (s.team v).order } = s.team v
    ((b.closed - b.done).toNat < 15 → f.dst.toNat < 64 → ∃ t, exec (.cbatch f) s = .next t ∧
      (after t).closed = n ∧ t.cg.sreg f.dst.toNat = n ∧ KeepsRegs g t.cg { s := range f.dst.toNat 1 } ∧ (after t).csw = b.csw ∧
      (∀ c ∈ s.cmds, c.group = s.ownerNo → c.batch = none → c.done = false → { c with batch := some n } ∈ t.cmds) ∧
      (∀ c ∈ s.cmds, c.group ≠ s.ownerNo → c ∈ t.cmds) ∧ kept t ∧
      (b.done = b.closed → (∀ c ∈ s.cmds, c.group ≠ s.ownerNo) → (after t).done = n ∧ KeepsSpecial g t.cg)) ∧
    (15 ≤ (b.closed - b.done).toNat → exec (.cbatch f) s = .next s.stall) ∧
    ((b.done - w).toNat ≥ 2 ^ 31 → exec (.cwait f) s = .next s.stall) ∧
    ((b.done - w).toNat < 2 ^ 31 → covered → exec (.cwait f) s = .next (s.userTrap 0x09 0)) ∧
    ((b.done - w).toNat < 2 ^ 31 → ¬ covered → ∃ t, exec (.cwait f) s = .next t ∧ kept t ∧ KeepsRegs g t.cg {} ∧ KeepsSpecial g t.cg ∧
      KeepsGroup g t.cg) ∧
    (∃ t, exec (.cstat f) s = .next t ∧ kept t ∧ t.teams = s.teams ∧ KeepsRegs g t.cg {} ∧ KeepsSpecial g t.cg ∧
      Sent g t.cg false [.s f.dst.toNat b.done ones32, .s (f.dst.toNat + 1) b.csw ones32] [] ∧
      after t = if bit f.fn 2 then { b with csw := b.csw &&& 0x7FFFFFFF#32 } else b) ∧
    (TeamHeld s → ∃ t, exec (.clstat f) s = .next t ∧ KeepsRegs g t.cg {} ∧ KeepsSpecial g t.cg ∧ OnlyTeam s t g.team ∧
      Sent g t.cg false [.s f.dst.toNat s.ct.collStat ones32, .s (f.dst.toNat + 1) s.ct.collDone ones32] [] ∧
      t.ct = if bit f.fn 2 then { s.ct with collStat := s.ct.collStat &&& 0x7FFFFFFF#32 } else s.ct)) ∧
  ∀ (s : State) (f : ENF) (r c : Nat) (q : Seq), IssuesSplit s → NotAhead s → TeamHeld s → accPos (s.cg.sreg f.sa.toNat) = some (r, c) → r ≤ 480 →
    s.ct.seq = some q →
    let g := s.cg
    let act := s.act f.msk
    let clash := s.colOpen ((lanesOf act).map (r + ·)) c
    (∃ t, exec (.accrd f) s = .next t ∧ OnlyTeam s t g.team ∧ KeepsRegs g t.cg {} ∧ KeepsSpecial g t.cg ∧ KeepsGroup g t.cg ∧
      { t.ct with order := s.ct.order } = { s.ct with seq := some (q.openCells s.tick clash) } ∧
      Sent g t.cg false (vWrites f.dst.toNat f.ty.regs (fun L => accForm f.ty ((q.openCells s.tick clash).entry (r + L) c)) act
        (fullBits f.ty.regs)) []) ∧
    ((q.acc.map (·.1)).Pairwise (· < ·) → ∃ t x, exec (.accwr f) s = .next t ∧ OnlyTeam s t g.team ∧ KeepsRegs g t.cg {} ∧ KeepsSpecial g t.cg ∧
      { t.ct with order := s.ct.order } = { s.ct with seq := some x } ∧ { x with acc := q.acc } = q ∧
      (∀ L, L < 32 → bit act L = true → (r + L) * 64 + c ∉ clash →
        x.entry (r + L) c = accOfForm f.ty (g.vlane f.dst.toNat f.ty.regs L)) ∧
      ∀ i j, j < 64 → (∀ L, L < 32 → bit act L = true → (i, j) ≠ (r + L, c)) → x.entry i j = q.entry i j)

/-- R360: TSET never traps; it writes the tile of its three values and its pointer, with V where none is absent, a row is, the columns are
within the stride and the count is in range. TGET sends word k of a tile, whatever its V. -/
def Obligations.TilesAreSetAndRead : Prop :=
  ∀ (s : State) (f : ENF), IssuesSplit s → NotAhead s →
    let g := s.cg
    let r := g.sreg f.sa.toNat
    let c := g.sreg f.sb.toNat
    let st := g.sreg f.sc.toNat
    let n := f.tsel.toNat
    (∃ t, exec (.tset f) s = .next t ∧ OnlyGroup s t ∧ KeepsRegs g t.cg {} ∧ KeepsGroup g t.cg ∧
      t.cg.regs.f = g.regs.f ∧ t.cg.regs.fpflags = g.regs.fpflags ∧ t.cg.regs.status = g.regs.status ∧
      (∀ m, m ≠ n → t.cg.tile m = g.tile m) ∧
      tileRows (t.cg.tile n) = r.toNat ∧ tileCols (t.cg.tile n) = c.toNat ∧ tileStride (t.cg.tile n) = st.toNat ∧
      tilePidx (t.cg.tile n) = f.dst.toNat % 16 ∧
      (tileV (t.cg.tile n) = true ↔ r ≠ ones32 ∧ c ≠ ones32 ∧ st ≠ ones32 ∧ 1 ≤ r.toNat ∧ 1 ≤ c.toNat ∧ c.toNat ≤ st.toNat ∧
        r.toNat * c.toNat ≤ 2 ^ 32 - 2)) ∧
    ∃ t, exec (.tget f) s = .next t ∧ RegFrame s t {} ∧
      Sent g t.cg false [.s f.dst.toNat (bits (g.tile n) (32 * (f.sc.toNat % 4)) 32) ones32] []

/-! ## Class 8: narrow formats, scales and index tables (R312-R325) -/

/-- R318-R320: FSET and FGET write and read a format register; XSET, XID and XINV write a whole index table of the team, byte by byte, as the identity,
or as the inverse with the last of equal entries; XGET and XPRM write entries, and lanes chosen by entries, to the active lanes.
R321, R322: SCALC's code is the smallest that lets the greatest finite magnitude of the active lanes into the type; SCVAL and SCMUL work on the
scale codes of each active lane.
R323-R325: QNT changes one sub-element of each active lane, DQNT, NDOT and NAMAX write the F32 value of each, with their flags. -/
def Obligations.NarrowFormsComplete : Prop :=
  ∀ (s : State) (f : VF), IssuesSplit s →
    let g := s.cg
    let d := f.dst.toNat
    let a := s.act f.msk
    let nf := g.nf
    let src (r : Bool) (n : Nat) (L : Nat) : Nat := g.src r n 1 L
    let table (x : Nat → Nat) (t : State) : Prop :=
      (∀ k, k < 128 → t.ct.tableAt d k = x k % 128) ∧ (∀ m, m ≠ d → t.ct.table m = s.ct.table m) ∧ { t.ct with xt := s.ct.xt } = s.ct ∧
      OnlyTeam s t g.team ∧ KeepsRegs g t.cg {} ∧ KeepsSpecial g t.cg ∧ KeepsGroup g t.cg
    let lanes (i : Instr) (val : Nat → Nat) : Prop :=
      ∃ t, exec i s = .next t ∧ VecResult g t.cg f.t d 1 a val ∧ RegFrame s t { v := range d 1 }
    let flagged (i : Instr) (val : Nat → Nat × Fl) : Prop :=
      ∃ t, exec i s = .next t ∧ VecResult g t.cg f.t d 1 a (fun L => (val L).1) ∧ Raised s t ((lanesOf a).map fun L => (val L).2) ∧
        FlagFrame s t { v := range d 1 }
    (d < 8 → ∃ t, exec (.fset f) s = .next t ∧ OnlyGroup s t ∧ KeepsRegs g t.cg {} ∧ KeepsGroup g t.cg ∧
      t.cg.regs.f = vecPut g.regs.f d (BitVec.ofNat 32 (g.lane32 f 0)) ∧ t.cg.regs.t = g.regs.t ∧ t.cg.regs.fpflags = g.regs.fpflags ∧
      t.cg.regs.status = g.regs.status) ∧
    (d < 64 → ∃ t, exec (.fget f) s = .next t ∧ UniResult t.cg d 1 (vecAt g.regs.f f.sa.toNat 0).toNat ∧ RegFrame s t { s := range d 1 }) ∧
    (NotAhead s → TeamHeld s → d < 4 →
      (∃ t, exec (.xset f) s = .next t ∧ table (fun k =>
        if bit g.present (k / 4) then byteAt (laneOf (g.vreg f.sa.toNat) (k / 4)).toNat (k % 4) else 0) t) ∧
      (∃ t, exec (.xid f) s = .next t ∧ table (fun k => k) t) ∧
      ∃ t x, exec (.xinv f) s = .next t ∧ table x t ∧ ∀ j, j < 128 →
        ((∃ k, k < 128 ∧ s.ct.tableAt f.sa.toNat k = j) →
          x j < 128 ∧ s.ct.tableAt f.sa.toNat (x j) = j ∧ ∀ k, k < 128 → s.ct.tableAt f.sa.toNat k = j → k ≤ x j) ∧
        ((∀ k, k < 128 → s.ct.tableAt f.sa.toNat k ≠ j) → x j = j)) ∧
    (d < 128 →
      lanes (.xget f) (fun L => (List.range 4).foldl (fun acc i => acc + s.ct.tableAt f.sa.toNat (4 * L + i) * 2 ^ (8 * i)) 0) ∧
      lanes (.xprm f) (fun L =>
        let e := s.ct.tableAt f.sb.toNat (32 * (f.sc.toNat % 4) + L)
        (laneOf (g.vreg (f.sa.toNat + e / 32)) (if bit g.presentLanes (e % 32) then e % 32 else L)).toNat) ∧
      lanes (.scval f) (fun L =>
        let c := byteAt (src f.ak f.sa.toNat L) (f.sc.toNat % 4)
        if c = 0xFF then 0xFFFFFFFF else (FFmt.f32.round .rne (scaleVal c)).1) ∧
      lanes (.scmul f) (fun L => (List.range 4).foldl (fun acc i =>
        acc + scaleMulCode (byteAt (src f.ak f.sa.toNat L) i) (byteAt (g.srcC false f .b32 L) i) * 2 ^ (8 * i)) 0) ∧
      (let w := contW nf f.ty
       let one (L : Nat) := quantElem nf f.ty f.rnd (src f.ak f.sa.toNat L) (byteAt (src f.bk f.sb.toNat L) (f.sc.toNat % 4))
       let j := f.sc.toNat / 4 % 8
       ∃ t, exec (.qnt f) s = .next t ∧
         VecPart g t.cg f.t d 1 a ((2 ^ w - 1) * 2 ^ (j * w)) (fun L => (one L).1 * 2 ^ (j * w)) ∧
         Raised s t ((lanesOf a).map fun L => (one L).2) ∧ FlagFrame s t { v := range d 1 }) ∧
      flagged (.dqnt f) (fun L => dequantElem nf f.ty f.rnd (elOf g f.ty (src f.ak f.sa.toNat L) (f.sc.toNat / 4 % 8))
        (byteAt (src f.bk f.sb.toNat L) (f.sc.toNat % 4))) ∧
      flagged (.ndot f) (fun L => ndotLane nf f.ty f.k f.rnd (src f.ak f.sa.toNat L) (src f.bk f.sb.toNat L) (g.srcC false f .f32 L)) ∧
      flagged (.namax f) (fun L => namaxLane nf f.ty (laneOf (g.vreg f.sa.toNat) L).toNat)) ∧
    (d < 64 →
      let xs := (lanesOf a).filterMap fun L => (codingOf noNf .f32).read (laneOf (g.vreg f.sa.toNat) L).toNat
      let fin := xs.filter fun x => !x.isNan && !x.isInf
      let m := fin.foldl magMax .zero
      let fits (c : Nat) : Prop := m.cmp ((maxFinite nf f.ty).mul (scaleVal c)).1 ≠ .gt
      ∃ t c, exec (.scalc f) s = .next t ∧ UniResult t.cg d 1 c ∧ RegFrame s t { s := range d 1 } ∧
        (xs = [] → c = 0xFF) ∧ (xs ≠ [] → fin = [] ∨ m.isZero = true → c = 0x78) ∧
        (fin ≠ [] → m.isZero = false → 1 ≤ c ∧ c ≤ 0xFE ∧ (fits c ∨ c = 0xFE) ∧ ∀ b, 1 ≤ b → b < c → ¬ fits b))

/-! ## Class 9: folds (R336-R357) -/

/-- R341, R342, R352, R353, R357: on a slot whose member is not cut off, FJOIN sends a join for an id that the group may join and waits; FLEAVE sends
a leave and empties the slot; FVOTE contributes and sets PRE; their causes of FOLDBAD come first; FCNT and FPEND send the slot's counts and
its status word, zeros of an empty slot.  R337: a fresh group has its host's slots.
The model's reading, not the rules' words: the order of the FOLDBAD causes where several hold (log 45); the slot of an FJOIN follows the split that stands
at it (log 44). -/
def Obligations.FoldFormsActOnTheirSlot : Prop :=
  ∀ (s : State) (f : SPF), IssuesSplit s →
    let g := s.cg
    let k := (bits f.sel 0 2).toNat
    let sl := s.owner.fold k
    (g.fold k).lost = none →
    let sent (ms : List Msg) (y : FoldSlot) (t : State) : Prop :=
      OnlyGroup { s with msgs := s.msgs ++ ms } t ∧ KeepsRegs g t.cg {} ∧ KeepsSpecial g t.cg ∧ t.cg.fold k = y ∧
        ∀ j, j ≠ k → t.cg.fold j = g.fold j
    (∃ t, exec (.fcnt f) s = .next t ∧ RegFrame s t {} ∧
      Sent g t.cg false [.s f.dst.toNat (sl.lastT.setWidth 32) ones32, .s (f.dst.toNat + 1) (sl.lastN.setWidth 32) ones32] []) ∧
    (∃ t w, exec (.fpend f) s = .next t ∧ RegFrame s t {} ∧ Sent g t.cg false [.s f.dst.toNat w ones32] [] ∧
      (sl.valid = false → w = 0) ∧
      (sl.valid = true → bit w 31 = sl.pend ∧ bit w 30 = sl.pre ∧ bit w 29 = s.owner.ra.isSome ∧ bit w 28 = true ∧ bits w 16 12 = 0#12 ∧
        bits w 0 16 = (bits sl.vnum 0 16 : BitVec 16))) ∧
    (NotAhead s →
      (sl.valid = false → exec (.fleave f) s = .next (s.userTrap 0x0B 4) ∧ exec (.fvote f) s = .next (s.userTrap 0x0B 4)) ∧
      (Original s → sl.valid = true →
        (∃ t, exec (.fleave f) s = .next t ∧ sent [.leave sl.fid sl.key] {} t) ∧
        (sl.pre = true ∨ sl.pend = true → exec (.fvote f) s = .next (s.userTrap 0x0B 8)) ∧
        (sl.pre = false → sl.pend = false →
          let mode := match (bits f.fn 0 2).toNat with | 0 => VoteMode.all | 1 => .any | _ => .maj
          ∃ t, exec (.fvote f) s = .next t ∧
            sent [.contribution sl.fid sl.vnum sl.key (g.sreg f.sa.toNat != 0) mode] { sl with pre := true } t)) ∧
      let v := g.sreg f.sa.toNat
      let id := (bits v 0 12).toNat
      (∀ c, sl.joining ≠ none → sl.wait = some c → c.pc ≠ s.cur.pc → exec (.fjoin f) s = .next (s.userTrap 0x0B 1)) ∧
      (∀ c, sl.joining ≠ none → sl.wait = some c → c.pc = s.cur.pc → Original s → k < 4 → ∃ t, exec (.fjoin f) s = .next t ∧
        sent [] { sl with wait := some { c with entry := s.cur.e } } t ∧ t.cset = { s.cset with stalled := true, served := 1 }) ∧
      (sl.joining = none →
        (bits v 12 20 ≠ (0 : BitVec 20) ∨ sl.valid = true → exec (.fjoin f) s = .next (s.userTrap 0x0B 1)) ∧
        (bits v 12 20 = (0 : BitVec 20) → sl.valid = false →
          (s.owner.holdsId k id = true → exec (.fjoin f) s = .next (s.userTrap 0x0B 2)) ∧
          (s.owner.holdsId k id = false → s.mayJoin id = false → exec (.fjoin f) s = .next (s.userTrap 0x0B 3)) ∧
          (s.owner.holdsId k id = false → s.mayJoin id = true → Original s →
            let key := s.foldKey s.cur.g
            let here : CbrAt := { entry := s.cur.e, pc := s.cur.pc, size := s.cur.size, target := 0, y := f.y }
            ∃ t, exec (.fjoin f) s = .next t ∧
              sent [.join id key (bits (lookupD s.pkg.foldTab id 0) 0 24).toNat] { sl with joining := some id, key, wait := some here } t ∧
              t.cset = { s.cset with stalled := true, served := 1 }))))

/-- R343, R346, R347: a whole group's CBR contributes its predicate to the next vote, unless FVOTE has, and has the slot's vote pending.
With NRA it waits for the result; without, the group goes on ahead in the hinted or the predicted direction, with what a rollback restores kept,
once its core's undo log grants its request, and waits for that with its contribution made.
R343, R344, R349, R350: the result of the vote lets a waiting group go on in its direction, confirms a group ahead in that direction, and sends one
ahead in the other back to the CBR's registers and on in the direction of the vote (said of a U-mode task, which no deadlock found at
that moment can halt).  With the confirmation its held stores are performed, the oldest first: every byte is the one before with their
writes made in it. -/
def Obligations.CollectiveBranchesVoteAndResolve : Prop :=
  (∀ (s : State) (f : BRF), IssuesSplit s → NotAhead s → Original s → WholeGroup s →
    let g := s.cg
    let k := f.sel.toNat
    let sl := g.fold k
    let p := g.sreg f.pred.toNat != 0
    let mode := match f.mode.toNat with | 0 => VoteMode.all | 1 => .any | _ => .maj
    let dir := if bit f.fn 0 then f.hint else p
    let here : CbrAt := { entry := s.cur.e, pc := s.cur.pc, size := s.cur.size, target := s.brTarget f, y := f.y, dir }
    let ms := if sl.pre then [] else [Msg.contribution sl.fid sl.vnum sl.key p mode]
    let after : FoldSlot := { sl with vnum := sl.vnum + 1, pend := true, pre := false }
    let kept (ms : List Msg) (t : State) : Prop := OnlyGroup { s with msgs := s.msgs ++ ms } t ∧ KeepsRegs g t.cg {} ∧ KeepsSpecial g t.cg ∧
      ∀ j, j ≠ k → t.cg.fold j = g.fold j
    let ahead (c : CbrAt) (y : FoldSlot) (t : State) : Prop := t.cg.fold k = { y with wait := none } ∧
      SplitAt s t.cg (if c.dir then c.target else nextPc s) ∧ ∃ r, t.cg.ra = some r ∧ r.slot = k ∧ r.cbr = c ∧ r.predicted = c.dir ∧
        r.regs = g.regs ∧ r.sets = vecPut g.sets s.cur.e { s.cset with asks := none, served := 0, stalled := false } ∧ r.stack = g.stack ∧
        r.stores = [] ∧ r.startNo = g.issueNo
    let asking (y : FoldSlot) (c : CbrAt) (t : State) : Prop := t.cg.fold k = { y with wait := some c } ∧
      t.cset = { s.cset with stalled := true, served := 1, asks := some (s.cset.asks.getD s.tick) }
    sl.lost = none →
    (sl.valid = false → sl.pend = false → exec (.cbr f) s = .next (s.userTrap 0x0B 4)) ∧
    (sl.valid = true → sl.pend = false → k < 4 →
      (bit f.fn 1 = true → ∃ t, exec (.cbr f) s = .next t ∧ kept ms t ∧ t.cg.fold k = { after with wait := some here } ∧
        t.cset = { s.cset with stalled := true, served := 1 }) ∧
      (bit f.fn 1 = false →
        (s.logGrants 256 = false → ∃ t, exec (.cbr f) s = .next t ∧ kept ms t ∧ asking after here t) ∧
        (s.logGrants 256 = true → JoinsRest g (if dir then s.brTarget f else nextPc s) →
          ∃ t, exec (.cbr f) s = .next t ∧ kept ms t ∧ ahead here after t))) ∧
    (∀ c, sl.pend = true → sl.wait = some c → c.pc = s.cur.pc → k < 4 →
      (s.cset.asks = none → exec (.cbr f) s = .next (s.stallWith 1)) ∧
      (s.cset.asks.isSome = true → s.logGrants 256 = false → ∃ t, exec (.cbr f) s = .next t ∧ kept [] t ∧ asking sl c t) ∧
      (s.cset.asks.isSome = true → s.logGrants 256 = true → JoinsRest g (if c.dir then c.target else nextPc s) →
        ∃ t, exec (.cbr f) s = .next t ∧ kept [] t ∧ ahead c sl t))) ∧
  ∀ (s : State) (g k : Nat) (r : VoteRes), g < s.groups.length → k < 4 → s.resultFor g k = some r →
    let x := s.group g
    let sl := x.fold k
    sl.valid = true → sl.pend = true → sl.lost = none → (s.team x.team).st = .resident →
    let applied (y : Group) : Prop :=
      let z := y.fold k
      z.pend = false ∧ z.size = BitVec.ofNat 32 r.n ∧ z.lastT = BitVec.ofNat 24 r.t ∧ z.lastN = BitVec.ofNat 24 r.n ∧
      z.id = (if r.deg then sl.id ||| 0x40000000#32 else sl.id) ∧ z.vnum = sl.vnum ∧ bit y.regs.status 4 = (bit x.regs.status 4 || r.mix)
    let taken (t : State) : Prop := t.msgs = s.msgs.erase (.result g k r) ∧ ∀ h, h ≠ g → t.group h = s.group h
    (∀ c, x.ra = none → sl.wait = some c → s.standsAt g c = true →
      let s1 := { s with cur := { s.cur with g, e := c.entry, pc := c.pc, size := c.size } }
      let pc := if r.taken then c.target else nextPc s1
      JoinsRest x pc → ∃ t, exec (.voteResult g k) s = .next t ∧ taken t ∧ applied (t.group g) ∧ SplitAt s1 (t.group g) pc ∧
        KeepsRegs x (t.group g) {}) ∧
    (∀ a, (s.team x.team).user = true → x.ra = some a → a.slot = k → a.predicted = r.taken → a.stores = [] → ∃ t, exec (.voteResult g k) s = .next t ∧ taken t ∧
      applied (t.group g) ∧ (t.group g).ra = none ∧ { (t.group g).regs with status := x.regs.status } = x.regs ∧
      t.mem.cells = s.mem.cells ∧ (t.ctx (s.team x.team).ctx).exc = addExc (s.ctx (s.team x.team).ctx).exc a.exc) ∧
    (∀ a, (s.team x.team).user = true → x.ra = some a → a.slot = k → a.predicted = r.taken → MemCanonical s → OneOwner s.mem →
      (a.stores.map (·.n)).Pairwise (· ≤ ·) → (∀ h ∈ a.stores, HeldClear s (s.team x.team).core h) →
      (∀ h ∈ a.stores, ∀ h' ∈ a.stores, ∀ pa pa', h.w.place = .mem pa → h'.w.place = .mem pa' → pa / 128 = pa' / 128 →
        tracked h.cls h.sc = tracked h'.cls h'.sc) →
      let c := clusterOf (s.team x.team).core
      ∃ t, exec (.voteResult g k) s = .next t ∧ taken t ∧ applied (t.group g) ∧ (t.group g).ra = none ∧
        { (t.group g).regs with status := x.regs.status } = x.regs ∧
        ∀ q, placeByte t c q = written (a.stores.map (·.w)) q (placeByte s c q)) ∧
    ∀ a, (s.team x.team).user = true → x.ra = some a → a.slot = k → a.predicted ≠ r.taken → a.cbr.entry < 4 →
      let y := x.rollback
      let s1 := { s.setGroup g y with cur := { s.cur with g, e := a.cbr.entry, pc := a.cbr.pc, size := a.cbr.size } }
      let pc := if r.taken then a.cbr.target else nextPc s1
      (y.set a.cbr.entry).lanes ≠ 0 → (y.set a.cbr.entry).st = .ready → JoinsRest y pc →
      ∃ t, exec (.voteResult g k) s = .next t ∧ taken t ∧ applied (t.group g) ∧ (t.group g).ra = none ∧ SplitAt s1 (t.group g) pc ∧
        { (t.group g).regs with status := a.regs.status, lc := a.regs.lc } = a.regs ∧ t.mem.cells = s.mem.cells

/-- R341, R342, R344, R345, R356: the fold unit of the package, which counts the joins and keeps the record of every fold (log 15).
A join starts a formation, is refused at a formed fold or with another SIZE, and the last one forms the fold with ranks in ascending key and its
root chosen; what comes from another package's member is acknowledged each time; where a switch is the root, this package's votes go to it
together, and each leave.  A contribution is counted once, and the last one resolves the vote over the members that remain, under the mode of the lowest rank; a leave withdraws its member's
contribution and its rank's place, and the last one ends the fold; FOLDLOST does the same for a member cut off, which meets it later, once a result on its way to it has been applied. -/
def Obligations.FoldUnitFormsAndResolves : Prop :=
  ∀ (s : State) (id key : Nat) (m : Msg),
    let s1 := if s.firstOf m then { s with msgs := s.msgs.erase m } else s
    let comes : Prop := s.firstOf m = true ∨ s.ownKey key = false
    let told (who : Nat → Nat → Option (Nat × Nat)) (t : State) (key' : Nat) (here : Nat → Nat → Msg) (away : Msg) : Prop := match who id key' with
      | some (g, k) => here g k ∈ t.msgs
      | none => s.ownKey key' = false → away ∈ t.out
    let quiet (t : State) : Prop := t.groups = s.groups ∧ t.mem = s.mem
    (∀ size, m = .join id key size → comes →
      let refused (sub : Nat) : Prop := ∃ t, exec (.foldJoinMessage id key size) s = .next t ∧ quiet t ∧ t.teams = s.teams ∧ t.foldOf id = s.foldOf id ∧
        told s1.joinerOf t key (fun g k => .refused g k sub) (.remoteRefused key id sub)
      let formed (ms : List Nat) : Prop := ∃ t f', exec (.foldJoinMessage id key size) s = .next t ∧ quiet t ∧ t.teams = s.teams ∧
        t.foldOf id = some f' ∧ f'.formed = true ∧ f'.size = size ∧ f'.members = sortBy (fun a b => a ≤ b) ms ∧ f'.left = [] ∧ f'.contribs = [] ∧
        f'.root = some (foldRoot f'.members) ∧
        ∀ i k', f'.members[i]? = some k' → told s1.joinerOf t k' (fun g k => .formed g k i size) (.remoteFormed k' id i size)
      (s.foldOf id = none → 1 < size → ∃ t, exec (.foldJoinMessage id key size) s = .next t ∧ quiet t ∧ t.teams = s.teams ∧
        t.foldOf id = some { id, size, members := [key], left := [], formed := false, next := 0, contribs := [] }) ∧
      (s.foldOf id = none → size = 1 → formed [key]) ∧
      ∀ f, s.foldOf id = some f →
        (f.formed = true → refused 6) ∧
        (f.formed = false → f.size ≠ size → refused 5) ∧
        (f.formed = false → f.size = size → key ∈ f.members → exec (.foldJoinMessage id key size) s = .next s1) ∧
        (f.formed = false → f.size = size → key ∉ f.members → f.members.length + 1 < size →
          ∃ t, exec (.foldJoinMessage id key size) s = .next t ∧ quiet t ∧ t.teams = s.teams ∧ t.foldOf id = some { f with members := f.members ++ [key] }) ∧
        (f.formed = false → f.size = size → key ∉ f.members → f.members.length + 1 = size → f.left = [] → f.contribs = [] →
          formed (f.members ++ [key]))) ∧
    (∀ vote p mode f, m = .contribution id vote key p mode → comes → s.foldOf id = some f → f.formed = true →
      let i := Instr.foldContribution id vote key p mode
      let cs := f.contribs ++ [(key, p, mode)]
      let have_ (k : Nat) : Bool := cs.any fun c => c.1 == k
      let passed (t : State) : Prop := (s.ownKey key = false → .foldAck id (some vote) key ∈ t.out) ∧
        (f.root = some .pod → s.ownKey key = true → (∀ k ∈ f.rest, s.ownKey k = true → have_ k = true) →
          .combined id vote (cs.filter fun c => s.ownKey c.1) ∈ t.out)
      ((vote ≠ f.next ∨ key ∉ f.rest ∨ ∃ c ∈ f.contribs, c.1 = key) → exec i s = .next (s1.foldAck id (some vote) key)) ∧
      (vote = f.next → key ∈ f.rest → (∀ c ∈ f.contribs, c.1 ≠ key) →
        (f.rest.all have_ = false → ∃ t, exec i s = .next t ∧ quiet t ∧ passed t ∧ t.foldOf id = some { f with contribs := cs }) ∧
        (f.rest.all have_ = true →
          let ps := f.rest.filterMap fun k => cs.find? fun c => c.1 == k
          ∃ t r, exec i s = .next t ∧ quiet t ∧ passed t ∧ t.foldOf id = some { f with next := f.next + 1, contribs := [] } ∧
            (∀ k' ∈ f.rest, told s1.memberOf t k' (fun g k => .result g k r) (.remoteResult k' id r)) ∧
            r.fold = f.id ∧ r.vote = f.next ∧ r.n = f.rest.length ∧ r.t = ps.countP (·.2.1) ∧ (r.deg = true ↔ f.left ≠ []) ∧
            (∀ c, ps.head? = some c →
              (r.taken = true ↔ match c.2.2 with | .all => r.t = r.n | .any => 1 ≤ r.t | .maj => r.n < 2 * r.t) ∧
              (r.mix = true ↔ ∃ x ∈ ps, x.2.2 ≠ c.2.2))))) ∧
    (∀ f, m = .leave id key → comes → s.foldOf id = some f → key ∈ f.members →
      (f.formed = true → f.rest = [key] → ∃ t, exec (.foldLeave id key) s = .next t ∧ quiet t ∧ t.foldOf id = none) ∧
      (f.formed = true → key ∉ f.left →
        let f' := { f with left := f.left ++ [key], contribs := f.contribs.filter fun c => c.1 != key }
        f'.rest ≠ [] → f'.rest.all (fun k => f'.contribs.any fun c => c.1 == k) = false →
        ∃ t, exec (.foldLeave id key) s = .next t ∧ quiet t ∧ t.foldOf id = some f' ∧ (s.ownKey key = false → .foldAck id none key ∈ t.out) ∧
          (f.root = some .pod → s.ownKey key = true → .leave id key ∈ t.out)) ∧
      (f.formed = false → f.members.erase key ≠ [] → ∃ t, exec (.foldLeave id key) s = .next t ∧ quiet t ∧
        t.foldOf id = some { f with members := f.members.erase key })) ∧
    (∀ f g k, s.foldOf id = some f → f.formed = true → s.memberOf id key = some (g, k) → key ∈ f.members → key ∉ f.left →
      ((s.group g).fold k).valid = true → ((s.group g).fold k).pend = false ∨ (s.resultOn g k).isSome = true → (s.group g).ra = none → (∃ j ∈ f.rest, j ≠ key) →
      f.contribs = [] → g < s.groups.length → k < 4 →
      let sl := (s.group g).fold k
      ∃ t, exec (.foldlost id [key]) s = .next t ∧ t.foldOf id = some { f with left := f.left ++ [key] } ∧
        (t.group g).fold k = (if (s.resultOn g k).isSome then { sl with lost := some (id, sl.vnum) } else { lost := some (id, sl.vnum) }) ∧
        ∀ h, h ≠ g → t.group h = s.group h)

/-- R341, R357: the answers of the fold unit reach their slot: the formation lets FJOIN complete with the fold's id, rank and size, and a refusal traps there.
R338: an entry of the fold table is written where its value is one that the rule allows, and stays as it was otherwise. -/
def Obligations.FoldAnswersReachTheirSlot : Prop :=
  (∀ (s : State) (g k id : Nat) (c : CbrAt), g < s.groups.length → k < 4 → ((s.group g).fold k).joining = some id → ((s.group g).fold k).wait = some c →
    s.standsAt g c = true →
    let x := s.group g
    let s1 := { s with cur := { s.cur with g, e := c.entry, pc := c.pc, size := c.size } }
    (∀ rank size, s.msgs = [.formed g k rank size] → JoinsRest x (nextPc s1) → ∃ t, exec (.foldFormed g k) s = .next t ∧ t.msgs = [] ∧
      (t.group g).fold k = { x.fold k with id := 0x80000000#32 ||| BitVec.ofNat 32 id, rank := BitVec.ofNat 32 rank, size := BitVec.ofNat 32 size,
                                           vnum := 0, pend := false, pre := false, lastT := 0, lastN := 0, joining := none, wait := none } ∧
      SplitAt s1 (t.group g) (nextPc s1) ∧ KeepsRegs x (t.group g) {} ∧ (∀ h, h ≠ g → t.group h = s.group h)) ∧
    (∀ sub, Msg.refused g k sub ∈ s.msgs → (s.team x.team).hdr.traph ≠ 0 → x.handler = none → ∃ t r, exec (.joinRefused g k sub) s = .next t ∧
      t.msgs = s.msgs.erase (.refused g k sub) ∧ (t.group g).fold k = {} ∧ (t.group g).trapReq = some r ∧ r.cause = 0x0B ∧ r.sub = sub ∧
      r.pc = c.pc ∧ r.entry = c.entry ∧ ∀ h, h ≠ g → t.group h = s.group h)) ∧
  ∀ (s : State) (id : Nat) (val mask : DWord), id < 4096 →
    let v := (lookupD s.pkg.foldTab id 0 &&& ~~~mask) ||| (val &&& mask)
    let good : Prop := bits v 48 15 = (0 : BitVec 15) ∧ bits v 24 8 = (0 : BitVec 8) ∧
      (bit v 63 = true → 1 ≤ (bits v 0 24 : BitVec 24).toNat ∧ (bits v 0 24 : BitVec 24).toNat ≤ 2 ^ 23)
    (¬ good → exec (.foldTableWrite id val mask) s = .next s) ∧
    (good → ∃ t, exec (.foldTableWrite id val mask) s = .next t ∧ lookupD t.pkg.foldTab id 0 = v ∧
      { t with pkg := { t.pkg with foldTab := s.pkg.foldTab } } = s ∧ ∀ j, j ≠ id → lookupD t.pkg.foldTab j 0 = lookupD s.pkg.foldTab j 0)

/-! ## Class 10: collectives, HALO and remote copies (R358-R376) -/

/-- R364: COLL of a whole group is kept with its word and address, and a ninth one of the team waits; the team's collective starts once every live
group has issued it: with equal words and one agent it is created with the fold's members as participants, with unequal words every
group traps.
R366, R370, R372-R374: a contribution counts once for each position, first as a start and then with its elements; a chunk that its position can use
is combined with the elements that are read then and passed on, or, once final, written, kept and passed on; one that it cannot yet use
waits in a slot, and comes back from the rick; one accepted before is dropped and acknowledged again, to the package of the hop that sent it. -/
def Obligations.CollectivesStartAndMove : Prop :=
  (∀ (s : State) (f : ENF) (i : Instr), i ∈ [Instr.collAr f, .collRs f, .collAg f, .collBc f, .collRd f, .collBar f] →
    IssuesSplit s → NotAhead s → Original s → WholeGroup s → TeamHeld s →
    let ws := s.ct.collWords
    let n := (s.ct.colls.filter fun c => !c.done).length + (ws.filter fun w => w.1 == s.cur.g).length
    (n < 8 → ∃ t, exec i s = .next t ∧ t.ct = { s.ct with collWords := ws ++ [(s.cur.g, s.cur.word, s.cur.pc)] } ∧ OnlyTeam s t s.cg.team ∧
      KeepsRegs s.cg t.cg {} ∧ KeepsSpecial s.cg t.cg ∧ KeepsGroup s.cg t.cg) ∧
    (8 ≤ n → exec i s = .next s.stall)) ∧
  (∀ (s : State) (u : Nat) (w : DWord), (s.team u).st = .resident → u < s.teams.length → (s.team u).firstWords ≠ [] →
    let ws := (s.team u).firstWords
    let live := (s.teamGroups u).filter fun g => !(s.group g).ended
    let k := (wSlot w).toNat
    (∀ g ∈ live, ∃ v ∈ ws, v.1 = g) →
    let s1 := s.modTeam u fun y => { y with collWords := ws.foldl (fun l v => l.erase v) y.collWords }
    (∀ g f, (∀ v ∈ ws, v.2.1 = w) → (live.filter fun g => ((s.group g).fold k).valid) = [g] → s1.collCheck g w = none →
      s.foldOf ((s.group g).fold k).fid = some f →
      let sl := (s.group g).fold k
      ∃ t c, exec (.collectiveStart u) s = .next t ∧ c ∈ (t.team u).colls ∧ c.id = s.cmdNo ∧ c.fold = f.id ∧ c.num = sl.colls % 2 ^ 20 ∧
        c.word = w ∧ c.agent = g ∧ c.participants = f.rest ∧ c.pos = f.rest.findIdx (· == sl.key) ∧ c.done = false ∧
        (t.team u).collWords = (s1.team u).collWords ∧ ((t.group g).fold k).colls = sl.colls + 1) ∧
    (∀ v, ws.length = 2 → v ∈ ws → v.2.1 = w → (∃ x ∈ ws, x.2.1 ≠ w) → (∀ x ∈ ws, x.1 < s.groups.length ∧ (s.group x.1).ended = false ∧
        (s.group x.1).team = u ∧ (s.group x.1).handler = none ∧ (s.group x.1).trapReq = none) → (s.team u).hdr.traph ≠ 0 →
      ∃ t, exec (.collectiveStart u) s = .next t ∧ ∀ x ∈ ws, ∃ r, (t.group x.1).trapReq = some r ∧ r.cause = 0x0C ∧ r.sub = 5 ∧ r.pc = x.2.2)) ∧
  (∀ (s : State) (fold num pos : Nat) (word : DWord) (root : Word) (count dcount : Nat) (els : List QWord),
    let m := Msg.tree fold num pos word root count dcount els
    let i := Instr.treeContribution fold num pos word root count dcount els
    let x : Contrib := { fold, num, pos, word, root, count, dcount, elems := els }
    let gone := { s with msgs := s.msgs.erase m }
    m ∈ s.msgs → (s.foldOf fold).isSome = true →
      (∀ old, s.contribOf fold num pos = some old → old.elems ≠ [] ∨ els = [] → exec i s = .next gone) ∧
      (∀ old, s.contribOf fold num pos = some old → old.elems = [] → els ≠ [] →
        exec i s = .next { gone with pkg := { s.pkg with contribs := s.pkg.contribs.map fun d => if d = old then x else d } }) ∧
      (s.contribOf fold num pos = none → ∃ t, exec i s = .next t ∧ t.msgs = s.msgs.erase m ∧ t.pkg.contribs = s.pkg.contribs ++ [x] ∧
        t.groups = s.groups ∧ t.teams = s.teams ∧ t.mem = s.mem)) ∧
  (∀ (s : State) (fold num chunk src pos : Nat) (final : Bool) (els : List QWord) (counts : List Nat) (fls : List (BitVec 5)) (u : Nat) (c : Coll),
    let m := Msg.chunk fold num chunk src pos final els counts fls
    let i := Instr.chunkReceive fold num chunk src pos final els counts fls
    let ack := s.ackOut m (s.hopPkg fold num chunk src pos) [0, fold, num, chunk, src, pos, if final then 1 else 0]
    let gone := { ack with msgs := s.msgs.erase m }
    let xs := chunkEls els counts fls
    let next := c.next chunk src c.pos
    let passed (v t : State) (fin : Bool) (ys : List RedEl) : Prop :=
      let msg := chunkMsg c chunk src next fin ys
      if s.ownKey (c.participants.getD next 0) then t.msgs = v.msgs ++ [msg] else t.out = v.out ++ [msg]
    let atEnd : Prop := c.pos = c.chainEnd src
    (s.posHere fold pos = true → s.collAt fold num pos = some (u, c) → u < s.teams.length →
      (c.done = true ∨ c.fail.isSome = true ∨ c.seen.contains (chunk, src, final) = true → exec i s = .next gone) ∧
      (c.seen.contains (chunk, src, final) = false → s.takes u c = true →
        let kept (v : State) (ys : List RedEl) : Prop := ∀ w fs, v.collDeliver u c (c.place chunk src (v.chunkFinal c chunk ys)) = .ok (w, fs) →
          ∃ t c', exec i s = .next t ∧ c' ∈ (t.team u).colls ∧ c'.id = c.id ∧
            (chunk, src, final) ∈ c'.seen ∧ { chunk, src, els := ys } ∈ c'.got ∧ t.groups = w.groups ∧ t.mem = w.mem ∧
            (next ≠ c.chainEnd src → passed w t true ys)
        (final = true → kept gone xs) ∧
        ∀ v own, final = false → gone.ownChunk u c chunk = (v, some own) →
          let mine := List.zipWith (redComb (collTy c.word) (collOp c.word)) xs own
          (atEnd → kept v mine) ∧
          (¬ atEnd → ∃ t, exec i s = .next t ∧ t.groups = v.groups ∧ t.mem = v.mem ∧ passed v t false mine)) ∧
      (∀ k, c.done = false → c.fail = none → c.seen.contains (chunk, src, final) = false → s.takes u c = false →
        (s.pkg.slots.map (·.2) ++ s.pkg.rick).contains m = false → (gone.seeColl fold num).freeSlot fold num = some k →
        ∃ t, exec i s = .next t ∧ t.pkg.slots = s.pkg.slots ++ [(k, m)] ∧ t.msgs = gone.msgs ∧ t.groups = s.groups ∧ t.mem = s.mem)) ∧
    (∀ k, s.pkg.rick = [m] → s.freeSlot fold num = some k → s.collAt fold num pos = none →
      exec .rickFetch s = .next { s with pkg := { s.pkg with rick := [], slots := s.pkg.slots ++ [(k, m)] } }))

/-- R365, R366, R368-R372: a collective does nothing before every participant has started; it then reads its source and sends it in tree mode, or sends
the chunks that start at its position, one after the other, in ring mode.  With its result, or every final chunk, it raises the flags of
what was written, counts and is over; a failed one, or one whose shapes do not fit, records its first failure since the last CLR, and is not
counted (the model's reading, log 46).  A participant of another package that fails makes it fail here with MEMBER.
In tree mode on one package (log 16) reduced elements are combined in position order. -/
def Obligations.CollectivesDeliverAndEnd : Prop :=
  (∀ (s : State) (fold num pos u : Nat) (c : Coll), s.collAt fold num pos = some (u, c) → c.done = false → c.held = false → u < s.teams.length →
    (s.team u).st = .resident → (s.team u).user = true →
    let i := Instr.collectiveComplete fold num pos
    let isDone (t : State) : Prop := ∀ x ∈ (t.team u).colls, x.id = c.id → x.done = true
    let cs := s.pkg.contribs.filter fun x => x.fold == fold && x.num == num
    let arrived := c.participants.length ≤ cs.length
    let shape := collShapeOk c.word c.ranks (sortBy (fun (a b : Contrib) => a.pos ≤ b.pos) cs) = true
    let ends (v t : State) (fls : List Fl) : Prop := isDone t ∧ (t.team u).collDone = (v.team u).collDone + 1 ∧ t.mem.cells = v.mem.cells ∧
      (∀ g ∈ s.teamGroups u, (t.group g).regs.fpflags = (v.group g).regs.fpflags ||| (joinFl fls).setWidth 32) ∧
      ∀ o k, v.objPlace u .loc c.obj = some (o, k) → ∀ w a, (w ≠ o ∨ a < k ∨ k + 8 ≤ a) → t.padNat w a 1 = v.padNat w a 1
    (∀ code, c.fail = some code ∨ (c.fail = none ∧ arrived ∧ ¬ shape ∧ code = 1) →
      ∃ t, exec i s = .next t ∧ isDone t ∧ (t.team u).collDone = (s.team u).collDone ∧
        (t.team u).collStat = (if bit (s.team u).collStat 31 then (s.team u).collStat
          else 1#1 ++ wMinor c.word ++ BitVec.ofNat 8 code ++ BitVec.ofNat 16 c.num)) ∧
    (c.fail = none → ¬ arrived → exec i s = .next s) ∧
    (c.fail = none → arrived → shape → c.loaded = false →
      (collKind c.word = .bar → ∃ t c', exec i s = .next t ∧ c' ∈ (t.team u).colls ∧ c'.id = c.id ∧ c'.loaded = true ∧ t.mem = s.mem) ∧
      (∀ p ms, collKind c.word ≠ .bar → c.ring cs = false → ptrOf c.src = some p →
        s.cmdMoves (c.cmd u) (some p) none [] ((tileElems c.stile).map fun k => (some k, 0)) = (ms, none) →
        (∀ e ∈ ms.filterMap (·.1), s.waits e.place = false) →
        let r := s.cmdRead (c.cmd u) p (tailCode (c.cmd u).nf p.ty) (ms.map (·.1))
        ∃ t c', exec i s = .next t ∧ c' ∈ (t.team u).colls ∧ c'.id = c.id ∧ c'.loaded = true ∧ t.mem = r.1.mem ∧
          .tree fold num pos c.word c.root (tileCount c.stile) (tileCount c.dtile) (r.2.map fun v => BitVec.ofNat 128 v.1) ∈ t.msgs)) ∧
    (c.fail = none → arrived → shape → c.loaded = true →
      (c.ring cs = false → (∀ x ∈ cs, x.elems.length = x.count) → ∀ v fls,
        s.collDeliver u c ((c.result (s.tick * 2 ^ 23 + c.pos) cs).zipIdx.map fun x => (x.2, x.1)) = .ok (v, fls) →
        ∃ t, exec i s = .next t ∧ ends v t fls) ∧
      (∀ k v own, c.ring cs = true → c.toStart = some k → s.ownChunk u c k = (v, some own) → c.pos ≠ c.chainEnd c.pos →
        let msg := chunkMsg c k c.pos (c.next k c.pos c.pos) false own
        ∃ t c', exec i s = .next t ∧ c' ∈ (t.team u).colls ∧ c'.id = c.id ∧ (k, c.pos, false) ∈ c'.seen ∧ t.mem = v.mem ∧
          if s.ownKey (c.participants.getD (c.next k c.pos c.pos) 0) then msg ∈ t.msgs else msg ∈ t.out) ∧
      (c.ring cs = true → c.toStart = none → (∀ x ∈ c.finals cs, ∃ g ∈ c.got, g.chunk = x.1 ∧ g.src = x.2) →
        ∃ t, exec i s = .next t ∧ ends s t c.fls))) ∧
  (∀ (s : State) (fold num pos u : Nat) (d : Coll), s.collAt fold num pos = none → u < s.teams.length → d ∈ (s.team u).colls →
    d.fold = fold → d.num = num → d.done = false → d.fail = none → (∃ k, d.participants[pos]? = some k ∧ s.ownKey k = false) →
    ∃ t, exec (.collectiveComplete fold num pos) s = .next t ∧ { d with fail := some 2 } ∈ (t.team u).colls ∧ t.groups = s.groups ∧
      t.mem = s.mem) ∧
  ∀ (c : Coll) (n p : Nat) (cs : List Contrib), collNd c.word = false → (cs.map (·.pos)).Pairwise (· < ·) → (∀ x ∈ cs, c.pkgOf x.pos = p) →
    ∀ x rest, cs = x :: rest →
      let els (y : Contrib) : List RedEl := y.elems.map fun e => redOf (collTy c.word) e.toNat
      c.treeRed n cs = rest.foldl (fun acc y => List.zipWith (redComb (collTy c.word) (collOp c.word)) acc (els y)) (els x)

/-- R376: HALO of a member creates a command with its tiles, counted by peer and tag; data that come before they can be taken wait in a shared slot, and
repeats are dropped; it is over at once where the peer has left the fold, and where its rank is no member (the model's reading, log 47).
R374, R375: a packet of another package's PUTR is written at its home once and answered each time, while the window of its command is open, and one
of a GETR is answered with the bytes, or with the poisoned line that it meets (R438); what comes back to a GETR here is kept for it once and
acknowledged; a command whose path is lost ends with a record of its machine check.
R374, R376: what was sent out of the package and is not acknowledged leaves again unchanged; a HALO that is acknowledged end to end counts as
written (the model's reading, log 47). -/
def Obligations.RemoteTransfersArriveOnce : Prop :=
  (∀ (s : State) (f : ENF) (d p : Ptr), IssuesSplit s → NotAhead s → Original s → s.cmdRoom = true →
    let g := s.cg
    let k := f.slot.toNat
    let sl := g.fold k
    let rt := g.tile (f.dst.toNat % 8)
    let st := g.tile f.tsel.toNat
    let peer := g.sreg f.sa.toNat
    let tag := g.sreg f.sb.toNat
    k < 4 → sl.valid = true → tileV rt = true → tileV st = true → s.ptrCheck2 s.cur.g (some (g.tilePtr rt)) (some (g.tilePtr st)) = none →
    ptrOf (g.tilePtr rt) = some d → ptrOf (g.tilePtr st) = some p → d.ty = p.ty → glbLoc d = true → glbLoc p = true →
    tileBeyond rt d = false → tileBeyond st p = false → peer.toNat < 2 ^ 23 → peer ≠ sl.rank → bits tag 16 16 = (0 : BitVec 16) →
    (∀ o, g.objOf f = some o → (s.objPlace g.team o.1 o.2).isSome = true) →
    ∃ t c h, exec (.halo f) s = .next t ∧ OnlyGroup { s with cmds := s.cmds ++ [c], cmdNo := s.cmdNo + 1 } t ∧ KeepsRegs g t.cg {} ∧
      KeepsSpecial g t.cg ∧ c.id = s.cmdNo ∧ c.kind = .halo ∧ c.dst = g.tilePtr rt ∧ c.src = g.tilePtr st ∧ c.obj = g.objOf f ∧ c.batch = none ∧
      c.done = false ∧ c.halo = some h ∧ h.fold = sl.fid ∧ h.me = sl.rank.toNat ∧ h.peer = peer.toNat ∧ h.tag = tag.toNat ∧ h.sent = false ∧
      h.num = ((sl.halos.find? fun x => x.1 == peer.toNat && x.2.1 == tag.toNat).map (·.2.2)).getD 0 ∧
      ((t.cg.fold k).halos.find? fun x => x.1 == peer.toNat && x.2.1 == tag.toNat) = some (peer.toNat, tag.toNat, h.num + 1) ∧
      ∀ j, j ≠ k → t.cg.fold j = g.fold j) ∧
  (∀ (s : State) (id : Nat) (c : Cmd) (h : HaloPart), s.liveCmd id = some c → c.kind = .halo → c.halo = some h → c.dptr.isSome = true →
    c.sptr.isSome = true → c.obj = none → s.haloKey h = none →
    ∃ t, exec (.copyComplete id) s = .next t ∧ ∀ x ∈ t.cmds, x.id = id → x.done = true) ∧
  (∀ (s : State) (fold src dst tag num k : Nat) (els : List QWord),
    let m := Msg.halo fold src dst tag num els
    let i := Instr.haloReceive fold src dst tag num els
    let mine (f : FoldSlot) : Bool := f.valid && f.fid == fold && f.rank.toNat == dst
    let here : Prop := ∃ g j, g < s.groups.length ∧ j < 4 ∧ mine ((s.group g).fold j) = true
    let waits : Prop := ∃ c ∈ s.cmds, c.done = false ∧ ∃ h, c.halo = some h ∧ h.fold = fold ∧ h.me = dst ∧ h.peer = src ∧ h.tag = tag ∧
      h.num = num ∧ h.received = false
    here →
      ((∃ x ∈ s.pkg.slots, x.2 = m) → exec i s = .next { s with msgs := s.msgs.erase m }) ∧
      (∀ f, ((List.range s.groups.length).flatMap fun g => (List.range 4).map fun k => (s.group g).fold k).find? mine = some f →
        (∀ x ∈ s.pkg.slots, x.2 ≠ m) → m ∉ s.pkg.rick → ¬ waits → (∃ h ∈ f.halos, h.1 = src ∧ h.2.1 = tag ∧ num < h.2.2) →
        exec i s = .next { s.ackOut m (s.rankPkg fold src) [2, fold, src, dst, tag, num] with msgs := s.msgs.erase m }) ∧
      ((∀ x ∈ s.pkg.slots, x.2 ≠ m) → m ∉ s.pkg.rick → waits → k < 64 → (∀ x ∈ s.pkg.slots, x.1 ≠ 960 + k) →
        (∀ j, j < k → ∃ x ∈ s.pkg.slots, x.1 = 960 + j) →
        exec i s = .next { s with msgs := s.msgs.erase m, pkg := { s.pkg with slots := s.pkg.slots ++ [(960 + k, m)] } })) ∧
  (∀ (s : State) (src cmd num pa count : Nat) (bytes : List Byte), MemCanonical s →
    let key := (src, cmd, num)
    let put := Instr.remotePacket src cmd num pa ⟨count, true, bytes⟩
    let here (n : Nat) : Prop := paPkg pa = s.pkg.num.toNat ∧ isIo pa = false ∧ ∀ k, k < n → s.waits (.mem ((pa + k) / 128 * 128)) = false
    (key ∈ s.pkg.window → exec put s = .next { s with out := s.out ++ [.remoteAck (src / 256) cmd num] }) ∧
    (key ∉ s.pkg.window → bytes ≠ [] → here bytes.length → (∀ l ∈ s.mem.lines, ∀ k, k < bytes.length → l.line ≠ (pa + k) / 128) →
      (∀ ln ∈ linesOf pa bytes.length, s.mem.ownedFar ln = false ∧
        (s.mem.poisoned ln = true → lineMask ln pa bytes.length = BitVec.allOnes 128)) →
      ∃ t, exec put s = .next t ∧ (∀ ln ∈ linesOf pa bytes.length, t.mem.poisoned ln = false) ∧ (∀ k b, bytes[k]? = some b → t.mem.homeByte (pa + k) = b) ∧
        (∀ a, (a < pa ∨ pa + bytes.length ≤ a) → t.mem.homeByte a = s.mem.homeByte a) ∧
        t.pkg.window = s.pkg.window ++ [key] ∧ .remoteAck (src / 256) cmd num ∈ t.out ∧ t.groups = s.groups ∧ t.teams = s.teams) ∧
    (here count → (∀ ln ∈ linesOf pa count, s.mem.poisoned ln = false) → exec (.remotePacket src cmd num pa ⟨count, false, bytes⟩) s =
      .next { s with out := s.out ++ [.remote (src / 256) src cmd num pa ((List.range count).map fun k => s.mem.homeByte (pa + k))],
                     mem := s.mem.homeRead (linesOf pa count) }) ∧
    (∀ ln, here count → (linesOf pa count).find? s.mem.poisoned = some ln → exec (.remotePacket src cmd num pa ⟨count, false, bytes⟩) s =
      .next { s with out := s.out ++ [.remoteBad (src / 256) src cmd num (ln * 128)] }) ∧
    (∀ c, key ∉ s.pkg.window → bytes ≠ [] → src / 256 = s.pkg.num.toNat → paPkg pa ≠ s.pkg.num.toNat → s.cmdOfPacket src cmd = some c →
      c.kind = .getr → (∀ b ∈ c.back, b.1 ≠ num) →
      exec put s = .next { s.modCmd c.id fun x => { x with back := x.back ++ [(num, pa, bytes)] } with
        out := s.out ++ [.remoteAck (paPkg pa) cmd num] }) ∧
    exec (.repeatWindowExpire src cmd) s = .next { s with pkg := { s.pkg with window := s.pkg.window.filter fun w => !(w.1 == src && w.2.1 == cmd) } }) ∧
  (∀ (s : State) (id : Nat) (c : Cmd), (s.cmds.find? fun c => c.id == id && !c.done) = some c → (c.kind = .putr ∨ c.kind = .getr) →
    (s.team c.team).user = true → ∃ t r, exec (.remotePathLost id) s = .next t ∧ (∀ x ∈ t.cmds, x.id = id → x.done = true) ∧
      t.faults = s.faults ++ [r] ∧ r.code = 7 ∧ r.scope = .cmd ∧ r.unit = id ∧ t.mem = s.mem ∧ t.teams = s.teams) ∧
  ∀ (s : State) (id : Nat) (m : Msg), s.out[id]? = some m →
    (match m with | .chunk .. | .tree .. | .halo .. | .remote .. | .remoteGet .. => True | _ => False) →
    let told := { s with pkg := { s.pkg with ackedOut := s.pkg.ackedOut ++ [id] } }
    (id ∉ s.pkg.ackedOut → exec (.chunkResend ⟨id, false⟩) s = .next { s with out := s.out ++ [m] }) ∧
    (∀ acked, id ∈ s.pkg.ackedOut → exec (.chunkResend ⟨id, acked⟩) s = .next s) ∧
    (id ∉ s.pkg.ackedOut → exec (.chunkResend ⟨id, true⟩) s =
      .next (match m with | .halo fold src dst tag num _ => told.haloWritten fold src dst tag num | _ => told))

/-! ## Ports (R377-R383) -/

/-- R377-R380: a port that is up, outside replay (R442), takes a good DATA flit in sequence, once, gives its buffer back, and acknowledges at the
latest with the 64th; up to three byte errors of each codeword do no harm; a bad flit, or one out of sequence, is dropped, and a NAK goes out once for the gap and again while it stays open.  A flit that waits leaves, numbered and
kept, when its channel gets a credit.
A NAK, and 2 µs without progress, send what is not acknowledged again, in order and unchanged; with the eighth time the port retrains.
R381-R383: lost lanes start a retrain, which stops DATA flits until both ends are READY on the lanes chosen; a requested one may come back to full
width, and a RETRAIN with an empty mask counts as requested; where both halves have failed, or an automatic one finds the port at half width,
the port goes DOWN, and its flits leave through others before what those have not sent; an automatic one without a failed lane keeps full
width (the empty mask and this last are the model's reading, log 49). -/
def Obligations.PortsDeliverInOrder : Prop :=
  ∀ (s : State) (n : Nat), n < 12 →
    let p := s.port n
    let me := s.pkg.num
    let upd (t : State) (q : Port) : Prop := t = { s with pkg := { s.pkg with ports := vecPut s.pkg.ports n q } }
    let replays := if p.rplCount = BitVec.allOnes 12 then p.rplCount else p.rplCount + 1
    let idle (q : Port) (nak : Bool) : Port :=
      let owed := vecPut q.owed q.owing.1.toNat (vecAt q.owed q.owing.1.toNat 0 - q.owing.2.toNat)
      { q with out := q.out ++ [ackFlit me (q.expected - 1) nak q.owing.1 q.owing.2], acked := q.expected - 1, owed, due := owed.toList.any (· != 0) }
    let naked : Port := { idle p true with gap := true, naks := p.naks + 1 }
    let tested : Prop := ∃ x ∈ s.pkg.tests, x.cls = 4 ∧ x.place = n
    (∀ f, (∀ r, r < 2 → ((f.hits.dedup.filter fun j => j < 256 && j % 2 == r).length ≤ 3)) → flitGood f = flitGood { f with hits := [] }) ∧
    (∀ f, s.pkg.replay = true → exec (.flitReceive n f) s = .next s) ∧
    (p.width ≠ 0 →
      (∀ f, s.pkg.replay = false → flitGood f = false →
        (p.gap = true ∨ p.train = true → exec (.flitReceive n f) s = .next s) ∧
        (p.gap = false → p.train = false → ∃ t, exec (.flitReceive n f) s = .next t ∧ upd t naked)) ∧
      (∀ f, s.pkg.replay = false → flitGood f = true → f.kind = 1 → f.av = false → f.nak = false → f.cred = 0 → p.queue = [] → s.pkg.recording = false →
        let got : Port := { p with expected := p.expected + 1, gap := false, due := true, owed := vecPut p.owed f.vc.toNat (vecAt p.owed f.vc.toNat 0 + 1) }
        (p.train = true → ∃ t, exec (.flitReceive n f) s = .next t ∧ upd t p) ∧
        (p.train = false → p.tries < 8 →
          (f.seq = p.expected → (p.expected - p.acked).toNat < 64 → ∃ t, exec (.flitReceive n f) s = .next t ∧ upd t got) ∧
          (f.seq = p.expected → 64 ≤ (p.expected - p.acked).toNat → ∃ t, exec (.flitReceive n f) s = .next t ∧ upd t (idle got false)) ∧
          (f.seq ≠ p.expected → p.gap = true → ∃ t, exec (.flitReceive n f) s = .next t ∧ upd t p) ∧
          (f.seq ≠ p.expected → p.gap = false → ∃ t, exec (.flitReceive n f) s = .next t ∧ upd t naked))) ∧
      (∀ f d, s.pkg.replay = false → flitGood f = true → f.kind = 0 → f.av = false → f.nak = false → f.cred ≠ 0 → p.queue = [d] → d.vc = f.cvc → p.train = false →
        p.tries < 8 → p.unacked < 2048 →
        let sent := flitSealed { d with seq := p.sendSeq, kind := 1 }
        ∃ t, exec (.flitReceive n f) s = .next t ∧ upd t
          { p with queue := [], replay := p.replay ++ [sent], out := p.out ++ [sent], sendSeq := p.sendSeq + 1,
                   credits := vecPut p.credits f.cvc.toNat (vecAt p.credits f.cvc.toNat 0 + f.cred.toNat - 1) }) ∧
      (p.train = false → p.tries < 7 → p.unacked ≠ 0 →
        (∃ t, exec (.replayTimeout n) s = .next t ∧ upd t { p with out := p.out ++ p.replay, tries := p.tries + 1, rplCount := replays }) ∧
        (∀ ack first, p.replay.head? = some first → p.queue = [] →
          let d := (ack + 1 - first.seq).toNat
          1 ≤ d → d < p.unacked → ∃ t, exec (.nakReceive n ack) s = .next t ∧
            upd t { p with replay := p.replay.drop d, out := p.out ++ p.replay.drop d, tries := 1, rplCount := replays })) ∧
      (p.train = false → p.tries = 7 → p.unacked ≠ 0 → ∃ t, exec (.replayTimeout n) s = .next t ∧
        (t.port n).train = true ∧ (t.port n).step = 2 ∧ (t.port n).out = p.out ++ p.replay ++ [ctrlFlit me 1 p.mask (p.expected - 1)]) ∧
      (p.due = true → ∃ t, exec (.ackTimer n) s = .next t ∧ upd t (idle p false)) ∧
      (p.gap = true → p.train = false → ∃ t, exec (.nakRepeat n) s = .next t ∧ upd t naked) ∧
      (∀ lanes, ∃ t, exec (.laneLossOfLock n lanes) s = .next t ∧ upd t
        { p with train := true, step := 2, mask := p.mask ||| lanes, requested := p.requested && p.train, due := false,
                 out := p.out ++ [ctrlFlit me 1 (p.mask ||| lanes) (p.expected - 1)] })) ∧
    (∀ lanes ack, p.unacked = 0 → ∃ t, exec (.ctrlRetrain n lanes ack) s = .next t ∧
      upd t { p with train := true, step := 4, mask := p.mask ||| lanes, requested := p.requested || lanes == 0 }) ∧
    (∃ t, exec (.portctlRetrain n) s = .next t ∧ upd t
      { p with train := true, step := 2, mask := 0, requested := true,
               out := p.out ++ [ctrlFlit me 1 0 (p.expected - 1)] }) ∧
    (p.train = true → p.step = 2 → ∃ t, exec (.retrainResend n) s = .next t ∧ upd t { p with out := p.out ++ [ctrlFlit me 1 p.mask (p.expected - 1)] }) ∧
    (∀ found, p.train = true → p.step ≤ 5 → ¬ tested →
      let failed := p.mask ||| found
      let low : Prop := (bits failed 0 8 : BitVec 8) ≠ 0
      let high : Prop := (bits failed 8 8 : BitVec 8) ≠ 0
      let down : Prop := low ∧ high ∨ p.requested = false ∧ p.width ≠ 3
      (down → ∃ t, exec (.retrainLockComplete n found) s = .next t ∧ (t.port n).width = 0 ∧ (t.port n).train = false ∧ (t.port n).replay = [] ∧
        (t.port n).queue = []) ∧
      (¬ down → p.peerReady = false → ∃ t, exec (.retrainLockComplete n found) s = .next t ∧
        upd t { p with mask := failed, step := 6, out := p.out ++ [ctrlFlit me 2 failed (p.expected - 1)] }) ∧
      (¬ down → p.peerReady = true → p.queue = [] → ∃ t, exec (.retrainLockComplete n found) s = .next t ∧ (t.port n).train = false ∧
        (t.port n).step = 0 ∧ (t.port n).out = p.out ++ [ctrlFlit me 2 failed (p.expected - 1)] ++ p.replay)) ∧
    (∀ ack, p.train = true → p.step ≠ 6 → p.unacked = 0 → ∃ t, exec (.ctrlReady n ack) s = .next t ∧ upd t { p with peerReady := true }) ∧
    (∀ ack, p.train = true → p.step = 6 → p.unacked = 0 → p.queue = [] → s.pkg.reg eqBaseReg = 0 →
      let low : Prop := (bits p.mask 0 8 : BitVec 8) ≠ 0
      let high : Prop := (bits p.mask 8 8 : BitVec 8) ≠ 0
      let w : BitVec 2 → Prop := fun w => (low → ¬ high → w = 2) ∧ (high → ¬ low → w = 1) ∧ (¬ low → ¬ high → ¬ tested → w = 3) ∧
        (¬ low → ¬ high → tested → w = p.width)
      ¬ (low ∧ high) → (p.requested = true ∨ p.width = 3) →
      ∃ t, exec (.ctrlReady n ack) s = .next t ∧ w (t.port n).width ∧ (t.port n).train = false ∧ (t.port n).step = 0 ∧
        (t.port n).lfail = (if p.requested then p.mask else p.lfail ||| p.mask) ∧ (t.port n).expected = p.expected ∧
        t.groups = s.groups ∧ t.teams = s.teams ∧ t.mem = s.mem ∧
        (p.width ≠ (t.port n).width → t.pkg.events = s.pkg.events ++ [0x21#8 ++ BitVec.ofNat 4 n ++ p.width ++ (t.port n).width ++
          BitVec.ofNat 48 s.pkg.timens])) ∧
    (∃ t, exec (.ctrlDown n) s = .next t ∧ (t.port n).width = 0 ∧ (t.port n).train = false ∧ (t.port n).replay = [] ∧ (t.port n).queue = [] ∧
      (∀ k f, p.replay = [f] → p.queue = [] → s.nextPort n f.dpkg = some k → k ≠ n → k < 12 →
        ((s.port k).train = true → (t.port k).queue = f :: (s.port k).queue) ∧
        ((s.port k).train = false → (s.port k).queue = [] → (s.port k).unacked < 2048 → (s.port k).width ≠ 0 →
          vecAt (s.port k).credits f.vc.toNat 0 ≠ 0 →
          (t.port k).out = (s.port k).out ++ [flitSealed { f with seq := (s.port k).sendSeq, kind := 1 }] ∧
            (t.port k).sendSeq = (s.port k).sendSeq + 1)))

/-! ## The matrix stream (R286-R310, R326-R330) -/

/-- R303, R307: a word that waits on a barrier that it cannot pass waits there; one whose address is bad stops the sequencer.
R300-R302: the sequencer's arithmetic, its branches, MSYNC and MEND change its registers, its address and its state as the rules say, and MQLD loads a
word of the scratchpad.
R295, R298, R299: a multiplication adds to every entry of its tile the products of its row and column, and an unsettled operand leaves them open; a drain
writes the image of its tile and keeps its flags, or resets the entries; MLDC and MZERO set them; every other entry, every other byte of the
scratchpad and every group's registers stay.
R283, R303, R306: an entry that an accumulator form touches without order is left open, and what forms have read of it may be (the frames of
such words are said where no entry is so); R262, R305: a register is settled where its last write happens before the word.  The scratchpad is
said with the images of drains that are on their way written, and a word that reads it reads it so. -/
def Obligations.MatrixStreamCompletes : Prop :=
  ∀ (s : State) (q : Seq), let u := s.cur.t
    u < s.teams.length → s.seqOf u = some q → MemCanonical s → (q.acc.map (·.1)).Pairwise (· < ·) →
    let x := s.team u
    let d0 := s.drained u
    let pads (t : State) : Prop := ((t.drained u).team u).scratch = (d0.team u).scratch ∧ ∀ v, v ≠ u → (t.team v).scratch = (s.team v).scratch
    let order (w : MXW) : Order := if w.wv = true ∧ q.wdone = false then (x.consume w.wb.toNat 32).order else x.order
    let after (w : MXW) : State := if w.wv = true ∧ q.wdone = false then
        s.modHb fun h => h.consume (.bar u w.wb.toNat) (vecAt (x.bar w.wb.toNat).wph 32 0).toNat (mxParty u)
      else s
    let may (w : MXW) : Prop := w.wv = false ∨ q.wdone = true ∨ (x.bar w.wb.toNat).passable 32 = true
    let goes (w : MXW) (calm : Prop) (y : Seq) (pc : DWord) (st : SeqSt) (t : State) : Prop :=
      (t.team u).seq = some { y with pc := pc &&& 0x01FF_FFFF_FFFF_FFFF#64, st, wdone := false, cause := 0 } ∧
      (calm → x.user = true → w.av = false → t.groups = s.groups ∧ t.mem = s.mem ∧ ∀ v, v ≠ u → t.team v = s.team v) ∧
      (w.av = true → w.wv = false → (x.bar w.ab.toNat).arrv + 1 < popc (x.bar w.ab.toNat).memb + (x.bar w.ab.toNat).extra.toNat →
        { (t.team u).bar w.ab.toNat with gather := (x.bar w.ab.toNat).gather } =
          { x.bar w.ab.toNat with arrv := (x.bar w.ab.toNat).arrv + 1 }) ∧
      (w.wv = true → q.wdone = false → w.av = false → (t.team u).bar w.wb.toNat = (x.bar w.wb.toNat).consume 32)
    let runs (i : Instr) (w : MXW) (y : Seq) (pc : DWord) (st : SeqSt) : Prop :=
      may w → ∃ t, exec i s = .next t ∧ goes w True y pc st t ∧ pads t
    let next := q.pc + 16
    let clear (w : MXW) (trow : BitVec 5) (tcol : BitVec 2) (i j : Nat) : Prop :=
      (order w).wordClash (16 * trow.toNat + i) (16 * tcol.toNat + j) = false
    let tile (w : MXW) (trow : BitVec 5) (tcol : BitVec 2) (y : Seq) (val : Nat → Nat → DWord → DWord) : Prop :=
      { y with acc := q.acc } = q ∧
      (∀ i j, i < 32 → j < 16 → clear w trow tcol i j → y.entry (16 * trow.toNat + i) (16 * tcol.toNat + j) = val i j (q.entry (16 * trow.toNat + i) (16 * tcol.toNat + j))) ∧
      ∀ r c, c < 64 → (r / 16 ≠ trow.toNat ∧ r / 16 ≠ trow.toNat + 1 ∨ c / 16 ≠ tcol.toNat) → y.entry r c = q.entry r c
    let calm (w : MXW) (trow : BitVec 5) (tcol : BitVec 2) : Prop := ∀ i j, i < 32 → j < 16 → clear w trow tcol i j
    let tiled (i : Instr) (w : MXW) (trow : BitVec 5) (tcol : BitVec 2) (val : Nat → Nat → DWord → DWord) : Prop :=
      may w → ∃ t y, exec i s = .next t ∧ goes w (calm w trow tcol) y next .run t ∧ tile w trow tcol y val ∧ (calm w trow tcol → pads t)
    (∀ f : MQF,
      let a := vecAt q.q f.qa.toNat 0
      let b := if f.ib then f.imm else vecAt q.q f.qb.toNat 0
      let set (v : Word) : Seq := { q with q := vecPut q.q f.qd.toNat v }
      (∀ i v, (i, v) ∈ [(Instr.mqset f, b), (.mqadd f, a + b), (.mqsub f, a - b), (.mqmul f, a * b),
          (.mqshl f, if 32 ≤ b.toNat then 0 else a <<< b.toNat), (.mqand f, a &&& b)] → runs i f.w (set v) next .run) ∧
      let o := (a + f.imm).toNat
      (o % 4 = 0 → o + 4 ≤ x.padSize → runs (.mqld f) f.w (set (BitVec.ofNat 32 (d0.padNat u o 4))) next .run) ∧
      (o % 4 ≠ 0 ∨ x.padSize < o + 4 → ∃ t y, exec (.mqld f) s = .next t ∧ (t.team u).seq = some y ∧
        y = { q with st := .fault, cause := 3, wdone := q.wdone } ∧ pads t)) ∧
    (∀ f : MCF,
      let v := vecAt q.q f.qc.toNat 0
      let goal (taken : Bool) : DWord := if taken then q.pc + BitVec.ofInt 64 (16 * f.tgt.toInt) else next
      (∀ i taken, (i, taken) ∈ [(Instr.mjmp f, true), (.mbnz f, v != 0), (.mblt f, decide (v.toNat < f.imm.toNat))] → runs i f.w q (goal taken) .run) ∧
      runs (.mdjnz f) f.w { q with q := vecPut q.q f.qc.toNat (v - 1) } (goal (v - 1 != 0)) .run) ∧
    (∀ f : MSF, runs (.msync f) f.w q next .run ∧ runs (.mend f) f.w q q.pc .ended ∧
      (f.w.wv = true → q.wdone = false → (x.bar f.w.wb.toNat).passable 32 = false → ∃ t, exec (.msync f) s = .next t ∧
        (t.team u).seq = some { q with st := .wait, waitOn := f.w.wb.toNat } ∧ pads t)) ∧
    (∀ f : MDF,
      let d := ((vecAt q.q f.qd.toNat 0) + BitVec.ofNat 32 f.doff.toNat).toNat
      tiled (.mzero f) f.w f.trow f.tcol (fun _ _ _ => accReset) ∧
      (x.mxInside d 64 (imgSize (fun _ => 0) f.dty) = true → f.dty ∈ [Ty.f32, .f16, .bf16, .b64] →
        tiled (.mldc f) f.w f.trow f.tcol (fun i j _ =>
          loadEntry f (imgElem (fun _ => 0) f.dty (d0.padNat u d (imgSize (fun _ => 0) f.dty)) (16 * i + j)))) ∧
      ∀ nf i keep, (i, keep) ∈ [(Instr.mdrn f, true), (.mdrz f, false)] → s.mxFormats u (tyNf f.dty) = .ok nf → mxDrainOk f nf = true →
        mxImgAddr f x q = true → x.mxInside d 64 (imgSize nf f.dty) = true →
        let n := imgSize nf f.dty
        let out (r c : Nat) : Nat × Fl := drainElem f nf (q.entry (16 * f.trow.toNat + r) (16 * f.tcol.toNat + c))
        (∀ r c, r < 32 → c < 16 → (out r c).1 < 2 ^ contW nf f.dty) → may f.w →
        ∃ t y, exec i s = .next t ∧ goes f.w (calm f.w f.trow f.tcol) y next .run t ∧
          tile f.w f.trow f.tcol y (fun r c e => if keep then accOrFl e (out r c).2 else accReset) ∧
          (calm f.w f.trow f.tcol →
            (∀ r c, r < 32 → c < 16 → imgElem nf f.dty ((t.drained u).padNat u d n) (16 * r + c) = (out r c).1 % 2 ^ (codingOf nf f.dty).w) ∧
            ∀ v k, (v ≠ u ∨ k < d ∨ d + n ≤ k) → (t.drained u).padNat v k 1 = d0.padNat v k 1)) ∧
    ∀ (f : MXF) (i : Instr) (neg tr : Bool), (i, neg, tr) ∈ [(Instr.mma f, false, false), (.mms f, true, false), (.mmat f, false, true)] →
      let gs := (s.consumers u).map s.group
      let a := ((vecAt q.q f.qa.toNat 0) + BitVec.ofNat 32 f.aoff.toNat).toNat
      let reads (p : Nat → Nat → Nat → Bool) : Prop := ∀ r, r < 4 → ∃ c, (s.consumers u)[r]? = some c ∧ ∀ z ∈ mxReads f r, p c z.1 z.2 = true
      reads (fun c => (s.group c).mxReadable) → ∀ nf, s.mxFormats u ((tyNf f.aty ++ tyNf f.bty).dedup) = .ok nf → mxTypesOk x f nf = true →
      x.mxInside a 64 (mxASize f.aty) = true →
      (reads (after f.w).settledRegs →
        let rows := mxRows d0 u tr f nf (mxK nf f.aty) a gs
        let cols := mxCols d0 u f nf (mxK nf f.aty) gs
        tiled i f.w f.trow f.tcol (fun r c e => mxEntry f.z e ((List.zipWith (mxProd neg) (rows.getD r []) (cols.getD c [])).filterMap id))) ∧
      (¬ reads (after f.w).settledRegs → may f.w → ∃ t y val, exec i s = .next t ∧ goes f.w (calm f.w f.trow f.tcol) y next .run t ∧
        tile f.w f.trow f.tcol y val ∧ (calm f.w f.trow f.tcol → pads t))

/-! ## Lines, regions and granules (R218, R219, R241-R249) -/

/-- R222, R242, R245: a request served at its home leaves no copy that its kind forbids, and its data are the bytes that a read at home finds; one whose
line is owned elsewhere waits. A fill, an invalidation, a recall, a write-back and an eviction change the copy, the directory and the home's bytes
as the rules say, and no byte that a read at home finds but those written back.
While another package's cluster owns a line, bytes for it wait for the owner's copy, and go over it (R245).
R246: a repeated message has no effect but the earlier answer, an invalidation or a recall of another package is answered, a resend sends the same message again, and a poisoned line loses its tracked copies.
R247: a snoop of the CXL pool takes a half's bytes with those that a write has made dirty marked, and leaves it invalid; it waits for an owner elsewhere. -/
def Obligations.LinesMoveBetweenHomeAndSlices : Prop :=
  ∀ (s : State), MemCanonical s → OneOwner s.mem →
    let m := s.mem
    let me := s.pkg.num.toNat
    let kept (t : State) : Prop := t.groups = s.groups ∧ t.teams = s.teams ∧ t.grids = s.grids ∧ t.faults = s.faults
    let bytes (t : State) : Prop := ∀ a, t.mem.homeByte a = m.homeByte a
    let untracked (t : State) (ln : Nat) : Prop := ∀ l ∈ t.mem.lines, l.line = ln → l.st ≠ .ts ∧ l.st ≠ .tm
    let home_ (t : State) (clus ln : Nat) (l : Line) : Prop := t.mem.line? clus ln = none ∧
      (∀ k, k < 128 → cellGet t.mem.cells (ln * 128 + k) = lineByte l.data k) ∧ (t.mem.dirOf ln).st ≠ .own
    let state (kind : ReqKind) : LineSt := match kind with | .untracked => .uc | .shared => .ts | .owned => .tm
    let again (e : CohSeen) : State := match e.answer with
      | some x => { s with out := s.out ++ [x] }
      | none => s
    (∀ pkg clus ln seq kind part, s.homedHere ln = true → m.poisoned ln = false → clus < 32 → pkg < 512 →
      let i := Instr.homeRequest pkg clus ln ⟨seq, kind, part⟩
      (∀ e, s.seen pkg clus seq .request = some e → exec i s = .next (again e)) ∧
      (s.seen pkg clus seq .request = none →
        (s.requestWaits ln = true → ∃ t, exec i s = .next t ∧ kept t ∧ (t.seen pkg clus seq .request).isSome = true ∧
          t.mem.waiting = m.waiting ++ [{ pkg, clus, line := ln, seq, kind }] ∧
          { t.mem with waiting := m.waiting, recalls := m.recalls, pageParts := m.pageParts } = m ∧
          (m.ownedAway me ln = true → ln ∈ t.mem.recalls)) ∧
        (s.requestWaits ln = false → pkg ≠ me → ∃ t, exec i s = .next t ∧ kept t ∧ bytes t ∧
          (∀ l ∈ t.mem.lines, l.line = ln → l.st ≠ .tm ∧ (kind = .owned → l.st ≠ .ts)) ∧
          (kind = .owned → (t.mem.dirOf ln).st = .own) ∧ (kind = .shared → (t.mem.dirOf ln).st = .shr) ∧
          ∃ data rel, .fill pkg clus ln seq kind data rel ∈ t.out ∧ ∀ k, k < 128 → lineByte data k = m.homeByte (ln * 128 + k)) ∧
        (s.requestWaits ln = false → pkg = me → m.line? clus ln = none → ∃ t l, exec i s = .next t ∧ kept t ∧ bytes t ∧
          t.mem.line? clus ln = some l ∧ l.st = state kind ∧ l.dirty = 0 ∧ ∀ k, k < 128 → lineByte l.data k = m.homeByte (ln * 128 + k)))) ∧
    (∀ clus ln seq kind part, let i := Instr.l1Fill clus ln ⟨seq, kind, part⟩
      ((s.seen (paPkg (ln * 128)) clus seq .fill).isSome = true → exec i s = .next s) ∧
      (clus < 32 → isIo (ln * 128) = false → m.line? clus ln = none → m.poisoned ln = false → s.waits (.mem (ln * 128)) = false →
        s.seen (paPkg (ln * 128)) clus seq .fill = none →
        ∃ t l, exec i s = .next t ∧ kept t ∧ bytes t ∧ t.mem.line? clus ln = some l ∧ l.st = state kind ∧ l.dirty = 0 ∧
          ∀ k, k < 128 → lineByte l.data k = m.homeByte (ln * 128 + k))) ∧
    (∀ clus ln seq, let home := paPkg (ln * 128)
      let asked : List Instr := [.invalidation clus ⟨ln, seq⟩, .recall clus ⟨ln, seq⟩]
      let back (t : State) (x : Msg) : Prop := home ≠ me → x ∈ t.out
      (∀ e, s.seen home clus seq .probe = some e → ∀ i ∈ asked, exec i s = .next (again e)) ∧
      (s.seen home clus seq .probe = none →
        (m.line? clus ln = none → ∀ i ∈ asked, ∃ t, exec i s = .next t ∧ kept t ∧ t.mem = m ∧ back t (.probeAck clus ln seq)) ∧
        ∀ l, m.line? clus ln = some l →
          (∃ t, exec (.invalidation clus ⟨ln, seq⟩) s = .next t ∧ kept t ∧ bytes t ∧
            t.mem.line? clus ln = (if l.st = .ts then none else some l) ∧ back t (.probeAck clus ln seq)) ∧
          (l.st ≠ .tm → ∃ t, exec (.recall clus ⟨ln, seq⟩) s = .next t ∧ kept t ∧ t.mem = m ∧ back t (.probeAck clus ln seq)) ∧
          (l.st = .tm → ∃ t, exec (.recall clus ⟨ln, seq⟩) s = .next t ∧ kept t ∧ bytes t ∧ home_ t clus ln l ∧
            back t (.writeBack clus ln seq l.data (BitVec.allOnes 128) l.rel)))) ∧
    (∀ clus ln, m.line? clus ln = none → exec (.lineEviction clus ln) s = .next s) ∧
    (∀ clus ln l, m.line? clus ln = some l →
      (l.st = .tm → ∃ t, exec (.lineEviction clus ln) s = .next t ∧ kept t ∧ bytes t ∧ home_ t clus ln l) ∧
      (l.st = .uc ∨ l.st = .ts → ∃ t, exec (.lineEviction clus ln) s = .next t ∧ kept t ∧ bytes t ∧ t.mem.line? clus ln = none) ∧
      (l.st = .ud → m.ownedFar ln = false → ∃ t, exec (.lineEviction clus ln) s = .next t ∧ kept t ∧ t.mem.line? clus ln = none ∧ untracked t ln ∧
        (∀ k, k < 128 → t.mem.homeByte (ln * 128 + k) = if bit l.dirty k then lineByte l.data k else m.homeByte (ln * 128 + k)) ∧
        ∀ a, a / 128 ≠ ln → t.mem.homeByte a = m.homeByte a) ∧
      (l.st = .ud → m.ownedFar ln = true → ∃ t, exec (.lineEviction clus ln) s = .next t ∧ kept t ∧ bytes t ∧ t.mem.line? clus ln = none ∧
        t.mem.deferred = m.deferred ++ [{ line := ln, data := l.data, mask := l.dirty, rel := l.rel }])) ∧
    (∀ pkg clus ln seq data mask rel, let i := Instr.udWriteBack ⟨pkg, clus, ln, seq⟩ data mask rel
      let owner : Prop := m.ownedFar ln = true ∧ m.owner ln = sharerPtr pkg clus
      let waiting := m.deferred.filter fun d => d.line == ln
      ((s.seen pkg clus seq .request).isSome = true → exec i s = .next s) ∧
      (s.homedHere ln = true → m.poisoned ln = false → s.seen pkg clus seq .request = none →
        (m.ownedFar ln = true → ¬ owner → ∃ t, exec i s = .next t ∧ kept t ∧ bytes t ∧
          t.mem.deferred = m.deferred ++ [{ line := ln, data, mask, rel }]) ∧
        (m.ownedFar ln = false ∨ owner → m.waiting = [] → (∀ x ∈ m.snoops, x / 2 ≠ ln) →
          (waiting = [] → ∃ t, exec i s = .next t ∧ kept t ∧ untracked t ln ∧ (mask ≠ 0 → (t.mem.dirOf ln).rel = rel) ∧ ln ∉ t.mem.recalls ∧
            (∀ k, k < 128 → t.mem.homeByte (ln * 128 + k) = if bit mask k then lineByte data k else m.homeByte (ln * 128 + k)) ∧
            ∀ a, a / 128 ≠ ln → t.mem.homeByte a = m.homeByte a) ∧
          ∀ d, waiting = [d] → ∃ t, exec i s = .next t ∧ kept t ∧ untracked t ln ∧ (∀ x ∈ t.mem.deferred, x.line ≠ ln) ∧
            (∀ k, k < 128 → t.mem.homeByte (ln * 128 + k) =
              if bit d.mask k then lineByte d.data k else if bit mask k then lineByte data k else m.homeByte (ln * 128 + k)) ∧
            ∀ a, a / 128 ≠ ln → t.mem.homeByte a = m.homeByte a))) ∧
    (∀ n x, s.out[n]? = some x → exec (.coherenceResend n) s = .next (if x.coherence then { s with out := s.out ++ [x] } else s)) ∧
    (∀ n, s.out.length ≤ n → exec (.coherenceResend n) s = .next s) ∧
    (∀ ln, s.homedHere ln = true → ∃ t, exec (.linePoison ln) s = .next t ∧ kept t ∧ t.mem.poisoned ln = true ∧ untracked t ln ∧
      (∀ r ∈ t.mem.waiting, r.line ≠ ln) ∧ t.mem.cells = m.cells ∧ ∀ l, l.line ≠ ln → (l ∈ t.mem.lines ↔ l ∈ m.lines)) ∧
    (∀ ln half, isCxl (ln * 128) = true → half < 2 → s.homedHere ln = true →
      (m.ownedAway me ln = true → ∃ t, exec (.backInvalidationSnoop ln half) s = .next t ∧ kept t ∧ t.mem.snoops = m.snoops ++ [ln * 2 + half] ∧
        ln ∈ t.mem.recalls ∧ t.mem.cells = m.cells ∧ t.mem.lines = m.lines) ∧
      (m.ownedAway me ln = false → ∃ t data dirty, exec (.backInvalidationSnoop ln half) s = .next t ∧ kept t ∧ untracked t ln ∧
        lookupD t.mem.cxl (ln * 2 + half) .m = .i ∧ .snoopResp ln half data dirty ∈ t.out ∧
        (∀ k, k < 64 → bit (lookupD m.cxlDirty (ln * 2 + half) 0) k = true → bit dirty k = true) ∧
        (∀ k, k < 64 → (bits data (8 * k) 8 : BitVec 8) = m.homeByte (ln * 128 + 64 * half + k)) ∧
        ∀ a, (a < ln * 128 + 64 * half ∨ ln * 128 + 64 * half + 64 ≤ a) → t.mem.homeByte a = m.homeByte a))

/-- R248, R249: a region entry that breaks a rule is not written, and one that does not switches the table once it has drained; bytes outside both
regions' HBM stay, and lines that other packages own are recalled before. R218, R219: granules are lent and held again within the twenty of a core,
the lines that its slice can still hold staying. -/
def Obligations.RegionsAndGranulesChange : Prop :=
  ∀ (s : State), MemCanonical s →
    let m := s.mem
    let me := s.pkg.num.toNat
    let kept (t : State) : Prop := t.groups = s.groups ∧ t.teams = s.teams ∧ t.grids = s.grids ∧ t.faults = s.faults
    (∀ (idx : Nat) (val mask : DWord), idx < 16 →
      let v := (s.regionNow idx &&& ~~~mask) ||| (val &&& mask)
      let good : Prop := bits v 44 12 = (0 : BitVec 12) ∧ (regEn v = true →
        regMode v < 4 ∧ (regMode v = 2 → regStack v % 2 = 0) ∧ (regMode v = 3 → regStack v % 4 = 0) ∧ regSize v ≠ 0 ∧
        ∀ j, j < 16 → j ≠ idx → regOverlap v (s.regionNow j) = false)
      (¬ good → exec (.regionEntryWrite idx val mask) s = .next s) ∧
      (good → exec (.regionEntryWrite idx val mask) s =
        .next { s with mem := { m with rewriting := true, pendingRegions := m.pendingRegions ++ [(idx, v)] } })) ∧
    (m.rewriting = false → exec .regionTableSwitch s = .next s) ∧
    (∀ i v, m.rewriting = true → m.pendingRegions = [(i, v)] → i < 16 → m.waiting = [] → s.rewriteAway = [] → (∀ l ∈ m.lines, l.st ≠ .tm) →
      let lost (e : DWord) (a : Nat) : Prop := me * 2 ^ 43 + (regHbm e).1 ≤ a ∧ a < me * 2 ^ 43 + (regHbm e).1 + (regHbm e).2
      ∃ t, exec .regionTableSwitch s = .next t ∧ kept t ∧ t.mem.rewriting = false ∧ t.mem.pendingRegions = [] ∧ t.mem.regions = vecPut m.regions i v ∧
        (∀ a, ¬ lost (vecAt m.regions i 0) a → ¬ lost v a → cellGet t.mem.cells a = cellGet m.cells a) ∧
        ∀ l ∈ t.mem.lines, s.homedHere l.line = true → (regCovers v (l.line * 128) = true ∨ regCovers (vecAt m.regions i 0) (l.line * 128) = true) →
          l.st ≠ .ts) ∧
    (m.rewriting = true → s.rewriteAway ≠ [] → ∃ t, exec .regionTableSwitch s = .next t ∧ kept t ∧ (∀ ln ∈ s.rewriteAway, ln ∈ t.mem.recalls) ∧
      { t.mem with recalls := m.recalls } = m) ∧
    ∀ core n,
      (s.granUsed core + n ≤ m.held core → ∃ t, exec (.granuleLend core n) s = .next t ∧ kept t ∧ t.mem.held core = m.held core - n ∧
        (∀ c, c ≠ core → t.mem.held c = m.held c) ∧ t.mem.cells = m.cells ∧ t.mem.lines = m.lines) ∧
      (m.held core + m.reclaiming core + n ≤ 20 → ∃ t, exec (.granuleReclaim core n) s = .next t ∧ kept t ∧ t.mem.held core = m.held core + n ∧
        t.mem.reclaiming core = m.reclaiming core ∧ (∀ c, c ≠ core → t.mem.held c = m.held c) ∧
        ((m.lines.filter fun l => l.clus = core / 8 ∧ sliceCore l.line = core % 8).length ≤ (24 - m.held core - m.reclaiming core - n) * 256 →
          t.mem.cells = m.cells ∧ t.mem.lines = m.lines)) ∧
      (m.held core < s.granUsed core + n → exec (.granuleLend core n) s = .next s) ∧
      (20 < m.held core + m.reclaiming core + n → exec (.granuleReclaim core n) s = .next s)

/-! ## The package (R414, R417-R420, R438-R456) -/

/-- R420, R421: the first raised record whose queue has room goes to its slot, open and unclaimed, and the tail moves; where none has and a service task
waits for one, its context halts.
R438-R440: an error is logged, with its class, unit and syndrome, the unit is tested, and one that is not corrected poisons its line, or stops its team with
a record (which of the units of a place has reported is free, log 17); the port of a lane under test runs at half width; a self-test that ends is logged, and a failed one withdraws its core quarter,
its engine or a way of its set and posts event 0x42.
R441-R443, R451, R452: a checkpoint enters the record buffer, sensors and clock steps take their values, the hedge forces step 5, a thermal
trip halts every enabled context; a recorded input is injected at its time: a host command and a flit run as they do, memory returns what it did,
MONRD and the clock steps follow, and external links are not used from then on.
The model's reading, not the rules' words: a context whose service task stands at an FWAIT halts (log 54); the layout of a recorded memory return, CYCLES
moved to the tag, event 0x44 once for the first checkpoint that differs, with its tag, and markers ignored (logs 59, 60). -/
def Obligations.PackageEventsTakeEffect : Prop :=
  ∀ (s : State),
    let p := s.pkg
    let calm : Prop := ∀ g ∈ s.groups, g.ra = none ∧ g.homes = []
    let halted (t : State) (k : Nat) : Prop := bit (t.ctx k).cfg 62 = true ∧ ∀ u, u < s.teams.length → (s.team u).ctx = k → (t.team u).tstop = true
    let logged (t : State) (type : BitVec 8) (d : UnitTest) (syndrome : Word) : Prop :=
      let w : BitVec 256 := lookupD t.pkg.elog p.elogPos 0
      bits w 56 8 = type ∧ bits w 48 8 = BitVec.ofNat 8 d.cls ∧ bits w 64 64 = d.id ∧ bits w 192 32 = syndrome ∧ bits w 0 48 = BitVec.ofNat 48 p.timens ∧ t.pkg.elogPos = (p.elogPos + 1) % 256
    (∀ r s2, (s.faults.find? fun r => !(s.ctx r.ctx).full) = some r → (s.ctx r.ctx).svctcb = 0 →
      let c := s.ctx r.ctx
      { s with faults := s.faults.erase r }.writeS fedCore r.ctx (c.fqbase.toNat + 1024 * c.tail) 1024 (s.recImage r) = .ok s2 →
      1 ≤ c.fqsize.toNat → c.fqsize.toNat ≤ 4096 → c.tail < c.fqsize.toNat → c.head < c.fqsize.toNat →
      ∃ t, exec .faultRecordPost s = .next t ∧ t.faults = s2.faults ∧ t.pkg.seqno = s2.pkg.seqno + 1 ∧ t.mem = s2.mem ∧ t.groups = s2.groups ∧
        (t.ctx r.ctx).opened = (s2.ctx r.ctx).opened ++ [{ idx := (s2.ctx r.ctx).tail, claimed := false, closed := false, fr := r }] ∧
        ((s2.ctx r.ctx) = c → (t.ctx r.ctx).tail = (c.tail + 1) % c.fqsize.toNat ∧ (t.ctx r.ctx).head = c.head)) ∧
    (s.faults = [] → exec .faultRecordPost s = .next s) ∧
    (∀ r, (∀ x ∈ s.faults, (s.ctx x.ctx).full = true) → (s.faults.find? fun r => !bit (s.ctx r.ctx).cfg 62 && s.serviceWaits r.ctx) = some r →
      ∃ t, exec .faultRecordPost s = .next t ∧ halted t r.ctx ∧ t.faults = s.faults) ∧
    let reported (t : State) (u : ErrUnit) (type : BitVec 8) (syndrome : Word) : Prop :=
      logged t type (s.reporter u) syndrome ∧ ((s.reporter u).cls < 5 → ∃ x ∈ t.pkg.tests, x.id = (s.reporter u).id)
    let still (t : State) : Prop := calm → t.groups = s.groups ∧ (s.mem.lines = [] → p.reg eqBaseReg = 0 → t.mem.cells = s.mem.cells)
    (∀ unit syndrome, ∃ t, exec (.machineCheck unit true syndrome) s = .next t ∧ reported t unit 0x30 syndrome ∧ still t) ∧
    (∀ n corrected syndrome, n < 12 → (s.port n).width = 3 → (∀ x ∈ p.tests, x.id ≠ (s.reporter (.lane n)).id) →
      ∃ t, exec (.machineCheck (.lane n) corrected syndrome) s = .next t ∧ reported t (.lane n) (if corrected then 0x30 else 0x31) syndrome ∧
        ((t.port n).width = 1 ∨ (t.port n).width = 2) ∧ (∀ k, k ≠ n → t.port k = s.port k) ∧ (∃ x ∈ t.pkg.tests, x.cls = 4 ∧ x.place = n) ∧ still t) ∧
    (∀ a syndrome, ∃ t, exec (.machineCheck (.line a) false syndrome) s = .next t ∧ reported t (.line a) 0x31 syndrome ∧
      t.mem.poisoned (a / 128) = true ∧ still t) ∧
    (∀ ln syndrome, ∀ u ∈ [ErrUnit.directory ln, .path ln], ∃ t, exec (.machineCheck u false syndrome) s = .next t ∧ reported t u 0x31 syndrome ∧
      t.mem.poisoned ln = true ∧ (∀ l ∈ t.mem.lines, l.line = ln → l.st ≠ .ts ∧ l.st ≠ .tm) ∧ still t) ∧
    (∀ u syndrome, calm → u < s.teams.length → (s.team u).user = true → (∀ r ∈ s.faults, r.scope ≠ .team) → (∀ c ∈ p.ctxs, c.2.opened = []) →
      ∃ t r, exec (.machineCheck (.team u) false syndrome) s = .next t ∧ reported t (.team u) 0x31 syndrome ∧ (t.team u).mchk = true ∧
        t.faults = s.faults ++ [r] ∧ r.code = 7 ∧ r.scope = .team ∧ r.team = u ∧ t.mem = s.mem) ∧
    (∀ syndrome k c, (k, c) ∈ p.ctxs → bit c.cfg 63 = true → ∃ t, exec (.machineCheck .package false syndrome) s = .next t ∧
      logged t 0x31 (s.reporter .package) syndrome ∧ halted t k) ∧
    (∀ (id : DWord) d, (p.tests.find? fun x => x.id == id) = some d → s.testRuns d = true →
      (∃ t, exec (.selfTestComplete id true) s = .next t ∧ logged t 0x32 d 0 ∧ t.pkg.tests = p.tests.erase d ∧ t.pkg.events = p.events ∧
        t.mem = s.mem ∧ t.groups = s.groups ∧ t.teams = s.teams) ∧
      (∃ t e, exec (.selfTestComplete id false) s = .next t ∧ logged t 0x33 d 0 ∧ t.pkg.tests = p.tests.erase d ∧
        t.pkg.retired = (if d.cls = 0 then p.retired ++ [d.place] else p.retired) ∧
        t.pkg.badWays = (if d.cls = 1 then p.badWays ++ [d.place] else p.badWays) ∧
        t.pkg.noEngine = (if d.cls = 2 then p.noEngine ++ [d.place] else p.noEngine) ∧
        t.pkg.events = p.events ++ [e] ∧ bits e 56 8 = 0x42#8 ∧ t.groups = s.groups ∧ t.teams = s.teams)) ∧
    (∀ (id : DWord) pass, (∀ d, (p.tests.find? fun x => x.id == id) = some d → s.testRuns d = false) → exec (.selfTestComplete id pass) s = .next s) ∧
    (p.recording = false → exec .recordCheckpoint s = .next s) ∧
    (p.recording = true → ((p.recs.map fun r => recBytes r.2).foldl (· + ·) 0) + 1040 ≤ (p.reg 0x31018).toNat →
      ∃ t h bs, exec .recordCheckpoint s = .next t ∧ t.pkg.recs = p.recs ++ [(h, bs)] ∧ bs.length = 1024 ∧ t.pkg.recording = true ∧
        t.groups = s.groups ∧ t.teams = s.teams) ∧
    (∀ n v, ∃ t, exec (.sensorRefresh [(n, v)]) s = .next t ∧ { t with pkg := { t.pkg with sensors := p.sensors } } = s ∧
      (n < 0x2A0 → lookupD t.pkg.sensors n 0 = v) ∧ ∀ k, (k ≠ n ∨ 0x2A0 ≤ n) → lookupD t.pkg.sensors k 0 = lookupD p.sensors k 0) ∧
    (p.recording = false →
      (∀ stp pacing pnow tmax, stp ≤ 5 → exec (.clockStepSelect ⟨stp, pacing⟩ pnow tmax) s =
        .next { s with pkg := { p with step := BitVec.ofNat 8 stp, pacing, pnow, tmax } }) ∧
      exec .hedgePowerTrip s = .next { s with pkg := { p with step := 5 } }) ∧
    (∀ stp pacing pnow tmax, 5 < stp → exec (.clockStepSelect ⟨stp, pacing⟩ pnow tmax) s = .next s) ∧
    (∀ k c, (k, c) ∈ p.ctxs → bit c.cfg 63 = true → ∃ t e, exec .thermalTrip s = .next t ∧ halted t k ∧ t.pkg.events.getLast? = some e ∧
      bits e 56 8 = 0x46#8) ∧
    ∀ (port : Nat) (tag : DWord),
      let at_ : State := { s with pkg := { p with replay := false, cycles := max p.cycles (p.recStart + tag.toNat) } }
      let replaying (t : State) : State := { t with pkg := { t.pkg with replay := true } }
      let inject (src : Nat) (bs : List Byte) := exec (.replayInject ⟨src, port, tag⟩ bs) s
      (∀ (c : HostCmd) (i : HostCmd → Instr), (c.op, i) ∈ [(0x01#8, Instr.rd), (0x02#8, .wr), (0x10#8, .submit), (0x11#8, .ctxend), (0x20#8, .attest),
          (0x21#8, .fwload), (0x30#8, .done), (0x31#8, .standby)] →
        ∃ t, exec (i c) at_ = .next t ∧ inject 1 (hostBytes c) = .next (replaying t)) ∧
      (∀ f, ∃ t, exec (.flitReceive port (flitSealed { f with hits := [] })) at_ = .next t ∧ inject 2 (flitBytes f) = .next (replaying t)) ∧
      (∀ src ln bs, src = 3 ∨ src = 4 → ln < 2 ^ 57 → bs.length = 128 → s.homedHere ln = true → isDdr (ln * 128) = true ∨ isCxl (ln * 128) = true →
        MemCanonical s → ∃ t, inject src (leBytes 8 (ln * 128) ++ bs) = .next t ∧
          { t with mem := { t.mem with cells := s.mem.cells } } = replaying at_ ∧
          (∀ k b, bs[k]? = some b → cellGet t.mem.cells (ln * 128 + k) = b) ∧
          ∀ a, a / 128 ≠ ln → cellGet t.mem.cells a = cellGet s.mem.cells a) ∧
      (∀ b c, inject 5 [b, c] = .next (replaying { at_ with pkg := { at_.pkg with step := b, pacing := c } })) ∧
      (∀ v : DWord, inject 6 (leBytes 8 v.toNat) = .next (replaying { at_ with pkg := { at_.pkg with monReplay := p.monReplay ++ [v] } })) ∧
      inject 7 (checkpointBytes s.tick) = .next (replaying at_) ∧
      (∀ bs, bs ≠ checkpointBytes s.tick →
        ((∀ e ∈ p.events, bits e 56 8 ≠ 0x44#8) → ∃ t, inject 7 bs = .next t ∧ t.pkg.events = p.events ++ [0x44#8 ++ 0#8 ++ bits tag 0 48] ∧
          t.pkg.replay = true ∧ t.groups = s.groups ∧ t.teams = s.teams) ∧
        ((∃ e ∈ p.events, bits e 56 8 = 0x44#8) → inject 7 bs = .next (replaying at_))) ∧
      (∀ src bs, src = 0 ∨ 7 < src → inject src bs = .next (replaying at_)) ∧
      (p.replay = true → ∀ f, exec (.flitReceive port f) s = .next s)

/-- R448, R452, R453: a command that the package does not answer changes nothing, and one with a reserved bit or a bad length is BADCMD. RD answers 8 bytes a
response as they are found, WR stores its bytes at home or in the registers; what the hedge refuses is WINDOW with event 0x45; SUBMIT and CTXEND
name an enabled context after DONE; ATTEST's report is 272 bytes over the nonce; FWLOAD fills the staging buffer and starts an image that
passes; DONE locks the package once; a command whose line is owned elsewhere, or that comes behind a waiting one with its TAG, waits; STANDBY flushes the lines and takes the ports down (R454, R456).
The model's reading, not the rules' words: ATTEST's one OK response with the report beside it (log 18); DONE while one waits, commands behind a waiting
one of their TAG, a WR that reaches from memory into I/O space, and what a refused write leaves (log 62). -/
def Obligations.HostCommandsAreAnswered : Prop :=
  (∀ (tag : BitVec 16) (st i n : Nat) (v : DWord), let r := response tag st i n v
    bits r 0 16 = tag ∧ bits r 16 8 = BitVec.ofNat 8 st ∧ bits r 24 8 = BitVec.ofNat 8 i ∧ bits r 32 8 = BitVec.ofNat 8 n ∧ bits r 40 24 = 0#24 ∧
      bits r 64 64 = v) ∧
  ∀ (s : State) (c : HostCmd), s.pkg.recording = false →
    let p := s.pkg
    let reply (t : State) (st : Nat) (v : DWord) : State := { t with pkg := { t.pkg with hostOut := t.pkg.hostOut ++ [response c.tag st 0 1 v] } }
    let all_ : List Instr := [.rd c, .wr c, .submit c, .ctxend c, .attest c, .fwload c, .done c, .standby c, .hostBadCommand c]
    let bad : Prop := bits c.flags 1 7 ≠ (0 : BitVec 7) ∨ (bit c.flags 0 = true ∧ c.op ≠ 0x10) ∨ c.len = 0 ∨ 48 < c.len.toNat
    let a := c.addr.toNat
    let n := c.len.toNat
    let x := (bits c.data 0 8 : BitVec 8).toNat
    let refused (i : Instr) : Prop := ∃ t, exec i s = .next t ∧ t.pkg.hostOut = p.hostOut ++ [response c.tag 2 0 1 0] ∧
      (∃ e, t.pkg.events = p.events ++ [e] ∧ bits e 56 8 = 0x45#8) ∧ t.groups = s.groups ∧ t.teams = s.teams ∧
      (p.reg eqBaseReg = 0 → t.mem = s.mem)
    (s.answers c = false ∨ p.replay = true → ∀ i ∈ all_, exec i s = .next s) ∧
    (s.answers c = true → p.replay = false → s.hostBehind c = true →
      ∀ i ∈ all_, exec i s = .next { s with pkg := { p with hostWait := p.hostWait ++ [(c, !p.lock)] } }) ∧
    (s.answers c = true → p.replay = false → s.hostBehind c = false → s.hostHeld c = true → ∀ i ∈ all_, ∃ t, exec i s = .next t ∧
      t.pkg.hostWait = p.hostWait ++ [(c, !p.lock)] ∧ t.pkg.hostOut = p.hostOut ∧ t.groups = s.groups ∧ t.teams = s.teams ∧
      t.mem.cells = s.mem.cells) ∧
    (s.hostNext = some (c, true) → hostBad c = false → c.op = 0x10 ∨ c.op = 0x11 ∨ c.op = 0x31 →
      s.hostResume = reply { s with pkg := { p with hostWait := p.hostWait.erase (c, true) } } 3 0) ∧
    (s.answers c = true → p.replay = false → s.hostBehind c = false → s.hostHeld c = false →
      (bad → ∀ i ∈ all_, exec i s = .next (reply s 1 0)) ∧
      (¬ bad →
        exec (.hostBadCommand c) s = .next (reply s 1 0) ∧
        (s.hedge a n = true → ∃ t rs, exec (.rd c) s = .next t ∧ t = { s with
            pkg := { p with hostOut := p.hostOut ++ rs }, mem := s.mem.homeRead ((linesOf a n).filter fun ln => s.installed (ln * 128)) } ∧
          rs.length = (n + 7) / 8 ∧ ∀ i, i < (n + 7) / 8 → rs[i]? = some (response c.tag 0 i ((n + 7) / 8)
            (BitVec.ofNat 64 (leNat ((List.range (min 8 (n - 8 * i))).map fun k => s.hostByte (a + 8 * i + k)))))) ∧
        (s.hedge a n = false → refused (.rd c) ∧ refused (.wr c)) ∧
        (s.hedge a n = true → isIo a = true → p.lock = true → (∃ k, k < n ∧ frozen (paOff a - ioBase + k) = true) → refused (.wr c)) ∧
        (s.hedge a n = true → isIo a = true → (p.lock = false ∨ ∀ k, k < n → frozen (paOff a - ioBase + k) = false) →
          (∀ t, s.ioWrite .host 64 (paOff a - ioBase) (leBytes n c.data.toNat) = .ok t → exec (.wr c) s = .next (reply t 0 0)) ∧
          (∀ e, s.ioWrite .host 64 (paOff a - ioBase) (leBytes n c.data.toNat) = .error e → exec (.wr c) s = .next (reply s 5 0))) ∧
        (s.hedge a n = true → isIo a = false → ioBase < paOff a + n →
          let m := ioBase - paOff a
          let bs := leBytes n c.data.toNat
          let s1 := if s.installed a then s.hostPut a (bs.take m) else s
          (p.lock = false ∨ ∀ k, k < n - m → frozen k = false) →
          (∀ t, s1.ioWrite .host 64 0 (bs.drop m) = .ok t → exec (.wr c) s = .next (reply t 0 0)) ∧
          (∀ e, s1.ioWrite .host 64 0 (bs.drop m) = .error e → exec (.wr c) s = .next (reply s 5 0))) ∧
        (s.hedge a n = true → paOff a + n ≤ ioBase → s.installed a = false → exec (.wr c) s = .next (reply s 0 0)) ∧
        (s.hedge a n = true → paOff a + n ≤ ioBase → s.installed a = true → MemCanonical s → (∀ l ∈ s.mem.lines, ∀ k, k < n → l.line ≠ (a + k) / 128) →
          (∀ k, k < n → s.mem.ownedFar ((a + k) / 128) = false) →
          ∃ t, exec (.wr c) s = .next t ∧ t.pkg = (reply s 0 0).pkg ∧ t.groups = s.groups ∧ t.teams = s.teams ∧
            (∀ k, k < n → t.mem.homeByte (a + k) = bits c.data (8 * k) 8) ∧
            ∀ b, (b < a ∨ a + n ≤ b) → t.mem.homeByte b = s.mem.homeByte b) ∧
        (p.lock = false → ∀ i ∈ [Instr.submit c, .ctxend c, .standby c], exec i s = .next (reply s 3 0)) ∧
        (p.lock = true → bit (s.ctx x).cfg 63 = false → ∀ i ∈ [Instr.submit c, .ctxend c], exec i s = .next (reply s 6 0)) ∧
        (p.lock = true → bit (s.ctx x).cfg 63 = true →
          (∀ e, s.syncPa x c.addr = .error e → exec (.submit c) s = .next (reply s 7 0)) ∧
          (∀ pa, s.syncPa x c.addr = .ok pa →
            let s1 := s.touchS fedCore x .store a 8
            (submitSync (s1.syncAt pa) = none → exec (.submit c) s = .next (reply s1 0 2)) ∧
            (∀ w, submitSync (s1.syncAt pa) = some (w, false) → MemCanonical s → (∀ ln ∈ linesOf pa 8, s.mem.ownedFar ln = false) → ∃ t, exec (.submit c) s = .next t ∧
              t.pkg.hostOut = p.hostOut ++ [response c.tag 0 0 1 1] ∧ t.syncAt pa = w ∧ t.groups = s.groups ∧
              t.grids = s.grids ++ [{ Grid.dead with tcb := c.addr, ctx := x, user := !bit c.flags 0, cap := 15, phase := .wait }]) ∧
            ∀ w, submitSync (s1.syncAt pa) = some (w, true) → ∃ t, exec (.submit c) s = .next t ∧
              t.pkg.hostOut.getLast? = some (response c.tag 0 0 1 0)) ∧
          ((∀ k, k < s.grids.length → (s.grid k).ctx = x → (s.grid k).phase = .wait ∨ (s.grid k).phase = .over) → s.mem.lines = [] →
            ∃ t, exec (.ctxend c) s = .next t ∧ bit (t.ctx x).cfg 63 = false ∧ t.grids = s.grids ∧ t.groups = s.groups ∧ t.mem.cells = s.mem.cells ∧
              t.pkg.hostOut = p.hostOut ++ [response c.tag 0 0 1 0] ∧ (∀ e ∈ t.mem.tlb, e.ctx ≠ x) ∧
              ∀ k, bits (lookupD p.foldTab k 0) 32 16 = (bits (s.ctx x).cfg 32 16 : BitVec 16) → bit (lookupD t.pkg.foldTab k 0) 63 = false)) ∧
        (∃ t r, exec (.attest c) s = .next t ∧ t = reply { s with pkg := { p with reports := p.reports ++ [r] } } 0 0 ∧ r.length = 272 ∧
          ∀ k, k < 32 → r[32 + k]? = some (bits c.data (8 * k) 8)) ∧
        (let fw := (if c.addr = 0 then [] else p.fw) ++ leBytes n c.data.toNat
         ((p.boot ≠ .rom ∨ imageOk p.fused fw = false) → exec (.fwload c) s = .next (reply { s with pkg := { p with fw } } 0 0)) ∧
         (p.boot = .rom → imageOk p.fused fw = true → ∃ t, exec (.fwload c) s = .next t ∧ t.pkg.boot = .training ∧ t.pkg.fw = fw ∧
            t.pkg.svn.toNat = field (leNat fw) 4 4 ∧ t.pkg.fused.toNat = max p.fused.toNat (field (leNat fw) 4 4) ∧ t.pkg.body = fw.drop 0xD0 ∧
            t.pkg.hostOut = p.hostOut ++ [response c.tag 0 0 1 0])) ∧
        ((p.lock = true ∨ p.doneWait.isSome = true) → exec (.done c) s = .next (reply s 3 0)) ∧
        (p.lock = false → p.doneWait = none →
          (p.boot = .ready → exec (.done c) s = .next (reply
            { s with pkg := { p with lock := true, boot := .running, doneWait := none, recording := p.recArm, recStart := p.cycles } } 0 0)) ∧
          (p.boot ≠ .ready → exec (.done c) s = .next { s with pkg := { p with doneWait := some c.tag } })) ∧
        (p.lock = true → (∃ e ∈ p.ctxs, bit e.2.cfg 63 = true) → exec (.standby c) s = .next (reply s 4 0)) ∧
        (p.lock = true → (∀ e ∈ p.ctxs, bit e.2.cfg 63 = false) → ∃ t, exec (.standby c) s = .next t ∧ t.pkg.boot = .standby ∧ t.mem.lines = [] ∧
          (∀ k, k < 12 → (t.port k).width = 0) ∧ t.pkg.hostOut = p.hostOut ++ [response c.tag 0 0 1 0] ∧ t.groups = s.groups)))

/-- R414, R446, R447, R451, R455: a register of I/O space takes a write as its rules say: PKG moves the package, with its bytes and its poison, until LOCK, which refuses it with event 0x45, PCAP is clamped, BOOTCTL starts the
zeroing once, an index word is stored where it may be, an unlisted byte drops it, and a context descriptor that breaks a rule is unchanged.
R452: the firmware stores to I/O space, to its own memory and by messages to peers' I/O space; any other store of it is dropped with event 0x45.
R453-R456: power good, training and zeroing follow each other; no register takes a write before training; HBM4 then reads zero, and DDR-5 where it is
not kept; a removed core power leaves the state of reset and, after STANDBY, the contents and the poison of DDR-5.
The model's reading or choice: bytes that a loss leaves open (log 4); the credits granted as training ends (log 48); PKG moved by any writer (log 39); the
writes refused before training, and what a refused one leaves (log 62); what each power loss takes (log 63). -/
def Obligations.RegistersAndBringUpFollowTheirSteps : Prop :=
  ∀ (s : State),
    let p := s.pkg
    let refused (i : Instr) : Prop := ∃ t e, exec i s = .next t ∧ t.pkg.events = p.events ++ [e] ∧ bits e 56 8 = 0x45#8 ∧ t.pkg.num = p.num ∧
      (∀ k, k ≠ eqPosReg → t.pkg.reg k = p.reg k) ∧ t.groups = s.groups ∧ t.teams = s.teams
    (s.ioReady = false → ∀ (n : BitVec 9) (o i : Nat) (bs : List Byte) (w : BitVec 16) (v : DWord),
      ∀ x ∈ [Instr.pkgWrite n, .registerWrite (.reg o) bs, .powerCapWrite w, .bootctlGo v, .contextDescriptorWrite i o bs], exec x s = .next s) ∧
    (∀ (pa : Nat) (bs : List Byte), bs ≠ [] →
      let last := pa + bs.length - 1
      let i := Instr.registerWrite (.firmware pa) bs
      let toIo : Prop := isIo pa = true ∧ isIo last = true ∧ paPkg pa = paPkg last
      let own : Prop := paPkg pa = p.num.toNat ∧ isFirmware pa = true ∧ isFirmware last = true
      (toIo → paPkg pa = p.num.toNat → exec i s = exec (.registerWrite (.reg (paOff pa - ioBase)) bs) s) ∧
      (toIo → paPkg pa ≠ p.num.toNat → exec i s = .next { s with out := s.out ++ [.manage (paPkg pa) pa bs] }) ∧
      (own → MemCanonical s → (∀ l ∈ s.mem.lines, ∀ k, k < bs.length → l.line ≠ (pa + k) / 128) →
        (∀ k, k < bs.length → s.mem.ownedFar ((pa + k) / 128) = false) → ∃ t, exec i s = .next t ∧ t.pkg = p ∧ t.groups = s.groups ∧
          (∀ k b, bs[k]? = some b → t.mem.homeByte (pa + k) = b) ∧ ∀ a, (a < pa ∨ pa + bs.length ≤ a) → t.mem.homeByte a = s.mem.homeByte a) ∧
      (¬ toIo → ¬ own → refused i)) ∧
    (∀ n : BitVec 9, s.ioReady = true → (p.lock = false → n = p.num → exec (.pkgWrite n) s = .next s) ∧ (p.lock = true → refused (.pkgWrite n)) ∧
      (p.lock = false → n ≠ p.num → MemCanonical s → ∃ t, exec (.pkgWrite n) s = .next t ∧ t.pkg = { p with num := n } ∧ t.groups = s.groups ∧
        (∀ o, o < 2 ^ 43 → cellGet t.mem.cells (n.toNat * 2 ^ 43 + o) = cellGet s.mem.cells (p.num.toNat * 2 ^ 43 + o)) ∧
        ∀ ln, ln < 2 ^ 36 → t.mem.poisoned (n.toNat * 2 ^ 36 + ln) = s.mem.poisoned (p.num.toNat * 2 ^ 36 + ln))) ∧
    (∀ o bs, s.ioReady = true → p.lock = true → (∃ k, k < bs.length ∧ frozen (o + k) = true) → refused (.registerWrite (.reg o) bs)) ∧
    (∀ w : BitVec 16, s.ioReady = true → exec (.powerCapWrite w) s =
      .next { s with pkg := { p with pcap := if w.toNat > Config.powerLimit.toNat then Config.powerLimit else w } }) ∧
    (∀ v : DWord, (bit (p.reg 0x1040) 0 = true → exec (.bootctlGo v) s = .next s) ∧
      (bit (p.reg 0x1040) 0 = false → s.ioReady = true → ∃ t, exec (.bootctlGo v) s = .next t ∧ bit (t.pkg.reg 0x1040) 1 = bit v 1 ∧
        (bit (t.pkg.reg 0x1040) 0 = true ↔ bit v 0 = true ∧ p.boot = .trained) ∧
        t.pkg.boot = (if bit v 0 = true ∧ p.boot = .trained then .zeroing else p.boot) ∧ t.mem = s.mem ∧ t.groups = s.groups)) ∧
    (∀ (o : Nat) (b : Byte), ioReg o = none → exec (.registerWrite (.reg o) [b]) s = .next s) ∧
    (∀ (o : Nat) (v : DWord), o ∈ [0x31000, 0x31008, 0x31010, 0x31018, 0x31020] →
      (p.wordOk o v = false → exec (.registerWrite (.reg o) (leBytes 8 v.toNat)) s = .next s) ∧
      (p.wordOk o v = true → s.ioReady = true → ∃ t, exec (.registerWrite (.reg o) (leBytes 8 v.toNat)) s = .next t ∧ t.pkg.reg o = v ∧
        { t with pkg := { t.pkg with regs := p.regs } } = s ∧ ∀ k, k ≠ o → t.pkg.reg k = p.reg k)) ∧
    (∀ (i : Nat) (v : BitVec 1024), i < 256 → let k := v.toNat
      let c := (s.ctx i).ofImage k
      let reserved : Prop := bits v 48 13 = (0 : BitVec 13) ∧ bits v 4 12 = (0 : BitVec 12) ∧ k / 2 ^ 384 = 0
      (¬ reserved ∨ (bit v 63 = true ∧ s.ctxRules i c = false) → exec (.contextDescriptorWrite i 0 (leBytes 128 k)) s = .next s) ∧
      (reserved → (bit v 63 = true → s.ctxRules i c = true) → s.ioReady = true → ∃ t, exec (.contextDescriptorWrite i 0 (leBytes 128 k)) s = .next t ∧
        { t.ctx i with exc := c.exc } = c ∧ (bit v 63 = true → bit (s.ctx i).cfg 63 = false → (t.ctx i).exc = Vector.replicate 5 0) ∧
        (∀ j, j ≠ i → t.ctx j = s.ctx j) ∧ t.groups = s.groups ∧ t.mem = s.mem)) ∧
    (∀ (i off : Nat) (bs : List Byte), 256 ≤ i ∨ 128 < off + bs.length → exec (.contextDescriptorWrite i off bs) s = .next s) ∧
    (∀ flash svn, let fw := Config.flashImage svn
      (p.boot ≠ .off → exec (.powerGood flash svn) s = .next s) ∧
      (p.boot = .off → ∃ t, exec (.powerGood flash svn) s = .next t ∧ t.pkg.recArm = Config.recordArmed ∧ t.mem = s.mem ∧
        (flash = true → imageOk p.fused fw = true → t.pkg.boot = .training ∧ t.pkg.svn.toNat = field (leNat fw) 4 4 ∧
          t.pkg.fused.toNat = max p.fused.toNat (field (leNat fw) 4 4) ∧ t.pkg.body = fw.drop 0xD0) ∧
        (flash = false ∨ imageOk p.fused fw = false → t.pkg.boot = .rom ∧ t.pkg.svn = p.svn ∧ t.pkg.fused = p.fused))) ∧
    (∀ g, (p.boot ≠ .training → exec (.trainingComplete g) s = .next s) ∧
      (p.boot = .training → exec (.trainingComplete g) s =
        .next { s with pkg := { p with
          boot := .trained, ddrcap := if 4096 < g.toNat then 4096 else g
          ports := vecMap (fun q => { q with owed := Vector.ofFn fun v => Config.rxBuffers v.val, due := true }) p.ports } })) ∧
    (p.boot ≠ .zeroing → exec .zeroingComplete s = .next s) ∧
    (p.boot = .zeroing → ∃ t, exec .zeroingComplete s = .next t ∧ t.groups = s.groups ∧ t.pkg.boot = (if p.doneWait.isSome then .running else .ready) ∧
      t.pkg.lock = (p.lock || p.doneWait.isSome) ∧
      (∀ tag, p.doneWait = some tag → t.pkg.hostOut = p.hostOut ++ [response tag 0 0 1 0]) ∧
      let zeroed (a : Nat) : Prop := s.ownHbm a = true ∨ (bit (p.reg 0x1040) 1 = false ∧ s.ownDdr a = true)
      (∀ a, (zeroed a → cellGet t.mem.cells a = 0) ∧ (¬ zeroed a → cellGet t.mem.cells a = cellGet s.mem.cells a)) ∧
      ∀ ln, (zeroed (ln * 128) → t.mem.poisoned ln = false) ∧ (¬ zeroed (ln * 128) → t.mem.poisoned ln = s.mem.poisoned ln)) ∧
    (∃ t, exec .corePowerRemoved s = .next t ∧ t.groups = [] ∧ t.teams = [] ∧ t.grids = [] ∧ t.pkg.boot = .off ∧ t.pkg.lock = false ∧
      t.pkg.fused = p.fused ∧ t.pkg.svn = p.fused ∧ t.mem.lines = [] ∧
      (p.boot = .standby → MemCanonical s → ∀ o, 0x10000000000 ≤ o → o < 0x50000000000 →
        cellGet t.mem.cells o = cellGet s.mem.cells (p.num.toNat * 2 ^ 43 + o) ∧
          t.mem.poisoned (o / 128) = s.mem.poisoned (p.num.toNat * 2 ^ 36 + o / 128))) ∧
    ∃ t, exec .dimmSupplyLoss s = .next t ∧ { t with mem := { t.mem with cells := s.mem.cells } } = s ∧
      (MemCanonical s → ∀ a, s.ownDdr a = false → cellGet t.mem.cells a = cellGet s.mem.cells a)
end

