-- ==== Sys2Proof/Laws/Memory.lean ====
section
/-! SUPPORT. Laws of the byte lists: read after write, and that every operation on them keeps the canonical form. -/

set_option Elab.async false

namespace Sys2Proof.Machine
open Sys2Proof

/-! ## The canonical form -/

theorem cellsFrom_cons {lo : Nat} {c : Host.Cell} {cs : List Host.Cell} :
    cellsFrom lo (c :: cs) = true ↔ lo ≤ c.1 ∧ c.2 ≠ 0 ∧ cellsFrom (c.1 + 1) cs = true := by
  simp [cellsFrom, and_assoc]

theorem cellGet_cons {c : Host.Cell} {cs : List Host.Cell} {a : Nat} :
    cellGet (c :: cs) a = if c.1 = a then c.2 else cellGet cs a := by
  simp [cellGet]

theorem cellPut_nil {a : Nat} {v : Byte} : cellPut [] a v = if v = 0 then [] else [(a, v)] := by
  simp [cellPut]

theorem cellPut_cons {c : Host.Cell} {cs : List Host.Cell} {a : Nat} {v : Byte} :
    cellPut (c :: cs) a v =
      if a < c.1 then (if v = 0 then c :: cs else (a, v) :: c :: cs)
      else if a = c.1 then (if v = 0 then cs else (a, v) :: cs) else c :: cellPut cs a v := by
  simp [cellPut]

theorem cellsFrom_le {lo lo' : Nat} {cs : List Host.Cell} (h : cellsFrom lo cs = true) (hl : lo' ≤ lo) : cellsFrom lo' cs = true := by
  cases cs with
  | nil => rfl
  | cons c cs => rw [cellsFrom_cons] at h ⊢; exact ⟨by omega, h.2⟩

/-- Below its first address a canonical list reads the default. -/
theorem cellGet_lt {lo a : Nat} {cs : List Host.Cell} (h : cellsFrom lo cs = true) (ha : a < lo) : cellGet cs a = 0 := by
  induction cs generalizing lo with
  | nil => rfl
  | cons c cs ih =>
    rw [cellsFrom_cons] at h
    rw [cellGet_cons, if_neg (by omega), ih h.2.2 (by omega)]

theorem cellPut_from {lo a : Nat} {cs : List Host.Cell} {v : Byte} (h : cellsFrom lo cs = true) (ha : lo ≤ a) :
    cellsFrom lo (cellPut cs a v) = true := by
  induction cs generalizing lo with
  | nil => rw [cellPut_nil]; split <;> simp_all [cellsFrom]
  | cons c cs ih =>
    have h' := cellsFrom_cons.1 h
    rw [cellPut_cons]
    split
    · split
      · exact h
      · exact cellsFrom_cons.2 ⟨ha, by assumption, cellsFrom_cons.2 ⟨by simp only; omega, h'.2⟩⟩
    · split
      · split
        · exact cellsFrom_le h'.2.2 (by omega)
        · exact cellsFrom_cons.2 ⟨ha, by assumption, by simp_all⟩
      · exact cellsFrom_cons.2 ⟨h'.1, h'.2.1, ih h'.2.2 (by omega)⟩

/-- Writing a byte keeps the canonical form. -/
theorem cellPut_wf {a : Nat} {cs : List Host.Cell} {v : Byte} (h : Memory.wf cs = true) : Memory.wf (cellPut cs a v) = true :=
  cellPut_from h (Nat.zero_le a)

/-- Writing bytes keeps the canonical form. -/
theorem cellsWrite_wf {a : Nat} {cs : List Host.Cell} {bs : List Byte} (h : Memory.wf cs = true) : Memory.wf (cellsWrite cs a bs) = true := by
  induction bs generalizing a cs with
  | nil => exact h
  | cons b bs ih => exact ih (cellPut_wf h)

theorem cellsFrom_filter {lo : Nat} {cs : List Host.Cell} (p : Host.Cell → Bool) (h : cellsFrom lo cs = true) :
    cellsFrom lo (cs.filter p) = true := by
  induction cs generalizing lo with
  | nil => rfl
  | cons c cs ih =>
    rw [cellsFrom_cons] at h
    rw [List.filter_cons]
    split
    · exact cellsFrom_cons.2 ⟨h.1, h.2.1, ih h.2.2⟩
    · exact cellsFrom_le (ih h.2.2) (by omega)

/-- Dropping entries keeps the canonical form. -/
theorem filter_wf {cs : List Host.Cell} (p : Host.Cell → Bool) (h : Memory.wf cs = true) : Memory.wf (cs.filter p) = true :=
  cellsFrom_filter p h

/-- Clearing a range keeps the canonical form. -/
theorem cellsClear_wf {cs : List Host.Cell} {a n : Nat} (h : Memory.wf cs = true) : Memory.wf (cellsClear cs a n) = true :=
  filter_wf _ h

/-- Merging the bytes of a line keeps the canonical form. -/
theorem mergeCells_wf {a : Nat} {d : LineData} {m : BitVec 128} {cs : List Host.Cell} (h : Memory.wf cs = true) :
    Memory.wf (mergeCells a d m cs) = true := by
  unfold mergeCells
  generalize List.range 128 = ks
  induction ks generalizing cs with
  | nil => exact h
  | cons k ks ih =>
    rw [List.foldl_cons]
    apply ih
    split
    · exact cellPut_wf h
    · exact h

/-! ## Read after write -/

theorem cellGet_cellPut_same_from {lo a : Nat} {cs : List Host.Cell} {v : Byte} (h : cellsFrom lo cs = true) :
    cellGet (cellPut cs a v) a = v := by
  induction cs generalizing lo with
  | nil => rw [cellPut_nil]; split <;> simp_all [cellGet]
  | cons c cs ih =>
    have h' := cellsFrom_cons.1 h
    rw [cellPut_cons]
    split
    · split
      · rw [cellGet_cons, if_neg (by omega), cellGet_lt h'.2.2 (by omega)]; simp_all
      · simp [cellGet]
    · split
      · split
        · rw [cellGet_lt h'.2.2 (by omega)]; simp_all
        · simp [cellGet]
      · rw [cellGet_cons, if_neg (by omega), ih h'.2.2]

/-- The byte written is read back. -/
theorem cellGet_cellPut_same {a : Nat} {cs : List Host.Cell} {v : Byte} (h : Memory.wf cs = true) : cellGet (cellPut cs a v) a = v :=
  cellGet_cellPut_same_from h

/-- Every other byte reads as before. -/
theorem cellGet_cellPut_other {a b : Nat} {cs : List Host.Cell} {v : Byte} (hab : a ≠ b) : cellGet (cellPut cs a v) b = cellGet cs b := by
  induction cs with
  | nil => rw [cellPut_nil]; split <;> simp [cellGet, hab]
  | cons c cs ih =>
    rw [cellPut_cons]
    split
    · split <;> simp [cellGet_cons, hab]
    · split
      · have : c.1 ≠ b := by omega
        split <;> simp [cellGet_cons, hab, this]
      · simp only [cellGet_cons, ih]

/-- Bytes outside the written range read as before. -/
theorem cellGet_cellsWrite_other {a b : Nat} {cs : List Host.Cell} {bs : List Byte} (h : b < a ∨ a + bs.length ≤ b) :
    cellGet (cellsWrite cs a bs) b = cellGet cs b := by
  induction bs generalizing a cs with
  | nil => rfl
  | cons v bs ih =>
    simp only [List.length_cons] at h
    simp only [cellsWrite]
    rw [ih (by omega), cellGet_cellPut_other (by omega)]

/-- The bytes written are read back. -/
theorem cellGet_cellsWrite_same {a k : Nat} {cs : List Host.Cell} {bs : List Byte} (hw : Memory.wf cs = true) (h : k < bs.length) :
    cellGet (cellsWrite cs a bs) (a + k) = bs[k] := by
  induction bs generalizing a k cs with
  | nil => simp at h
  | cons v bs ih =>
    simp only [cellsWrite]
    cases k with
    | zero =>
      show cellGet _ a = v
      rw [cellGet_cellsWrite_other (by omega), cellGet_cellPut_same hw]
    | succ k =>
      have := ih (a := a + 1) (k := k) (cellPut_wf (a := a) (v := v) hw) (by simpa using h)
      rw [show a + (k + 1) = a + 1 + k by omega, this]; rfl

/-! ## Scratchpads -/

/-- A scratchpad write keeps home memory and every canonical scratchpad canonical. -/
theorem padWrite_wf {s : State} {t off n v : Nat} (h : ∀ x ∈ s.teams, Memory.wf x.scratch = true) :
    ∀ x ∈ (s.padWrite t off n v).teams, Memory.wf x.scratch = true := by
  intro x hx
  simp only [State.padWrite, State.modTeam, State.setTeam] at hx
  rcases List.mem_or_eq_of_mem_set hx with hx | rfl
  · exact h x hx
  · apply cellsWrite_wf
    unfold State.team
    rw [List.getD_eq_getElem?_getD]
    cases ht : s.teams[t]? with
    | none => rfl
    | some y => exact h y (List.mem_of_getElem? ht)

end Sys2Proof.Machine
end

