-- ==== Sys2Proof/Laws/State.lean ====
section
/-! SUPPORT. What each named update of the state and of a group leaves, field by field, so that no proof unfolds a record update. -/

set_option Elab.async false

namespace Sys2Proof.Machine
open Sys2Proof

/-! ## Updates of the state -/

@[simp] theorem State.setGroup_groups (s : State) (g : Nat) (x : Group) : (s.setGroup g x).groups = s.groups.set g x := rfl
@[simp] theorem State.setGroup_teams (s : State) (g : Nat) (x : Group) : (s.setGroup g x).teams = s.teams := rfl
@[simp] theorem State.setGroup_grids (s : State) (g : Nat) (x : Group) : (s.setGroup g x).grids = s.grids := rfl
@[simp] theorem State.setGroup_paddocks (s : State) (g : Nat) (x : Group) : (s.setGroup g x).paddocks = s.paddocks := rfl
@[simp] theorem State.setGroup_cmds (s : State) (g : Nat) (x : Group) : (s.setGroup g x).cmds = s.cmds := rfl
@[simp] theorem State.setGroup_cmdNo (s : State) (g : Nat) (x : Group) : (s.setGroup g x).cmdNo = s.cmdNo := rfl
@[simp] theorem State.setGroup_mem (s : State) (g : Nat) (x : Group) : (s.setGroup g x).mem = s.mem := rfl
@[simp] theorem State.setGroup_pkg (s : State) (g : Nat) (x : Group) : (s.setGroup g x).pkg = s.pkg := rfl
@[simp] theorem State.setGroup_faults (s : State) (g : Nat) (x : Group) : (s.setGroup g x).faults = s.faults := rfl
@[simp] theorem State.setGroup_msgs (s : State) (g : Nat) (x : Group) : (s.setGroup g x).msgs = s.msgs := rfl
@[simp] theorem State.setGroup_out (s : State) (g : Nat) (x : Group) : (s.setGroup g x).out = s.out := rfl
@[simp] theorem State.setGroup_inputs (s : State) (g : Nat) (x : Group) : (s.setGroup g x).inputs = s.inputs := rfl
@[simp] theorem State.setGroup_sched (s : State) (g : Nat) (x : Group) : (s.setGroup g x).sched = s.sched := rfl
@[simp] theorem State.setGroup_cur (s : State) (g : Nat) (x : Group) : (s.setGroup g x).cur = s.cur := rfl
@[simp] theorem State.setGroup_tick (s : State) (g : Nat) (x : Group) : (s.setGroup g x).tick = s.tick := rfl
@[simp] theorem State.setGroup_hb (s : State) (g : Nat) (x : Group) : (s.setGroup g x).hb = s.hb := rfl

@[simp] theorem State.modGroup_groups (s : State) (g : Nat) (f : Group → Group) : (s.modGroup g f).groups = s.groups.set g (f (s.group g)) := rfl
@[simp] theorem State.modGroup_teams (s : State) (g : Nat) (f : Group → Group) : (s.modGroup g f).teams = s.teams := rfl
@[simp] theorem State.modGroup_grids (s : State) (g : Nat) (f : Group → Group) : (s.modGroup g f).grids = s.grids := rfl
@[simp] theorem State.modGroup_paddocks (s : State) (g : Nat) (f : Group → Group) : (s.modGroup g f).paddocks = s.paddocks := rfl
@[simp] theorem State.modGroup_cmds (s : State) (g : Nat) (f : Group → Group) : (s.modGroup g f).cmds = s.cmds := rfl
@[simp] theorem State.modGroup_cmdNo (s : State) (g : Nat) (f : Group → Group) : (s.modGroup g f).cmdNo = s.cmdNo := rfl
@[simp] theorem State.modGroup_mem (s : State) (g : Nat) (f : Group → Group) : (s.modGroup g f).mem = s.mem := rfl
@[simp] theorem State.modGroup_pkg (s : State) (g : Nat) (f : Group → Group) : (s.modGroup g f).pkg = s.pkg := rfl
@[simp] theorem State.modGroup_faults (s : State) (g : Nat) (f : Group → Group) : (s.modGroup g f).faults = s.faults := rfl
@[simp] theorem State.modGroup_msgs (s : State) (g : Nat) (f : Group → Group) : (s.modGroup g f).msgs = s.msgs := rfl
@[simp] theorem State.modGroup_out (s : State) (g : Nat) (f : Group → Group) : (s.modGroup g f).out = s.out := rfl
@[simp] theorem State.modGroup_inputs (s : State) (g : Nat) (f : Group → Group) : (s.modGroup g f).inputs = s.inputs := rfl
@[simp] theorem State.modGroup_sched (s : State) (g : Nat) (f : Group → Group) : (s.modGroup g f).sched = s.sched := rfl
@[simp] theorem State.modGroup_cur (s : State) (g : Nat) (f : Group → Group) : (s.modGroup g f).cur = s.cur := rfl
@[simp] theorem State.modGroup_tick (s : State) (g : Nat) (f : Group → Group) : (s.modGroup g f).tick = s.tick := rfl
@[simp] theorem State.modGroup_hb (s : State) (g : Nat) (f : Group → Group) : (s.modGroup g f).hb = s.hb := rfl

@[simp] theorem State.setTeam_groups (s : State) (t : Nat) (x : Team) : (s.setTeam t x).groups = s.groups := rfl
@[simp] theorem State.setTeam_teams (s : State) (t : Nat) (x : Team) : (s.setTeam t x).teams = s.teams.set t x := rfl
@[simp] theorem State.setTeam_grids (s : State) (t : Nat) (x : Team) : (s.setTeam t x).grids = s.grids := rfl
@[simp] theorem State.setTeam_paddocks (s : State) (t : Nat) (x : Team) : (s.setTeam t x).paddocks = s.paddocks := rfl
@[simp] theorem State.setTeam_cmds (s : State) (t : Nat) (x : Team) : (s.setTeam t x).cmds = s.cmds := rfl
@[simp] theorem State.setTeam_cmdNo (s : State) (t : Nat) (x : Team) : (s.setTeam t x).cmdNo = s.cmdNo := rfl
@[simp] theorem State.setTeam_mem (s : State) (t : Nat) (x : Team) : (s.setTeam t x).mem = s.mem := rfl
@[simp] theorem State.setTeam_pkg (s : State) (t : Nat) (x : Team) : (s.setTeam t x).pkg = s.pkg := rfl
@[simp] theorem State.setTeam_faults (s : State) (t : Nat) (x : Team) : (s.setTeam t x).faults = s.faults := rfl
@[simp] theorem State.setTeam_msgs (s : State) (t : Nat) (x : Team) : (s.setTeam t x).msgs = s.msgs := rfl
@[simp] theorem State.setTeam_out (s : State) (t : Nat) (x : Team) : (s.setTeam t x).out = s.out := rfl
@[simp] theorem State.setTeam_inputs (s : State) (t : Nat) (x : Team) : (s.setTeam t x).inputs = s.inputs := rfl
@[simp] theorem State.setTeam_sched (s : State) (t : Nat) (x : Team) : (s.setTeam t x).sched = s.sched := rfl
@[simp] theorem State.setTeam_cur (s : State) (t : Nat) (x : Team) : (s.setTeam t x).cur = s.cur := rfl
@[simp] theorem State.setTeam_tick (s : State) (t : Nat) (x : Team) : (s.setTeam t x).tick = s.tick := rfl
@[simp] theorem State.setTeam_hb (s : State) (t : Nat) (x : Team) : (s.setTeam t x).hb = s.hb := rfl

@[simp] theorem State.modTeam_groups (s : State) (t : Nat) (f : Team → Team) : (s.modTeam t f).groups = s.groups := rfl
@[simp] theorem State.modTeam_teams (s : State) (t : Nat) (f : Team → Team) : (s.modTeam t f).teams = s.teams.set t (f (s.team t)) := rfl
@[simp] theorem State.modTeam_grids (s : State) (t : Nat) (f : Team → Team) : (s.modTeam t f).grids = s.grids := rfl
@[simp] theorem State.modTeam_paddocks (s : State) (t : Nat) (f : Team → Team) : (s.modTeam t f).paddocks = s.paddocks := rfl
@[simp] theorem State.modTeam_cmds (s : State) (t : Nat) (f : Team → Team) : (s.modTeam t f).cmds = s.cmds := rfl
@[simp] theorem State.modTeam_cmdNo (s : State) (t : Nat) (f : Team → Team) : (s.modTeam t f).cmdNo = s.cmdNo := rfl
@[simp] theorem State.modTeam_mem (s : State) (t : Nat) (f : Team → Team) : (s.modTeam t f).mem = s.mem := rfl
@[simp] theorem State.modTeam_pkg (s : State) (t : Nat) (f : Team → Team) : (s.modTeam t f).pkg = s.pkg := rfl
@[simp] theorem State.modTeam_faults (s : State) (t : Nat) (f : Team → Team) : (s.modTeam t f).faults = s.faults := rfl
@[simp] theorem State.modTeam_msgs (s : State) (t : Nat) (f : Team → Team) : (s.modTeam t f).msgs = s.msgs := rfl
@[simp] theorem State.modTeam_out (s : State) (t : Nat) (f : Team → Team) : (s.modTeam t f).out = s.out := rfl
@[simp] theorem State.modTeam_inputs (s : State) (t : Nat) (f : Team → Team) : (s.modTeam t f).inputs = s.inputs := rfl
@[simp] theorem State.modTeam_sched (s : State) (t : Nat) (f : Team → Team) : (s.modTeam t f).sched = s.sched := rfl
@[simp] theorem State.modTeam_cur (s : State) (t : Nat) (f : Team → Team) : (s.modTeam t f).cur = s.cur := rfl
@[simp] theorem State.modTeam_tick (s : State) (t : Nat) (f : Team → Team) : (s.modTeam t f).tick = s.tick := rfl
@[simp] theorem State.modTeam_hb (s : State) (t : Nat) (f : Team → Team) : (s.modTeam t f).hb = s.hb := rfl

@[simp] theorem State.setGrid_groups (s : State) (k : Nat) (x : Grid) : (s.setGrid k x).groups = s.groups := rfl
@[simp] theorem State.setGrid_teams (s : State) (k : Nat) (x : Grid) : (s.setGrid k x).teams = s.teams := rfl
@[simp] theorem State.setGrid_grids (s : State) (k : Nat) (x : Grid) : (s.setGrid k x).grids = s.grids.set k x := rfl
@[simp] theorem State.setGrid_paddocks (s : State) (k : Nat) (x : Grid) : (s.setGrid k x).paddocks = s.paddocks := rfl
@[simp] theorem State.setGrid_cmds (s : State) (k : Nat) (x : Grid) : (s.setGrid k x).cmds = s.cmds := rfl
@[simp] theorem State.setGrid_cmdNo (s : State) (k : Nat) (x : Grid) : (s.setGrid k x).cmdNo = s.cmdNo := rfl
@[simp] theorem State.setGrid_mem (s : State) (k : Nat) (x : Grid) : (s.setGrid k x).mem = s.mem := rfl
@[simp] theorem State.setGrid_pkg (s : State) (k : Nat) (x : Grid) : (s.setGrid k x).pkg = s.pkg := rfl
@[simp] theorem State.setGrid_faults (s : State) (k : Nat) (x : Grid) : (s.setGrid k x).faults = s.faults := rfl
@[simp] theorem State.setGrid_msgs (s : State) (k : Nat) (x : Grid) : (s.setGrid k x).msgs = s.msgs := rfl
@[simp] theorem State.setGrid_out (s : State) (k : Nat) (x : Grid) : (s.setGrid k x).out = s.out := rfl
@[simp] theorem State.setGrid_inputs (s : State) (k : Nat) (x : Grid) : (s.setGrid k x).inputs = s.inputs := rfl
@[simp] theorem State.setGrid_sched (s : State) (k : Nat) (x : Grid) : (s.setGrid k x).sched = s.sched := rfl
@[simp] theorem State.setGrid_cur (s : State) (k : Nat) (x : Grid) : (s.setGrid k x).cur = s.cur := rfl
@[simp] theorem State.setGrid_tick (s : State) (k : Nat) (x : Grid) : (s.setGrid k x).tick = s.tick := rfl
@[simp] theorem State.setGrid_hb (s : State) (k : Nat) (x : Grid) : (s.setGrid k x).hb = s.hb := rfl

@[simp] theorem State.modGrid_groups (s : State) (k : Nat) (f : Grid → Grid) : (s.modGrid k f).groups = s.groups := rfl
@[simp] theorem State.modGrid_teams (s : State) (k : Nat) (f : Grid → Grid) : (s.modGrid k f).teams = s.teams := rfl
@[simp] theorem State.modGrid_grids (s : State) (k : Nat) (f : Grid → Grid) : (s.modGrid k f).grids = s.grids.set k (f (s.grid k)) := rfl
@[simp] theorem State.modGrid_paddocks (s : State) (k : Nat) (f : Grid → Grid) : (s.modGrid k f).paddocks = s.paddocks := rfl
@[simp] theorem State.modGrid_cmds (s : State) (k : Nat) (f : Grid → Grid) : (s.modGrid k f).cmds = s.cmds := rfl
@[simp] theorem State.modGrid_cmdNo (s : State) (k : Nat) (f : Grid → Grid) : (s.modGrid k f).cmdNo = s.cmdNo := rfl
@[simp] theorem State.modGrid_mem (s : State) (k : Nat) (f : Grid → Grid) : (s.modGrid k f).mem = s.mem := rfl
@[simp] theorem State.modGrid_pkg (s : State) (k : Nat) (f : Grid → Grid) : (s.modGrid k f).pkg = s.pkg := rfl
@[simp] theorem State.modGrid_faults (s : State) (k : Nat) (f : Grid → Grid) : (s.modGrid k f).faults = s.faults := rfl
@[simp] theorem State.modGrid_msgs (s : State) (k : Nat) (f : Grid → Grid) : (s.modGrid k f).msgs = s.msgs := rfl
@[simp] theorem State.modGrid_out (s : State) (k : Nat) (f : Grid → Grid) : (s.modGrid k f).out = s.out := rfl
@[simp] theorem State.modGrid_inputs (s : State) (k : Nat) (f : Grid → Grid) : (s.modGrid k f).inputs = s.inputs := rfl
@[simp] theorem State.modGrid_sched (s : State) (k : Nat) (f : Grid → Grid) : (s.modGrid k f).sched = s.sched := rfl
@[simp] theorem State.modGrid_cur (s : State) (k : Nat) (f : Grid → Grid) : (s.modGrid k f).cur = s.cur := rfl
@[simp] theorem State.modGrid_tick (s : State) (k : Nat) (f : Grid → Grid) : (s.modGrid k f).tick = s.tick := rfl
@[simp] theorem State.modGrid_hb (s : State) (k : Nat) (f : Grid → Grid) : (s.modGrid k f).hb = s.hb := rfl

@[simp] theorem State.setCtx_groups (s : State) (c : Nat) (x : Ctx) : (s.setCtx c x).groups = s.groups := rfl
@[simp] theorem State.setCtx_teams (s : State) (c : Nat) (x : Ctx) : (s.setCtx c x).teams = s.teams := rfl
@[simp] theorem State.setCtx_grids (s : State) (c : Nat) (x : Ctx) : (s.setCtx c x).grids = s.grids := rfl
@[simp] theorem State.setCtx_paddocks (s : State) (c : Nat) (x : Ctx) : (s.setCtx c x).paddocks = s.paddocks := rfl
@[simp] theorem State.setCtx_cmds (s : State) (c : Nat) (x : Ctx) : (s.setCtx c x).cmds = s.cmds := rfl
@[simp] theorem State.setCtx_cmdNo (s : State) (c : Nat) (x : Ctx) : (s.setCtx c x).cmdNo = s.cmdNo := rfl
@[simp] theorem State.setCtx_mem (s : State) (c : Nat) (x : Ctx) : (s.setCtx c x).mem = s.mem := rfl
@[simp] theorem State.setCtx_pkg (s : State) (c : Nat) (x : Ctx) : (s.setCtx c x).pkg = { s.pkg with ctxs := insertK s.pkg.ctxs c x } := rfl
@[simp] theorem State.setCtx_faults (s : State) (c : Nat) (x : Ctx) : (s.setCtx c x).faults = s.faults := rfl
@[simp] theorem State.setCtx_msgs (s : State) (c : Nat) (x : Ctx) : (s.setCtx c x).msgs = s.msgs := rfl
@[simp] theorem State.setCtx_out (s : State) (c : Nat) (x : Ctx) : (s.setCtx c x).out = s.out := rfl
@[simp] theorem State.setCtx_inputs (s : State) (c : Nat) (x : Ctx) : (s.setCtx c x).inputs = s.inputs := rfl
@[simp] theorem State.setCtx_sched (s : State) (c : Nat) (x : Ctx) : (s.setCtx c x).sched = s.sched := rfl
@[simp] theorem State.setCtx_cur (s : State) (c : Nat) (x : Ctx) : (s.setCtx c x).cur = s.cur := rfl
@[simp] theorem State.setCtx_tick (s : State) (c : Nat) (x : Ctx) : (s.setCtx c x).tick = s.tick := rfl
@[simp] theorem State.setCtx_hb (s : State) (c : Nat) (x : Ctx) : (s.setCtx c x).hb = s.hb := rfl

@[simp] theorem State.modCtx_groups (s : State) (c : Nat) (f : Ctx → Ctx) : (s.modCtx c f).groups = s.groups := rfl
@[simp] theorem State.modCtx_teams (s : State) (c : Nat) (f : Ctx → Ctx) : (s.modCtx c f).teams = s.teams := rfl
@[simp] theorem State.modCtx_grids (s : State) (c : Nat) (f : Ctx → Ctx) : (s.modCtx c f).grids = s.grids := rfl
@[simp] theorem State.modCtx_paddocks (s : State) (c : Nat) (f : Ctx → Ctx) : (s.modCtx c f).paddocks = s.paddocks := rfl
@[simp] theorem State.modCtx_cmds (s : State) (c : Nat) (f : Ctx → Ctx) : (s.modCtx c f).cmds = s.cmds := rfl
@[simp] theorem State.modCtx_cmdNo (s : State) (c : Nat) (f : Ctx → Ctx) : (s.modCtx c f).cmdNo = s.cmdNo := rfl
@[simp] theorem State.modCtx_mem (s : State) (c : Nat) (f : Ctx → Ctx) : (s.modCtx c f).mem = s.mem := rfl
@[simp] theorem State.modCtx_pkg (s : State) (c : Nat) (f : Ctx → Ctx) : (s.modCtx c f).pkg = { s.pkg with ctxs := insertK s.pkg.ctxs c (f (s.ctx c)) } := rfl
@[simp] theorem State.modCtx_faults (s : State) (c : Nat) (f : Ctx → Ctx) : (s.modCtx c f).faults = s.faults := rfl
@[simp] theorem State.modCtx_msgs (s : State) (c : Nat) (f : Ctx → Ctx) : (s.modCtx c f).msgs = s.msgs := rfl
@[simp] theorem State.modCtx_out (s : State) (c : Nat) (f : Ctx → Ctx) : (s.modCtx c f).out = s.out := rfl
@[simp] theorem State.modCtx_inputs (s : State) (c : Nat) (f : Ctx → Ctx) : (s.modCtx c f).inputs = s.inputs := rfl
@[simp] theorem State.modCtx_sched (s : State) (c : Nat) (f : Ctx → Ctx) : (s.modCtx c f).sched = s.sched := rfl
@[simp] theorem State.modCtx_cur (s : State) (c : Nat) (f : Ctx → Ctx) : (s.modCtx c f).cur = s.cur := rfl
@[simp] theorem State.modCtx_tick (s : State) (c : Nat) (f : Ctx → Ctx) : (s.modCtx c f).tick = s.tick := rfl
@[simp] theorem State.modCtx_hb (s : State) (c : Nat) (f : Ctx → Ctx) : (s.modCtx c f).hb = s.hb := rfl

@[simp] theorem State.modCg_groups (s : State) (f : Group → Group) : (s.modCg f).groups = s.groups.set s.cur.g (f s.cg) := rfl
@[simp] theorem State.modCg_teams (s : State) (f : Group → Group) : (s.modCg f).teams = s.teams := rfl
@[simp] theorem State.modCg_grids (s : State) (f : Group → Group) : (s.modCg f).grids = s.grids := rfl
@[simp] theorem State.modCg_paddocks (s : State) (f : Group → Group) : (s.modCg f).paddocks = s.paddocks := rfl
@[simp] theorem State.modCg_cmds (s : State) (f : Group → Group) : (s.modCg f).cmds = s.cmds := rfl
@[simp] theorem State.modCg_cmdNo (s : State) (f : Group → Group) : (s.modCg f).cmdNo = s.cmdNo := rfl
@[simp] theorem State.modCg_mem (s : State) (f : Group → Group) : (s.modCg f).mem = s.mem := rfl
@[simp] theorem State.modCg_pkg (s : State) (f : Group → Group) : (s.modCg f).pkg = s.pkg := rfl
@[simp] theorem State.modCg_faults (s : State) (f : Group → Group) : (s.modCg f).faults = s.faults := rfl
@[simp] theorem State.modCg_msgs (s : State) (f : Group → Group) : (s.modCg f).msgs = s.msgs := rfl
@[simp] theorem State.modCg_out (s : State) (f : Group → Group) : (s.modCg f).out = s.out := rfl
@[simp] theorem State.modCg_inputs (s : State) (f : Group → Group) : (s.modCg f).inputs = s.inputs := rfl
@[simp] theorem State.modCg_sched (s : State) (f : Group → Group) : (s.modCg f).sched = s.sched := rfl
@[simp] theorem State.modCg_cur (s : State) (f : Group → Group) : (s.modCg f).cur = s.cur := rfl
@[simp] theorem State.modCg_tick (s : State) (f : Group → Group) : (s.modCg f).tick = s.tick := rfl
@[simp] theorem State.modCg_hb (s : State) (f : Group → Group) : (s.modCg f).hb = s.hb := rfl

@[simp] theorem State.modCt_groups (s : State) (f : Team → Team) : (s.modCt f).groups = s.groups := rfl
@[simp] theorem State.modCt_teams (s : State) (f : Team → Team) : (s.modCt f).teams = s.teams.set s.cg.team (f s.ct) := rfl
@[simp] theorem State.modCt_grids (s : State) (f : Team → Team) : (s.modCt f).grids = s.grids := rfl
@[simp] theorem State.modCt_paddocks (s : State) (f : Team → Team) : (s.modCt f).paddocks = s.paddocks := rfl
@[simp] theorem State.modCt_cmds (s : State) (f : Team → Team) : (s.modCt f).cmds = s.cmds := rfl
@[simp] theorem State.modCt_cmdNo (s : State) (f : Team → Team) : (s.modCt f).cmdNo = s.cmdNo := rfl
@[simp] theorem State.modCt_mem (s : State) (f : Team → Team) : (s.modCt f).mem = s.mem := rfl
@[simp] theorem State.modCt_pkg (s : State) (f : Team → Team) : (s.modCt f).pkg = s.pkg := rfl
@[simp] theorem State.modCt_faults (s : State) (f : Team → Team) : (s.modCt f).faults = s.faults := rfl
@[simp] theorem State.modCt_msgs (s : State) (f : Team → Team) : (s.modCt f).msgs = s.msgs := rfl
@[simp] theorem State.modCt_out (s : State) (f : Team → Team) : (s.modCt f).out = s.out := rfl
@[simp] theorem State.modCt_inputs (s : State) (f : Team → Team) : (s.modCt f).inputs = s.inputs := rfl
@[simp] theorem State.modCt_sched (s : State) (f : Team → Team) : (s.modCt f).sched = s.sched := rfl
@[simp] theorem State.modCt_cur (s : State) (f : Team → Team) : (s.modCt f).cur = s.cur := rfl
@[simp] theorem State.modCt_tick (s : State) (f : Team → Team) : (s.modCt f).tick = s.tick := rfl
@[simp] theorem State.modCt_hb (s : State) (f : Team → Team) : (s.modCt f).hb = s.hb := rfl

@[simp] theorem State.raise_groups (s : State) (r : FaultRec) : (s.raise r).groups = s.groups := rfl
@[simp] theorem State.raise_teams (s : State) (r : FaultRec) : (s.raise r).teams = s.teams := rfl
@[simp] theorem State.raise_grids (s : State) (r : FaultRec) : (s.raise r).grids = s.grids := rfl
@[simp] theorem State.raise_paddocks (s : State) (r : FaultRec) : (s.raise r).paddocks = s.paddocks := rfl
@[simp] theorem State.raise_cmds (s : State) (r : FaultRec) : (s.raise r).cmds = s.cmds := rfl
@[simp] theorem State.raise_cmdNo (s : State) (r : FaultRec) : (s.raise r).cmdNo = s.cmdNo := rfl
@[simp] theorem State.raise_mem (s : State) (r : FaultRec) : (s.raise r).mem = s.mem := rfl
@[simp] theorem State.raise_pkg (s : State) (r : FaultRec) : (s.raise r).pkg = s.pkg := rfl
@[simp] theorem State.raise_faults (s : State) (r : FaultRec) : (s.raise r).faults = s.faults ++ [r] := rfl
@[simp] theorem State.raise_msgs (s : State) (r : FaultRec) : (s.raise r).msgs = s.msgs := rfl
@[simp] theorem State.raise_out (s : State) (r : FaultRec) : (s.raise r).out = s.out := rfl
@[simp] theorem State.raise_inputs (s : State) (r : FaultRec) : (s.raise r).inputs = s.inputs := rfl
@[simp] theorem State.raise_sched (s : State) (r : FaultRec) : (s.raise r).sched = s.sched := rfl
@[simp] theorem State.raise_cur (s : State) (r : FaultRec) : (s.raise r).cur = s.cur := rfl
@[simp] theorem State.raise_tick (s : State) (r : FaultRec) : (s.raise r).tick = s.tick := rfl
@[simp] theorem State.raise_hb (s : State) (r : FaultRec) : (s.raise r).hb = s.hb := rfl

@[simp] theorem State.stallWith_groups (s : State) (m : Word) : (s.stallWith m).groups = s.groups.set s.cur.g (s.cg.putSet s.cur.e { s.cg.set s.cur.e with stalled := true, served := m }) := rfl
@[simp] theorem State.stallWith_teams (s : State) (m : Word) : (s.stallWith m).teams = s.teams := rfl
@[simp] theorem State.stallWith_grids (s : State) (m : Word) : (s.stallWith m).grids = s.grids := rfl
@[simp] theorem State.stallWith_paddocks (s : State) (m : Word) : (s.stallWith m).paddocks = s.paddocks := rfl
@[simp] theorem State.stallWith_cmds (s : State) (m : Word) : (s.stallWith m).cmds = s.cmds := rfl
@[simp] theorem State.stallWith_cmdNo (s : State) (m : Word) : (s.stallWith m).cmdNo = s.cmdNo := rfl
@[simp] theorem State.stallWith_mem (s : State) (m : Word) : (s.stallWith m).mem = s.mem := rfl
@[simp] theorem State.stallWith_pkg (s : State) (m : Word) : (s.stallWith m).pkg = s.pkg := rfl
@[simp] theorem State.stallWith_faults (s : State) (m : Word) : (s.stallWith m).faults = s.faults := rfl
@[simp] theorem State.stallWith_msgs (s : State) (m : Word) : (s.stallWith m).msgs = s.msgs := rfl
@[simp] theorem State.stallWith_out (s : State) (m : Word) : (s.stallWith m).out = s.out := rfl
@[simp] theorem State.stallWith_inputs (s : State) (m : Word) : (s.stallWith m).inputs = s.inputs := rfl
@[simp] theorem State.stallWith_sched (s : State) (m : Word) : (s.stallWith m).sched = s.sched := rfl
@[simp] theorem State.stallWith_cur (s : State) (m : Word) : (s.stallWith m).cur = s.cur := rfl
@[simp] theorem State.stallWith_tick (s : State) (m : Word) : (s.stallWith m).tick = s.tick := rfl
@[simp] theorem State.stallWith_hb (s : State) (m : Word) : (s.stallWith m).hb = s.hb := rfl

@[simp] theorem State.stall_groups (s : State) : (s.stall).groups = s.groups.set s.cur.g (s.cg.putSet s.cur.e { s.cg.set s.cur.e with stalled := true }) := rfl
@[simp] theorem State.stall_teams (s : State) : (s.stall).teams = s.teams := rfl
@[simp] theorem State.stall_grids (s : State) : (s.stall).grids = s.grids := rfl
@[simp] theorem State.stall_paddocks (s : State) : (s.stall).paddocks = s.paddocks := rfl
@[simp] theorem State.stall_cmds (s : State) : (s.stall).cmds = s.cmds := rfl
@[simp] theorem State.stall_cmdNo (s : State) : (s.stall).cmdNo = s.cmdNo := rfl
@[simp] theorem State.stall_mem (s : State) : (s.stall).mem = s.mem := rfl
@[simp] theorem State.stall_pkg (s : State) : (s.stall).pkg = s.pkg := rfl
@[simp] theorem State.stall_faults (s : State) : (s.stall).faults = s.faults := rfl
@[simp] theorem State.stall_msgs (s : State) : (s.stall).msgs = s.msgs := rfl
@[simp] theorem State.stall_out (s : State) : (s.stall).out = s.out := rfl
@[simp] theorem State.stall_inputs (s : State) : (s.stall).inputs = s.inputs := rfl
@[simp] theorem State.stall_sched (s : State) : (s.stall).sched = s.sched := rfl
@[simp] theorem State.stall_cur (s : State) : (s.stall).cur = s.cur := rfl
@[simp] theorem State.stall_tick (s : State) : (s.stall).tick = s.tick := rfl
@[simp] theorem State.stall_hb (s : State) : (s.stall).hb = s.hb := rfl

@[simp] theorem State.padWrite_groups (s : State) (t off n v : Nat) : (s.padWrite t off n v).groups = s.groups := rfl
@[simp] theorem State.padWrite_teams (s : State) (t off n v : Nat) : (s.padWrite t off n v).teams = s.teams.set t { s.team t with scratch := cellsWrite (s.team t).scratch off (leBytes n v) } := rfl
@[simp] theorem State.padWrite_grids (s : State) (t off n v : Nat) : (s.padWrite t off n v).grids = s.grids := rfl
@[simp] theorem State.padWrite_paddocks (s : State) (t off n v : Nat) : (s.padWrite t off n v).paddocks = s.paddocks := rfl
@[simp] theorem State.padWrite_cmds (s : State) (t off n v : Nat) : (s.padWrite t off n v).cmds = s.cmds := rfl
@[simp] theorem State.padWrite_cmdNo (s : State) (t off n v : Nat) : (s.padWrite t off n v).cmdNo = s.cmdNo := rfl
@[simp] theorem State.padWrite_mem (s : State) (t off n v : Nat) : (s.padWrite t off n v).mem = s.mem := rfl
@[simp] theorem State.padWrite_pkg (s : State) (t off n v : Nat) : (s.padWrite t off n v).pkg = s.pkg := rfl
@[simp] theorem State.padWrite_faults (s : State) (t off n v : Nat) : (s.padWrite t off n v).faults = s.faults := rfl
@[simp] theorem State.padWrite_msgs (s : State) (t off n v : Nat) : (s.padWrite t off n v).msgs = s.msgs := rfl
@[simp] theorem State.padWrite_out (s : State) (t off n v : Nat) : (s.padWrite t off n v).out = s.out := rfl
@[simp] theorem State.padWrite_inputs (s : State) (t off n v : Nat) : (s.padWrite t off n v).inputs = s.inputs := rfl
@[simp] theorem State.padWrite_sched (s : State) (t off n v : Nat) : (s.padWrite t off n v).sched = s.sched := rfl
@[simp] theorem State.padWrite_cur (s : State) (t off n v : Nat) : (s.padWrite t off n v).cur = s.cur := rfl
@[simp] theorem State.padWrite_tick (s : State) (t off n v : Nat) : (s.padWrite t off n v).tick = s.tick := rfl
@[simp] theorem State.padWrite_hb (s : State) (t off n v : Nat) : (s.padWrite t off n v).hb = s.hb.drop (.pad t off) n := rfl

/-! ## Updates of a group -/

@[simp] theorem Group.putSet_team (g : Group) (e : Nat) (l : LaneSet) : (g.putSet e l).team = g.team := rfl
@[simp] theorem Group.putSet_gidx (g : Group) (e : Nat) (l : LaneSet) : (g.putSet e l).gidx = g.gidx := rfl
@[simp] theorem Group.putSet_slot (g : Group) (e : Nat) (l : LaneSet) : (g.putSet e l).slot = g.slot := rfl
@[simp] theorem Group.putSet_quarter (g : Group) (e : Nat) (l : LaneSet) : (g.putSet e l).quarter = g.quarter := rfl
@[simp] theorem Group.putSet_role (g : Group) (e : Nat) (l : LaneSet) : (g.putSet e l).role = g.role := rfl
@[simp] theorem Group.putSet_consumer (g : Group) (e : Nat) (l : LaneSet) : (g.putSet e l).consumer = g.consumer := rfl
@[simp] theorem Group.putSet_slim (g : Group) (e : Nat) (l : LaneSet) : (g.putSet e l).slim = g.slim := rfl
@[simp] theorem Group.putSet_vlim (g : Group) (e : Nat) (l : LaneSet) : (g.putSet e l).vlim = g.vlim := rfl
@[simp] theorem Group.putSet_evlim (g : Group) (e : Nat) (l : LaneSet) : (g.putSet e l).evlim = g.evlim := rfl
@[simp] theorem Group.putSet_ext (g : Group) (e : Nat) (l : LaneSet) : (g.putSet e l).ext = g.ext := rfl
@[simp] theorem Group.putSet_xwait (g : Group) (e : Nat) (l : LaneSet) : (g.putSet e l).xwait = g.xwait := rfl
@[simp] theorem Group.putSet_live (g : Group) (e : Nat) (l : LaneSet) : (g.putSet e l).live = g.live := rfl
@[simp] theorem Group.putSet_present (g : Group) (e : Nat) (l : LaneSet) : (g.putSet e l).present = g.present := rfl
@[simp] theorem Group.putSet_ended (g : Group) (e : Nat) (l : LaneSet) : (g.putSet e l).ended = g.ended := rfl
@[simp] theorem Group.putSet_regs (g : Group) (e : Nat) (l : LaneSet) : (g.putSet e l).regs = g.regs := rfl
@[simp] theorem Group.putSet_sets (g : Group) (e : Nat) (l : LaneSet) : (g.putSet e l).sets = vecPut g.sets e l := rfl
@[simp] theorem Group.putSet_stack (g : Group) (e : Nat) (l : LaneSet) : (g.putSet e l).stack = g.stack := rfl
@[simp] theorem Group.putSet_loops (g : Group) (e : Nat) (l : LaneSet) : (g.putSet e l).loops = g.loops := rfl
@[simp] theorem Group.putSet_issueNo (g : Group) (e : Nat) (l : LaneSet) : (g.putSet e l).issueNo = g.issueNo := rfl
@[simp] theorem Group.putSet_win (g : Group) (e : Nat) (l : LaneSet) : (g.putSet e l).win = g.win := rfl
@[simp] theorem Group.putSet_out (g : Group) (e : Nat) (l : LaneSet) : (g.putSet e l).out = g.out := rfl
@[simp] theorem Group.putSet_trap (g : Group) (e : Nat) (l : LaneSet) : (g.putSet e l).trap = g.trap := rfl
@[simp] theorem Group.putSet_handler (g : Group) (e : Nat) (l : LaneSet) : (g.putSet e l).handler = g.handler := rfl
@[simp] theorem Group.putSet_trapReq (g : Group) (e : Nat) (l : LaneSet) : (g.putSet e l).trapReq = g.trapReq := rfl
@[simp] theorem Group.putSet_held (g : Group) (e : Nat) (l : LaneSet) : (g.putSet e l).held = g.held := rfl
@[simp] theorem Group.putSet_folds (g : Group) (e : Nat) (l : LaneSet) : (g.putSet e l).folds = g.folds := rfl
@[simp] theorem Group.putSet_ra (g : Group) (e : Nat) (l : LaneSet) : (g.putSet e l).ra = g.ra := rfl
@[simp] theorem Group.putSet_batches (g : Group) (e : Nat) (l : LaneSet) : (g.putSet e l).batches = g.batches := rfl
@[simp] theorem Group.putSet_retype (g : Group) (e : Nat) (l : LaneSet) : (g.putSet e l).retype = g.retype := rfl
@[simp] theorem Group.putSet_invs (g : Group) (e : Nat) (l : LaneSet) : (g.putSet e l).invs = g.invs := rfl
@[simp] theorem Group.putSet_host (g : Group) (e : Nat) (l : LaneSet) : (g.putSet e l).host = g.host := rfl
@[simp] theorem Group.putSet_resume (g : Group) (e : Nat) (l : LaneSet) : (g.putSet e l).resume = g.resume := rfl
@[simp] theorem Group.putSet_dstack (g : Group) (e : Nat) (l : LaneSet) : (g.putSet e l).dstack = g.dstack := rfl
@[simp] theorem Group.putSet_homes (g : Group) (e : Nat) (l : LaneSet) : (g.putSet e l).homes = g.homes := rfl
@[simp] theorem Group.putSet_lent (g : Group) (e : Nat) (l : LaneSet) : (g.putSet e l).lent = g.lent := rfl
@[simp] theorem Group.putSet_routines (g : Group) (e : Nat) (l : LaneSet) : (g.putSet e l).routines = g.routines := rfl
@[simp] theorem Group.putSet_inRoutine (g : Group) (e : Nat) (l : LaneSet) : (g.putSet e l).inRoutine = g.inRoutine := rfl

@[simp] theorem Group.orFlags_team (g : Group) (fl : Fl) : (g.orFlags fl).team = g.team := rfl
@[simp] theorem Group.orFlags_gidx (g : Group) (fl : Fl) : (g.orFlags fl).gidx = g.gidx := rfl
@[simp] theorem Group.orFlags_slot (g : Group) (fl : Fl) : (g.orFlags fl).slot = g.slot := rfl
@[simp] theorem Group.orFlags_quarter (g : Group) (fl : Fl) : (g.orFlags fl).quarter = g.quarter := rfl
@[simp] theorem Group.orFlags_role (g : Group) (fl : Fl) : (g.orFlags fl).role = g.role := rfl
@[simp] theorem Group.orFlags_consumer (g : Group) (fl : Fl) : (g.orFlags fl).consumer = g.consumer := rfl
@[simp] theorem Group.orFlags_slim (g : Group) (fl : Fl) : (g.orFlags fl).slim = g.slim := rfl
@[simp] theorem Group.orFlags_vlim (g : Group) (fl : Fl) : (g.orFlags fl).vlim = g.vlim := rfl
@[simp] theorem Group.orFlags_evlim (g : Group) (fl : Fl) : (g.orFlags fl).evlim = g.evlim := rfl
@[simp] theorem Group.orFlags_ext (g : Group) (fl : Fl) : (g.orFlags fl).ext = g.ext := rfl
@[simp] theorem Group.orFlags_xwait (g : Group) (fl : Fl) : (g.orFlags fl).xwait = g.xwait := rfl
@[simp] theorem Group.orFlags_live (g : Group) (fl : Fl) : (g.orFlags fl).live = g.live := rfl
@[simp] theorem Group.orFlags_present (g : Group) (fl : Fl) : (g.orFlags fl).present = g.present := rfl
@[simp] theorem Group.orFlags_ended (g : Group) (fl : Fl) : (g.orFlags fl).ended = g.ended := rfl
@[simp] theorem Group.orFlags_regs (g : Group) (fl : Fl) : (g.orFlags fl).regs = { g.regs with fpflags := g.regs.fpflags ||| fl.setWidth 32 } := rfl
@[simp] theorem Group.orFlags_sets (g : Group) (fl : Fl) : (g.orFlags fl).sets = g.sets := rfl
@[simp] theorem Group.orFlags_stack (g : Group) (fl : Fl) : (g.orFlags fl).stack = g.stack := rfl
@[simp] theorem Group.orFlags_loops (g : Group) (fl : Fl) : (g.orFlags fl).loops = g.loops := rfl
@[simp] theorem Group.orFlags_issueNo (g : Group) (fl : Fl) : (g.orFlags fl).issueNo = g.issueNo := rfl
@[simp] theorem Group.orFlags_win (g : Group) (fl : Fl) : (g.orFlags fl).win = g.win := rfl
@[simp] theorem Group.orFlags_out (g : Group) (fl : Fl) : (g.orFlags fl).out = g.out := rfl
@[simp] theorem Group.orFlags_trap (g : Group) (fl : Fl) : (g.orFlags fl).trap = g.trap := rfl
@[simp] theorem Group.orFlags_handler (g : Group) (fl : Fl) : (g.orFlags fl).handler = g.handler := rfl
@[simp] theorem Group.orFlags_trapReq (g : Group) (fl : Fl) : (g.orFlags fl).trapReq = g.trapReq := rfl
@[simp] theorem Group.orFlags_held (g : Group) (fl : Fl) : (g.orFlags fl).held = g.held := rfl
@[simp] theorem Group.orFlags_folds (g : Group) (fl : Fl) : (g.orFlags fl).folds = g.folds := rfl
@[simp] theorem Group.orFlags_ra (g : Group) (fl : Fl) : (g.orFlags fl).ra = g.ra := rfl
@[simp] theorem Group.orFlags_batches (g : Group) (fl : Fl) : (g.orFlags fl).batches = g.batches := rfl
@[simp] theorem Group.orFlags_retype (g : Group) (fl : Fl) : (g.orFlags fl).retype = g.retype := rfl
@[simp] theorem Group.orFlags_invs (g : Group) (fl : Fl) : (g.orFlags fl).invs = g.invs := rfl
@[simp] theorem Group.orFlags_host (g : Group) (fl : Fl) : (g.orFlags fl).host = g.host := rfl
@[simp] theorem Group.orFlags_resume (g : Group) (fl : Fl) : (g.orFlags fl).resume = g.resume := rfl
@[simp] theorem Group.orFlags_dstack (g : Group) (fl : Fl) : (g.orFlags fl).dstack = g.dstack := rfl
@[simp] theorem Group.orFlags_homes (g : Group) (fl : Fl) : (g.orFlags fl).homes = g.homes := rfl
@[simp] theorem Group.orFlags_lent (g : Group) (fl : Fl) : (g.orFlags fl).lent = g.lent := rfl
@[simp] theorem Group.orFlags_routines (g : Group) (fl : Fl) : (g.orFlags fl).routines = g.routines := rfl
@[simp] theorem Group.orFlags_inRoutine (g : Group) (fl : Fl) : (g.orFlags fl).inRoutine = g.inRoutine := rfl

@[simp] theorem Group.orStatus_team (g : Group) (b : Word) : (g.orStatus b).team = g.team := rfl
@[simp] theorem Group.orStatus_gidx (g : Group) (b : Word) : (g.orStatus b).gidx = g.gidx := rfl
@[simp] theorem Group.orStatus_slot (g : Group) (b : Word) : (g.orStatus b).slot = g.slot := rfl
@[simp] theorem Group.orStatus_quarter (g : Group) (b : Word) : (g.orStatus b).quarter = g.quarter := rfl
@[simp] theorem Group.orStatus_role (g : Group) (b : Word) : (g.orStatus b).role = g.role := rfl
@[simp] theorem Group.orStatus_consumer (g : Group) (b : Word) : (g.orStatus b).consumer = g.consumer := rfl
@[simp] theorem Group.orStatus_slim (g : Group) (b : Word) : (g.orStatus b).slim = g.slim := rfl
@[simp] theorem Group.orStatus_vlim (g : Group) (b : Word) : (g.orStatus b).vlim = g.vlim := rfl
@[simp] theorem Group.orStatus_evlim (g : Group) (b : Word) : (g.orStatus b).evlim = g.evlim := rfl
@[simp] theorem Group.orStatus_ext (g : Group) (b : Word) : (g.orStatus b).ext = g.ext := rfl
@[simp] theorem Group.orStatus_xwait (g : Group) (b : Word) : (g.orStatus b).xwait = g.xwait := rfl
@[simp] theorem Group.orStatus_live (g : Group) (b : Word) : (g.orStatus b).live = g.live := rfl
@[simp] theorem Group.orStatus_present (g : Group) (b : Word) : (g.orStatus b).present = g.present := rfl
@[simp] theorem Group.orStatus_ended (g : Group) (b : Word) : (g.orStatus b).ended = g.ended := rfl
@[simp] theorem Group.orStatus_regs (g : Group) (b : Word) : (g.orStatus b).regs = { g.regs with status := g.regs.status ||| b } := rfl
@[simp] theorem Group.orStatus_sets (g : Group) (b : Word) : (g.orStatus b).sets = g.sets := rfl
@[simp] theorem Group.orStatus_stack (g : Group) (b : Word) : (g.orStatus b).stack = g.stack := rfl
@[simp] theorem Group.orStatus_loops (g : Group) (b : Word) : (g.orStatus b).loops = g.loops := rfl
@[simp] theorem Group.orStatus_issueNo (g : Group) (b : Word) : (g.orStatus b).issueNo = g.issueNo := rfl
@[simp] theorem Group.orStatus_win (g : Group) (b : Word) : (g.orStatus b).win = g.win := rfl
@[simp] theorem Group.orStatus_out (g : Group) (b : Word) : (g.orStatus b).out = g.out := rfl
@[simp] theorem Group.orStatus_trap (g : Group) (b : Word) : (g.orStatus b).trap = g.trap := rfl
@[simp] theorem Group.orStatus_handler (g : Group) (b : Word) : (g.orStatus b).handler = g.handler := rfl
@[simp] theorem Group.orStatus_trapReq (g : Group) (b : Word) : (g.orStatus b).trapReq = g.trapReq := rfl
@[simp] theorem Group.orStatus_held (g : Group) (b : Word) : (g.orStatus b).held = g.held := rfl
@[simp] theorem Group.orStatus_folds (g : Group) (b : Word) : (g.orStatus b).folds = g.folds := rfl
@[simp] theorem Group.orStatus_ra (g : Group) (b : Word) : (g.orStatus b).ra = g.ra := rfl
@[simp] theorem Group.orStatus_batches (g : Group) (b : Word) : (g.orStatus b).batches = g.batches := rfl
@[simp] theorem Group.orStatus_retype (g : Group) (b : Word) : (g.orStatus b).retype = g.retype := rfl
@[simp] theorem Group.orStatus_invs (g : Group) (b : Word) : (g.orStatus b).invs = g.invs := rfl
@[simp] theorem Group.orStatus_host (g : Group) (b : Word) : (g.orStatus b).host = g.host := rfl
@[simp] theorem Group.orStatus_resume (g : Group) (b : Word) : (g.orStatus b).resume = g.resume := rfl
@[simp] theorem Group.orStatus_dstack (g : Group) (b : Word) : (g.orStatus b).dstack = g.dstack := rfl
@[simp] theorem Group.orStatus_homes (g : Group) (b : Word) : (g.orStatus b).homes = g.homes := rfl
@[simp] theorem Group.orStatus_lent (g : Group) (b : Word) : (g.orStatus b).lent = g.lent := rfl
@[simp] theorem Group.orStatus_routines (g : Group) (b : Word) : (g.orStatus b).routines = g.routines := rfl
@[simp] theorem Group.orStatus_inRoutine (g : Group) (b : Word) : (g.orStatus b).inRoutine = g.inRoutine := rfl

@[simp] theorem Group.send_team (g : Group) (t : Bool) (ws : List RegW) (fls : List Fl) : (g.send t ws fls).team = g.team := rfl
@[simp] theorem Group.send_gidx (g : Group) (t : Bool) (ws : List RegW) (fls : List Fl) : (g.send t ws fls).gidx = g.gidx := rfl
@[simp] theorem Group.send_slot (g : Group) (t : Bool) (ws : List RegW) (fls : List Fl) : (g.send t ws fls).slot = g.slot := rfl
@[simp] theorem Group.send_quarter (g : Group) (t : Bool) (ws : List RegW) (fls : List Fl) : (g.send t ws fls).quarter = g.quarter := rfl
@[simp] theorem Group.send_role (g : Group) (t : Bool) (ws : List RegW) (fls : List Fl) : (g.send t ws fls).role = g.role := rfl
@[simp] theorem Group.send_consumer (g : Group) (t : Bool) (ws : List RegW) (fls : List Fl) : (g.send t ws fls).consumer = g.consumer := rfl
@[simp] theorem Group.send_slim (g : Group) (t : Bool) (ws : List RegW) (fls : List Fl) : (g.send t ws fls).slim = g.slim := rfl
@[simp] theorem Group.send_vlim (g : Group) (t : Bool) (ws : List RegW) (fls : List Fl) : (g.send t ws fls).vlim = g.vlim := rfl
@[simp] theorem Group.send_evlim (g : Group) (t : Bool) (ws : List RegW) (fls : List Fl) : (g.send t ws fls).evlim = g.evlim := rfl
@[simp] theorem Group.send_ext (g : Group) (t : Bool) (ws : List RegW) (fls : List Fl) : (g.send t ws fls).ext = g.ext := rfl
@[simp] theorem Group.send_xwait (g : Group) (t : Bool) (ws : List RegW) (fls : List Fl) : (g.send t ws fls).xwait = g.xwait := rfl
@[simp] theorem Group.send_live (g : Group) (t : Bool) (ws : List RegW) (fls : List Fl) : (g.send t ws fls).live = g.live := rfl
@[simp] theorem Group.send_present (g : Group) (t : Bool) (ws : List RegW) (fls : List Fl) : (g.send t ws fls).present = g.present := rfl
@[simp] theorem Group.send_ended (g : Group) (t : Bool) (ws : List RegW) (fls : List Fl) : (g.send t ws fls).ended = g.ended := rfl
@[simp] theorem Group.send_regs (g : Group) (t : Bool) (ws : List RegW) (fls : List Fl) : (g.send t ws fls).regs = g.regs := rfl
@[simp] theorem Group.send_sets (g : Group) (t : Bool) (ws : List RegW) (fls : List Fl) : (g.send t ws fls).sets = g.sets := rfl
@[simp] theorem Group.send_stack (g : Group) (t : Bool) (ws : List RegW) (fls : List Fl) : (g.send t ws fls).stack = g.stack := rfl
@[simp] theorem Group.send_loops (g : Group) (t : Bool) (ws : List RegW) (fls : List Fl) : (g.send t ws fls).loops = g.loops := rfl
@[simp] theorem Group.send_issueNo (g : Group) (t : Bool) (ws : List RegW) (fls : List Fl) : (g.send t ws fls).issueNo = g.issueNo := rfl
@[simp] theorem Group.send_win (g : Group) (t : Bool) (ws : List RegW) (fls : List Fl) : (g.send t ws fls).win = g.win := rfl
@[simp] theorem Group.send_out (g : Group) (t : Bool) (ws : List RegW) (fls : List Fl) : (g.send t ws fls).out = g.out ++ [{ n := g.issueNo, t, ws, fls }] := rfl
@[simp] theorem Group.send_trap (g : Group) (t : Bool) (ws : List RegW) (fls : List Fl) : (g.send t ws fls).trap = g.trap := rfl
@[simp] theorem Group.send_handler (g : Group) (t : Bool) (ws : List RegW) (fls : List Fl) : (g.send t ws fls).handler = g.handler := rfl
@[simp] theorem Group.send_trapReq (g : Group) (t : Bool) (ws : List RegW) (fls : List Fl) : (g.send t ws fls).trapReq = g.trapReq := rfl
@[simp] theorem Group.send_held (g : Group) (t : Bool) (ws : List RegW) (fls : List Fl) : (g.send t ws fls).held = g.held := rfl
@[simp] theorem Group.send_folds (g : Group) (t : Bool) (ws : List RegW) (fls : List Fl) : (g.send t ws fls).folds = g.folds := rfl
@[simp] theorem Group.send_ra (g : Group) (t : Bool) (ws : List RegW) (fls : List Fl) : (g.send t ws fls).ra = g.ra := rfl
@[simp] theorem Group.send_batches (g : Group) (t : Bool) (ws : List RegW) (fls : List Fl) : (g.send t ws fls).batches = g.batches := rfl
@[simp] theorem Group.send_retype (g : Group) (t : Bool) (ws : List RegW) (fls : List Fl) : (g.send t ws fls).retype = g.retype := rfl
@[simp] theorem Group.send_invs (g : Group) (t : Bool) (ws : List RegW) (fls : List Fl) : (g.send t ws fls).invs = g.invs := rfl
@[simp] theorem Group.send_host (g : Group) (t : Bool) (ws : List RegW) (fls : List Fl) : (g.send t ws fls).host = g.host := rfl
@[simp] theorem Group.send_resume (g : Group) (t : Bool) (ws : List RegW) (fls : List Fl) : (g.send t ws fls).resume = g.resume := rfl
@[simp] theorem Group.send_dstack (g : Group) (t : Bool) (ws : List RegW) (fls : List Fl) : (g.send t ws fls).dstack = g.dstack := rfl
@[simp] theorem Group.send_homes (g : Group) (t : Bool) (ws : List RegW) (fls : List Fl) : (g.send t ws fls).homes = g.homes := rfl
@[simp] theorem Group.send_lent (g : Group) (t : Bool) (ws : List RegW) (fls : List Fl) : (g.send t ws fls).lent = g.lent := rfl
@[simp] theorem Group.send_routines (g : Group) (t : Bool) (ws : List RegW) (fls : List Fl) : (g.send t ws fls).routines = g.routines := rfl
@[simp] theorem Group.send_inRoutine (g : Group) (t : Bool) (ws : List RegW) (fls : List Fl) : (g.send t ws fls).inRoutine = g.inRoutine := rfl

/-! ## What the state holds at an index after an update -/

/-- The group written is read back where the index names a group. -/
theorem State.group_setGroup (s : State) {g : Nat} (x : Group) (h : g < s.groups.length) : (s.setGroup g x).group g = x := by
  simp [State.group, h]

/-- The other groups are read as before. -/
theorem State.group_setGroup_ne (s : State) {g h : Nat} (x : Group) (hne : h ≠ g) : (s.setGroup g x).group h = s.group h := by
  simp [State.group, List.getElem?_set_ne (Ne.symm hne)]

/-- The team written is read back where the index names a team. -/
theorem State.team_setTeam (s : State) {t : Nat} (x : Team) (h : t < s.teams.length) : (s.setTeam t x).team t = x := by
  simp [State.team, h]

/-- The other teams are read as before. -/
theorem State.team_setTeam_ne (s : State) {t u : Nat} (x : Team) (hne : u ≠ t) : (s.setTeam t x).team u = s.team u := by
  simp [State.team, List.getElem?_set_ne (Ne.symm hne)]

/-- Updates of groups leave every team, grid and context as it was. -/
@[simp] theorem State.team_setGroup (s : State) (g t : Nat) (x : Group) : (s.setGroup g x).team t = s.team t := rfl
@[simp] theorem State.grid_setGroup (s : State) (g k : Nat) (x : Group) : (s.setGroup g x).grid k = s.grid k := rfl
@[simp] theorem State.ctx_setGroup (s : State) (g c : Nat) (x : Group) : (s.setGroup g x).ctx c = s.ctx c := rfl
@[simp] theorem State.group_setTeam (s : State) (t g : Nat) (x : Team) : (s.setTeam t x).group g = s.group g := rfl

end Sys2Proof.Machine
end

