-- ==== Sys2Proof/Laws/Regs.lean ====
section
/-! SUPPORT. Laws of the register file and the forwarding window: what the results of an instruction leave to a later reader (R121,
R123, R161, R163), and what they leave alone. -/

set_option Elab.async false

namespace Sys2Proof.Machine
open Sys2Proof

/-! ## Vectors by natural number -/

theorem vecAt_put_same {α : Type} {n : Nat} (v : Vector α n) {i : Nat} (x d : α) (h : i < n) : vecAt (vecPut v i x) i d = x := by
  simp [vecAt, vecPut, h]

theorem vecAt_put_ne {α : Type} {n : Nat} (v : Vector α n) {i j : Nat} (x d : α) (h : i ≠ j) : vecAt (vecPut v i x) j d = vecAt v j d := by
  simp only [vecAt, vecPut]
  split
  · simp [h]
  · rfl

theorem vecAt_ofFn {α : Type} {n : Nat} (f : Fin n → α) {i : Nat} (d : α) (h : i < n) : vecAt (Vector.ofFn f) i d = f ⟨i, h⟩ := by
  simp [vecAt, h]

theorem vecAt_map {α β : Type} {n : Nat} (f : α → β) (v : Vector α n) {i : Nat} (d : α) (d' : β) (h : i < n) :
    vecAt (vecMap f v) i d' = f (vecAt v i d) := by
  simp [vecMap, vecAt, h]

/-! ## Lanes and bits -/

theorem mem_lanesOf {m : Word} {i : Nat} : i ∈ lanesOf m ↔ i < 32 ∧ bit m i = true := by
  simp [lanesOf]

/-- A vector result: the lanes and bits that change take the new value. -/
theorem laneOf_mergeV_in {old new : VReg} {lanes bm : Word} {i : Nat} (hi : i < 32) (h : bit lanes i = true) :
    laneOf (mergeV old new lanes bm) i = mergeBits bm (laneOf old i) (laneOf new i) := by
  simp [laneOf, mergeV, vecAt_ofFn _ _ hi, h]

/-- A vector result: the other lanes keep their value. -/
theorem laneOf_mergeV_out {old new : VReg} {lanes bm : Word} {i : Nat} (h : bit lanes i = false) :
    laneOf (mergeV old new lanes bm) i = laneOf old i := by
  by_cases hi : i < 32
  · simp only [laneOf, mergeV, vecAt_ofFn _ _ hi, h]
    rfl
  · simp [laneOf, vecAt, hi]

theorem mergeBits_full (old new : Word) : mergeBits ones32 old new = new := by
  rw [mergeBits, show ones32 = BitVec.allOnes 32 from rfl]
  simp only [BitVec.not_allOnes, BitVec.and_zero, BitVec.zero_or, BitVec.and_allOnes]

/-! ## The window -/

/-- What leaves the window by age is seen no longer (R121). -/
theorem seen_aged (win : List Win) (m : Nat) (key : RegW) :
    seen (win.filter fun e => m ≤ e.n + 7) m key = seen win m key := by
  unfold seen
  congr 1
  induction win with
  | nil => rfl
  | cons e es ih =>
    rw [List.filter_cons]
    by_cases h : m ≤ e.n + 7
    · simp [h, List.find?_cons, ih]
    · simp [h, ih]

/-- Entries of other registers do not matter. -/
theorem seen_filter_other {win : List Win} {m : Nat} {key : RegW} {p : Win → Bool} (h : ∀ e ∈ win, e.w.same key = true → p e = true) :
    seen (win.filter p) m key = seen win m key := by
  unfold seen
  congr 1
  induction win with
  | nil => rfl
  | cons e es ih =>
    have ih' := ih fun x hx => h x (List.mem_cons_of_mem _ hx)
    rw [List.filter_cons]
    by_cases hp : p e = true
    · simp [hp, List.find?_cons, ih']
    · have hs : e.w.same key = false := by
        cases hk : e.w.same key with
        | false => rfl
        | true => exact absurd (h e List.mem_cons_self hk) hp
      simp [hp, ih', hs]

/-- Once its entries are gone a register is not in the window. -/
theorem seen_filter_self (win : List Win) (m : Nat) (key : RegW) : seen (win.filter fun e => !e.w.same key) m key = none := by
  unfold seen
  induction win with
  | nil => rfl
  | cons e es ih =>
    rw [List.filter_cons]
    by_cases h : e.w.same key = true
    · simpa [h] using ih
    · simp only [Bool.not_eq_true] at h
      simp [h] at ih ⊢
      simpa using ih

theorem RegW.same_comm (a b : RegW) : a.same b = b.same a := by
  cases a <;> cases b <;> simp [RegW.same, Bool.beq_comm]

theorem RegW.same_trans {a b c : RegW} (h : a.same b = true) (h' : b.same c = true) : a.same c = true := by
  cases a <;> cases b <;> cases c <;> simp_all [RegW.same]

/-- Two names of one register are in the window together. -/
theorem seen_same {win : List Win} {m : Nat} {a b : RegW} (h : a.same b = true) : seen win m a = seen win m b := by
  unfold seen
  congr 2
  funext e
  have : e.w.same a = e.w.same b := by
    cases ha : e.w.same a with
    | true => exact (RegW.same_trans ha h).symm
    | false =>
      cases hb : e.w.same b with
      | false => rfl
      | true => exact absurd (RegW.same_trans hb (by rw [RegW.same_comm]; exact h)) (by simp [ha])
  rw [this]

/-! ## A result of the issuing instruction (R161) -/

theorem Group.whole_same (g : Group) (w : RegW) : (g.whole w).same w = true := by
  cases w <;> simp [Group.whole, RegW.same]

/-- A result leaves every other register's window entries. -/
theorem Group.putOne_seen (g : Group) (t : Bool) {w key : RegW} (m : Nat) (h : w.same key = false) :
    seen (g.putOne t w).win m key = seen g.win m key := by
  have hf : seen (g.win.filter fun e => !e.w.same w) m key = seen g.win m key :=
    seen_filter_other fun e _ he => by
      cases hw : e.w.same w with
      | false => rfl
      | true =>
        exact absurd (RegW.same_trans (by rw [RegW.same_comm]; exact hw) he) (by simp [h])
  unfold Group.putOne
  split
  · rfl
  · split
    · rw [← hf]
      have : (g.whole w).same key = false := by
        cases hk : (g.whole w).same key with
        | false => rfl
        | true =>
          have h1 : w.same (g.whole w) = true := by rw [RegW.same_comm]; exact g.whole_same w
          exact absurd (RegW.same_trans h1 hk) (by simp [h])
      simp [seen, this]
    · exact hf

/-- A transient result is what the next seven instructions see (R121). -/
theorem Group.putOne_seen_window (g : Group) {w : RegW} (m : Nat) (h0 : w.discarded = false) (hm : m ≤ g.issueNo + 7) :
    seen (g.putOne true w).win m w = some (g.whole w) := by
  simp [Group.putOne, h0, seen, g.whole_same w, hm]

/-- A result in the banks is hidden by no window entry. -/
theorem Group.putOne_seen_bank (g : Group) {w : RegW} (m : Nat) (h0 : w.discarded = false) :
    seen (g.putOne false w).win m w = none := by
  simp only [Group.putOne, h0]
  exact seen_filter_self _ _ _

theorem Group.putOne_regs (g : Group) {w : RegW} (h0 : w.discarded = false) :
    (g.putOne false w).regs = g.regs.write g.issueNo w := by
  simp [Group.putOne, h0]

@[simp] theorem Group.putOne_regs_window (g : Group) (w : RegW) : (g.putOne true w).regs = g.regs := by
  unfold Group.putOne; split <;> simp

@[simp] theorem Group.putOne_issueNo (g : Group) (t : Bool) (w : RegW) : (g.putOne t w).issueNo = g.issueNo := by
  unfold Group.putOne; split <;> [rfl; split <;> rfl]

/-- The registers and the window are all that a result changes. -/
theorem Group.putOne_eq (g : Group) (t : Bool) (w : RegW) :
    g.putOne t w = { g with regs := (g.putOne t w).regs, win := (g.putOne t w).win } := by
  unfold Group.putOne; split <;> [rfl; split <;> rfl]

/-- The registers and the window are all that the results of an instruction change. -/
theorem Group.put_eq (g : Group) (t : Bool) (ws : List RegW) :
    g.put t ws = { g with regs := (g.put t ws).regs, win := (g.put t ws).win } := by
  induction ws generalizing g with
  | nil => rfl
  | cons w ws ih =>
    show (g.putOne t w).put t ws = { g with regs := ((g.putOne t w).put t ws).regs, win := ((g.putOne t w).put t ws).win }
    have h := g.putOne_eq t w
    have hk : ∀ rg wn, { g.putOne t w with regs := rg, win := wn } = { g with regs := rg, win := wn } := fun rg wn => by rw [h]
    rw [← hk]
    exact ih _

@[simp] theorem Group.put_issueNo (g : Group) (t : Bool) (ws : List RegW) : (g.put t ws).issueNo = g.issueNo := by
  rw [Group.put_eq]

/-- The results of an instruction leave the window entries of every other register. -/
theorem Group.put_seen (g : Group) (t : Bool) {ws : List RegW} {key : RegW} (m : Nat) (h : ∀ w ∈ ws, w.same key = false) :
    seen (g.put t ws).win m key = seen g.win m key := by
  induction ws generalizing g with
  | nil => rfl
  | cons w ws ih =>
    show seen ((g.putOne t w).put t ws).win m key = _
    rw [ih _ fun x hx => h x (List.mem_cons_of_mem _ hx), g.putOne_seen t m (h w List.mem_cons_self)]

/-! ## The banks -/

theorem Regs.write_v_ne (rg : Regs) (n : Nat) {w : RegW} {r : Nat} (d : VReg) (h : w.same (.v r d 0 0) = false) :
    vecAt (rg.write n w).v r d = vecAt rg.v r d := by
  cases w with
  | v r' val lanes bm => exact vecAt_put_ne _ _ _ (by simpa [RegW.same] using h)
  | s => rfl
  | p => rfl
  | m r' => simp only [Regs.write]; split <;> rfl

theorem Regs.write_s_ne (rg : Regs) (n : Nat) {w : RegW} {r : Nat} (d : Word) (h : w.same (.s r 0 0) = false) :
    vecAt (rg.write n w).s r d = vecAt rg.s r d := by
  cases w with
  | s r' val bm => exact vecAt_put_ne _ _ _ (by simpa [RegW.same] using h)
  | v => rfl
  | p => rfl
  | m r' => simp only [Regs.write]; split <;> rfl

theorem Regs.write_p_ne (rg : Regs) (n : Nat) {w : RegW} {r : Nat} (d : QWord) (h : w.same (.p r 0) = false) :
    vecAt (rg.write n w).p r d = vecAt rg.p r d := by
  cases w with
  | p r' val => exact vecAt_put_ne _ _ _ (by simpa [RegW.same] using h)
  | v => rfl
  | s => rfl
  | m r' => simp only [Regs.write]; split <;> rfl

theorem Regs.write_m_ne (rg : Regs) (n : Nat) {w : RegW} {r : Nat} (d : Word) (h : w.same (.m r 0 0) = false) :
    vecAt (rg.write n w).m r d = vecAt rg.m r d := by
  cases w with
  | m r' val bm =>
    simp only [Regs.write]
    split
    · rfl
    · exact vecAt_put_ne _ _ _ (by simpa [RegW.same] using h)
  | v => rfl
  | s => rfl
  | p => rfl

/-- A result in the banks changes no special register. -/
theorem Regs.write_special (rg : Regs) (n : Nat) (w : RegW) :
    (rg.write n w).lc = rg.lc ∧ (rg.write n w).f = rg.f ∧ (rg.write n w).t = rg.t ∧ (rg.write n w).fpflags = rg.fpflags ∧
      (rg.write n w).status = rg.status := by
  cases w with
  | m r' => simp only [Regs.write]; split <;> simp
  | v => simp [Regs.write]
  | s => simp [Regs.write]
  | p => simp [Regs.write]

end Sys2Proof.Machine
end

