-- ==== Sys2Proof/Laws/Advance.lean ====
section
/-! SUPPORT. Laws of the advance of a split: what the merges of R145 and R146, the end check of R157 and the count of an issue can
change of a group and of the state, said once. -/

set_option Elab.async false

namespace Sys2Proof.Machine
open Sys2Proof

/-! ## The merges change lane sets, loops and loop counters only -/

/-- `y` is `x` but for its lane sets, its loop stack and its loop counters. -/
structure Group.SameButSets (x y : Group) : Prop where
  eq : y = { x with sets := y.sets, stack := y.stack, loops := y.loops, regs := { x.regs with lc := y.regs.lc } }

theorem Group.SameButSets.refl (x : Group) : x.SameButSets x := ⟨rfl⟩

theorem Group.SameButSets.trans {x y z : Group} (h : x.SameButSets y) (h' : y.SameButSets z) : x.SameButSets z := by
  constructor
  rw [h'.eq]
  rw [h.eq]

theorem Group.SameButSets.foldl {α : Type} {f : Group → α → Group} (h : ∀ (g : Group) a, g.SameButSets (f g a)) (l : List α) (g : Group) :
    g.SameButSets (l.foldl f g) := by
  induction l generalizing g with
  | nil => exact .refl g
  | cons a l ih => exact (h g a).trans (ih _)

theorem Group.putSet_same (g : Group) (e : Nat) (l : LaneSet) : g.SameButSets (g.putSet e l) := ⟨rfl⟩

theorem Group.mergePair_same (g : Group) (i j : Nat) : g.SameButSets (g.mergePair i j) := by
  rw [mergePair]
  split
  · exact (g.putSet_same _ _).trans (putSet_same _ _ _)
  · exact .refl g

theorem Group.mergeReady_same (g : Group) : g.SameButSets g.mergeReady := by
  have h : ∀ (g : Group) (p : Nat × Nat), g.SameButSets (g.mergePair p.1 p.2) := fun g p => g.mergePair_same p.1 p.2
  rw [mergeReady]
  exact SameButSets.foldl h _ g

theorem Group.joinEntry_same (g : Group) (e j : Nat) : g.SameButSets (g.joinEntry e j) := by
  rw [joinEntry]
  split
  · exact (g.putSet_same _ _).trans (putSet_same _ _ _)
  · exact .refl g

theorem Group.joinStack_same (g : Group) (e : Nat) : g.SameButSets (g.joinStack e) := by
  rw [joinStack]
  split
  · exact ⟨rfl⟩
  · exact .refl g

theorem Group.joinDone_same (g : Group) (l : LaneSet) : g.SameButSets (g.joinDone l).1 := by
  rw [joinDone]
  dsimp only
  split
  · exact .refl g
  · split
    · exact ⟨rfl⟩
    · exact .refl g

theorem Group.joinEntries_same (g : Group) : g.SameButSets g.joinEntries := by
  rw [joinEntries]
  exact SameButSets.foldl (fun g e => (g.joinDone_same (g.set e)).trans (putSet_same _ _ _)) _ g

theorem Group.joinStacked_same (g : Group) : g.SameButSets g.joinStacked := by
  have h : ∀ (l : List LaneSet) (a : Group × List LaneSet),
      a.1.SameButSets (l.foldl (fun (a : Group × List LaneSet) l => let r := a.1.joinDone l; (r.1, a.2 ++ [r.2.stacked])) a).1 := by
    intro l
    induction l with
    | nil => exact fun a => .refl a.1
    | cons l ls ih =>
      intro a
      rw [List.foldl_cons]
      exact (a.1.joinDone_same l).trans (ih ((a.1.joinDone l).1, a.2 ++ [(a.1.joinDone l).2.stacked]))
  rw [joinStacked]
  exact (h g.stack (g, [])).trans ⟨rfl⟩

theorem Group.settleOnce_same (g : Group) : g.SameButSets g.settleOnce := by
  have h : ∀ (g : Group) (p : Nat × Nat), g.SameButSets (g.joinEntry p.1 p.2) := fun g p => g.joinEntry_same p.1 p.2
  rw [settleOnce]
  refine SameButSets.trans ?_ (Group.joinStacked_same _)
  refine SameButSets.trans ?_ (Group.joinEntries_same _)
  refine SameButSets.trans ?_ (SameButSets.foldl (fun g e => g.joinStack_same e) _ _)
  exact SameButSets.trans g.mergeReady_same (SameButSets.foldl h _ _)

/-- The merges change lane sets, the loop stack and the loop counters only (R145, R146, R157). -/
theorem Group.settle_same (g : Group) : g.SameButSets g.settle := by
  rw [settle]
  exact (((g.settleOnce_same).trans (settleOnce_same _)).trans (settleOnce_same _)).trans (settleOnce_same _)

/-! ## The advance -/

/-- Dropping captured code changes the loop buffers only (R159). -/
theorem State.dropCaptures_eq (s : State) (g : Nat) (p : List LoopRec) :
    ∃ lb, s.dropCaptures g p = { s with mem := { s.mem with lbuf := lb } } := by
  rw [dropCaptures]
  split
  · exact ⟨s.mem.lbuf, rfl⟩
  · exact ⟨_, rfl⟩

theorem State.settleAt_eq (s : State) (g : Nat) (x : Group) :
    ∃ lb, s.settleAt g x = { s with groups := s.groups.set g x.settle, mem := { s.mem with lbuf := lb } } := by
  obtain ⟨lb, h⟩ := (s.setGroup g x.settle).dropCaptures_eq g
    (x.loops.filter fun r => !((s.setGroup g x.settle).group g).loops.contains r)
  exact ⟨lb, h⟩

/-- `y` is `x` after one issue: its lane sets and loops moved, one more instruction counted, the window aged. -/
structure Group.Advanced (x y : Group) : Prop where
  eq : y = { x with
    sets := y.sets, stack := y.stack, loops := y.loops, regs := { x.regs with lc := y.regs.lc }, issueNo := x.issueNo + 1,
    win := x.win.filter fun e => x.issueNo + 1 ≤ e.n + 7, ra := x.ra.map fun r => { r with issued := r.issued + 1 } }

theorem Group.advanced_settle (x : Group) (ss : Vector LaneSet 4) (st : List LaneSet) (ls : List LoopRec) (lc : Vector Word 3) :
    x.Advanced ({ x with sets := ss, stack := st, loops := ls, regs := { x.regs with lc := lc } } : Group).counted.settle := by
  have h := settle_same ({ x with sets := ss, stack := st, loops := ls, regs := { x.regs with lc := lc } } : Group).counted
  generalize ({ x with sets := ss, stack := st, loops := ls, regs := { x.regs with lc := lc } } : Group).counted.settle = y at h ⊢
  exact ⟨h.eq⟩

/-- The issuing split's advance changes its group, as said, and the loop buffers. -/
theorem State.advance_eq (s : State) (y : Bool) :
    ∃ x lb, s.cg.Advanced x ∧ s.advance y = { s with groups := s.groups.set s.cur.g x, mem := { s.mem with lbuf := lb } } := by
  rw [advance]
  dsimp only
  obtain ⟨lb, h⟩ := s.settleAt_eq s.cur.g (({ s.cg with
    loops := (endCheck s.cur.pc s.cg.loops s.cg.regs.lc s.afterPc).2.1
    regs := { s.cg.regs with lc := (endCheck s.cur.pc s.cg.loops s.cg.regs.lc s.afterPc).2.2.1 } } : Group).putSet s.cur.e
      ((s.cg.set s.cur.e).moved s.cg y (endCheck s.cur.pc s.cg.loops s.cg.regs.lc s.afterPc).1)).counted
  rw [h]
  obtain ⟨lb', h'⟩ := State.dropCaptures_eq _ s.cur.g (endCheck s.cur.pc s.cg.loops s.cg.regs.lc s.afterPc).2.2.2
  exact ⟨_, lb', Group.advanced_settle _ _ _ _ _, h'⟩

theorem State.modCg_cg {s : State} (h : Claims.Issues s) (f : Group → Group) : (s.modCg f).cg = f s.cg := by
  have h : s.cur.g < s.groups.length := h
  simp [modCg, modGroup, cg, group, setGroup, List.getD, h]

/-- Only what an effect makes of the issuing group counts. -/
theorem State.issue_congr {s : State} {y : Bool} {f f' : Group → Group} (h : f s.cg = f' s.cg) : s.issue y f = s.issue y f' := by
  show (s.setGroup s.cur.g (f s.cg)).advance y = (s.setGroup s.cur.g (f' s.cg)).advance y
  rw [h]

/-- An effect on the issuing group, then the advance. -/
theorem State.issue_eq {s : State} (h : Claims.Issues s) (y : Bool) (f : Group → Group) :
    ∃ x lb, (f s.cg).Advanced x ∧ s.issue y f = { s with groups := s.groups.set s.cur.g x, mem := { s.mem with lbuf := lb } } := by
  obtain ⟨x, lb, hx, hs⟩ := (s.modCg f).advance_eq y
  rw [modCg_cg h] at hx
  refine ⟨x, lb, hx, ?_⟩
  rw [issue, hs]
  simp [modCg, modGroup, setGroup]

/-! ## What is left alone -/

/-- A state that differs in the issuing group and the loop buffers only. -/
theorem State.onlyGroup_of_eq {s : State} {x : Group} {lb : List (Nat × Nat × Nat × DWord)} :
    Claims.OnlyGroup s { s with groups := s.groups.set s.cur.g x, mem := { s.mem with lbuf := lb } } := by
  refine ⟨fun h hne => ?_, rfl, fun _ _ => rfl, fun _ => rfl, fun _ _ => rfl⟩
  simp [group, List.getD, List.getElem?_set_ne (Ne.symm hne)]

theorem State.cg_of_eq {s : State} (h : Claims.Issues s) {x : Group} {m : MemSys} :
    State.cg { s with groups := s.groups.set s.cur.g x, mem := m } = x := by
  have h : s.cur.g < s.groups.length := h
  simp [cg, group, List.getD, h]

end Sys2Proof.Machine
end

