-- ==== Sys2Proof/Laws/Elements.lean ====
section
/-! SUPPORT. Laws of lanes as elements (R80): what is packed is what is read. -/

set_option Elab.async false

namespace Sys2Proof.Machine
open Sys2Proof

theorem elemPack_lt (nf : BitVec 3 → Word) (t : Ty) (xs : List Nat) : elemPack nf t xs < 2 ^ (contW nf t * xs.length) := by
  induction xs with
  | nil => simp [elemPack]
  | cons c cs ih =>
    rw [elemPack, List.length_cons, Nat.mul_succ, Nat.pow_add]
    have h : c % 2 ^ contW nf t < 2 ^ contW nf t := Nat.mod_lt _ (by positivity)
    generalize 2 ^ contW nf t = A at *
    generalize 2 ^ (contW nf t * cs.length) = B at *
    calc c % A + A * elemPack nf t cs < A + A * elemPack nf t cs := by omega
      _ = A * (elemPack nf t cs + 1) := by ring
      _ ≤ A * B := Nat.mul_le_mul_left _ ih
      _ = B * A := Nat.mul_comm ..

theorem elemPack_div (nf : BitVec 3 → Word) (t : Ty) (xs : List Nat) (j : Nat) (h : j < xs.length) :
    elemPack nf t xs / 2 ^ (j * contW nf t) % 2 ^ contW nf t = xs[j] % 2 ^ contW nf t := by
  induction xs generalizing j with
  | nil => simp at h
  | cons c cs ih =>
    rw [elemPack]
    have hp : 0 < 2 ^ contW nf t := by positivity
    cases j with
    | zero => simp
    | succ j =>
      rw [Nat.succ_mul, Nat.add_comm (j * contW nf t), Nat.pow_add, ← Nat.div_div_eq_div_mul, Nat.add_mul_div_left _ _ hp,
        Nat.div_eq_of_lt (Nat.mod_lt _ hp), Nat.zero_add]
      exact ih j (by simpa using h)

/-- Element `j` of packed elements is the `j`-th of them. -/
theorem elemGet_elemPack {nf : BitVec 3 → Word} {t : Ty} (hf : (codingOf nf t).w ≤ contW nf t) {xs : List Nat} {j : Nat}
    (h : j < xs.length) : elemGet nf t (elemPack nf t xs) j = xs[j] % 2 ^ (codingOf nf t).w := by
  have hd : 2 ^ (codingOf nf t).w ∣ 2 ^ contW nf t := Nat.pow_dvd_pow 2 hf
  rw [elemGet, ← Nat.mod_mod_of_dvd _ hd, elemPack_div nf t xs j h, Nat.mod_mod_of_dvd _ hd]

/-- The elements of a type fill its registers and no more (R80). -/
theorem elemsOf_fit (nf : BitVec 3 → Word) (t : Ty) : contW nf t * elemsOf nf t ≤ 32 * t.regs := by
  cases t with
  | nf k => simp only [contW, elemsOf, Ty.regs]; split <;> decide
  | _ => simp [contW, elemsOf, Ty.regs, codingOf, Coding.w, FFmt.w, FFmt.f64, FFmt.f32, FFmt.f16, FFmt.bf16]

/-- An element of lane values combined place by place. -/
theorem elemGet_zipElems {nf : BitVec 3 → Word} {t : Ty} (hf : (codingOf nf t).w ≤ contW nf t) (vals : List Nat) (h : List Nat → Nat)
    {j : Nat} (hj : j < elemsOf nf t) :
    elemGet nf t (zipElems nf t vals h % 2 ^ (32 * t.regs)) j =
      h (vals.map fun v => elemGet nf t v j) % 2 ^ (codingOf nf t).w := by
  have hlt : zipElems nf t vals h < 2 ^ (32 * t.regs) :=
    (elemPack_lt nf t _).trans_le (Nat.pow_le_pow_right (by decide) (by simpa using elemsOf_fit nf t))
  rw [Nat.mod_eq_of_lt hlt, zipElems, elemGet_elemPack hf (by simpa using hj)]
  simp

end Sys2Proof.Machine
end

