-- ==== Sys2Proof/Laws/Results.lean ====
section
/-! SUPPORT. Laws of interlocked results: what a later instruction reads of the registers that an instruction wrote and of those it did
not (R121, R123, R161). -/

set_option Elab.async false

namespace Sys2Proof.Machine
open Sys2Proof

theorem Group.put_append (g : Group) (t : Bool) (a b : List RegW) : g.put t (a ++ b) = (g.put t a).put t b := by
  induction a generalizing g with
  | nil => rfl
  | cons w ws ih => exact ih _

/-- The banks after one result: written, or as they were. -/
theorem Group.putOne_regs_cases (g : Group) (t : Bool) (w : RegW) :
    (g.putOne t w).regs = g.regs ∨ (g.putOne t w).regs = g.regs.write g.issueNo w := by
  rw [putOne]
  dsimp only
  split
  · exact .inl rfl
  · split
    · exact .inl rfl
    · exact .inr rfl

theorem Group.put_v_ne (g : Group) (t : Bool) {ws : List RegW} {r : Nat} (d : VReg) (h : ∀ w ∈ ws, w.same (.v r d 0 0) = false) :
    vecAt (g.put t ws).regs.v r d = vecAt g.regs.v r d := by
  induction ws generalizing g with
  | nil => rfl
  | cons w ws ih =>
    refine (ih (g.putOne t w) fun x hx => h x (List.mem_cons_of_mem _ hx)).trans ?_
    rcases g.putOne_regs_cases t w with e | e <;> rw [e]
    exact Regs.write_v_ne _ _ _ (h w List.mem_cons_self)

theorem Group.put_s_ne (g : Group) (t : Bool) {ws : List RegW} {r : Nat} (d : Word) (h : ∀ w ∈ ws, w.same (.s r 0 0) = false) :
    vecAt (g.put t ws).regs.s r d = vecAt g.regs.s r d := by
  induction ws generalizing g with
  | nil => rfl
  | cons w ws ih =>
    refine (ih (g.putOne t w) fun x hx => h x (List.mem_cons_of_mem _ hx)).trans ?_
    rcases g.putOne_regs_cases t w with e | e <;> rw [e]
    exact Regs.write_s_ne _ _ _ (h w List.mem_cons_self)

theorem Group.put_p_ne (g : Group) (t : Bool) {ws : List RegW} {r : Nat} (d : QWord) (h : ∀ w ∈ ws, w.same (.p r 0) = false) :
    vecAt (g.put t ws).regs.p r d = vecAt g.regs.p r d := by
  induction ws generalizing g with
  | nil => rfl
  | cons w ws ih =>
    refine (ih (g.putOne t w) fun x hx => h x (List.mem_cons_of_mem _ hx)).trans ?_
    rcases g.putOne_regs_cases t w with e | e <;> rw [e]
    exact Regs.write_p_ne _ _ _ (h w List.mem_cons_self)

theorem Group.put_m_ne (g : Group) (t : Bool) {ws : List RegW} {r : Nat} (d : Word) (h : ∀ w ∈ ws, w.same (.m r 0 0) = false) :
    vecAt (g.put t ws).regs.m r d = vecAt g.regs.m r d := by
  induction ws generalizing g with
  | nil => rfl
  | cons w ws ih =>
    refine (ih (g.putOne t w) fun x hx => h x (List.mem_cons_of_mem _ hx)).trans ?_
    rcases g.putOne_regs_cases t w with e | e <;> rw [e]
    exact Regs.write_m_ne _ _ _ (h w List.mem_cons_self)

theorem Group.put_special (g : Group) (t : Bool) (ws : List RegW) :
    (g.put t ws).regs.lc = g.regs.lc ∧ (g.put t ws).regs.f = g.regs.f ∧ (g.put t ws).regs.t = g.regs.t ∧
      (g.put t ws).regs.fpflags = g.regs.fpflags ∧ (g.put t ws).regs.status = g.regs.status := by
  induction ws generalizing g with
  | nil => simp [put]
  | cons w ws ih =>
    have h := ih (g.putOne t w)
    have h' : (g.putOne t w).regs.lc = g.regs.lc ∧ (g.putOne t w).regs.f = g.regs.f ∧ (g.putOne t w).regs.t = g.regs.t ∧
        (g.putOne t w).regs.fpflags = g.regs.fpflags ∧ (g.putOne t w).regs.status = g.regs.status := by
      rcases g.putOne_regs_cases t w with e | e <;> rw [e]
      · simp
      · exact Regs.write_special _ _ _
    refine ⟨h.1.trans h'.1, h.2.1.trans h'.2.1, h.2.2.1.trans h'.2.2.1, h.2.2.2.1.trans h'.2.2.2.1, h.2.2.2.2.trans h'.2.2.2.2⟩

/-- Entries that are not seen do not matter. -/
theorem seen_filter_of {win : List Win} {m : Nat} {key : RegW} {p : Win → Bool}
    (h : ∀ e : Win, e.w.same key = true → m ≤ e.n + 7 → p e = true) : seen (win.filter p) m key = seen win m key := by
  unfold seen
  rw [List.find?_filter]
  congr 2
  funext e
  by_cases hq : e.w.same key = true ∧ m ≤ e.n + 7
  · simp [h e hq.1 hq.2]
  · have : (e.w.same key && decide (m ≤ e.n + 7)) = false := by
      cases hs : e.w.same key with
      | false => rfl
      | true => simpa using fun hm => hq ⟨hs, hm⟩
    simp [this]

/-- What a later instruction sees in the window does not change by the advance. -/
theorem Group.Advanced.seen_eq {x y : Group} (h : x.Advanced y) {m : Nat} (hm : x.issueNo < m) (key : RegW) :
    seen y.win m key = seen x.win m key := by
  rw [h.eq]
  exact seen_filter_of fun e _ he => by simp only [decide_eq_true_eq]; omega

/-- A register that is written alone among the writes is read from the window, or from the banks. -/
theorem Group.put_seen_mem (g : Group) (t : Bool) {ws : List RegW} {w : RegW} (hw : w ∈ ws) (h0 : w.discarded = false)
    (hp : ws.Pairwise fun a b => a.same b = false) {m : Nat} (hm : m ≤ g.issueNo + 7) :
    ∃ g' : Group, g'.issueNo = g.issueNo ∧ (∀ k, seen g'.win k w = seen g.win k w) ∧
      seen (g.put t ws).win m w = (if t then some (g'.whole w) else none) ∧
      (∀ r d, w.same (.v r d 0 0) = true → vecAt g'.regs.v r d = vecAt g.regs.v r d ∧
        vecAt (g.put t ws).regs.v r d = vecAt (g'.putOne t w).regs.v r d) ∧
      (∀ r d, w.same (.s r 0 0) = true → vecAt g'.regs.s r d = vecAt g.regs.s r d ∧
        vecAt (g.put t ws).regs.s r d = vecAt (g'.putOne t w).regs.s r d) ∧
      (∀ r d, w.same (.p r 0) = true → vecAt g'.regs.p r d = vecAt g.regs.p r d ∧
        vecAt (g.put t ws).regs.p r d = vecAt (g'.putOne t w).regs.p r d) ∧
      (∀ r d, w.same (.m r 0 0) = true → vecAt g'.regs.m r d = vecAt g.regs.m r d ∧
        vecAt (g.put t ws).regs.m r d = vecAt (g'.putOne t w).regs.m r d) := by
  obtain ⟨a, b, rfl⟩ := List.append_of_mem hw
  rw [List.pairwise_append] at hp
  obtain ⟨-, hb, hab⟩ := hp
  have ha : ∀ x ∈ a, x.same w = false := fun x hx => hab x hx w List.mem_cons_self
  have hb' : ∀ x ∈ b, w.same x = false := fun x hx => (List.pairwise_cons.1 hb).1 x hx
  have tr : ∀ {x key : RegW}, x.same w = false → w.same key = true → x.same key = false := by
    intro x key h h'
    cases hk : x.same key with
    | false => rfl
    | true => exact absurd (RegW.same_trans hk (by rw [RegW.same_comm]; exact h')) (by simp [h])
  have hb2 : ∀ x ∈ b, x.same w = false := fun x hx => by rw [RegW.same_comm]; exact hb' x hx
  have e : g.put t (a ++ w :: b) = (((g.put t a).putOne t w).put t b) := g.put_append t a (w :: b)
  refine ⟨g.put t a, g.put_issueNo t a, fun k => g.put_seen t k ha, ?_, ?_, ?_, ?_, ?_⟩
  · rw [e, Group.put_seen _ t m hb2]
    cases t with
    | true => exact Group.putOne_seen_window _ m h0 (by rw [put_issueNo]; exact hm)
    | false => exact Group.putOne_seen_bank _ m h0
  · exact fun r d hk => ⟨g.put_v_ne t d fun x hx => tr (ha x hx) hk, by rw [e]; exact put_v_ne _ t d fun x hx => tr (hb2 x hx) hk⟩
  · exact fun r d hk => ⟨g.put_s_ne t d fun x hx => tr (ha x hx) hk, by rw [e]; exact put_s_ne _ t d fun x hx => tr (hb2 x hx) hk⟩
  · exact fun r d hk => ⟨g.put_p_ne t d fun x hx => tr (ha x hx) hk, by rw [e]; exact put_p_ne _ t d fun x hx => tr (hb2 x hx) hk⟩
  · exact fun r d hk => ⟨g.put_m_ne t d fun x hx => tr (ha x hx) hk, by rw [e]; exact put_m_ne _ t d fun x hx => tr (hb2 x hx) hk⟩

/-! ## Reading a result back -/

/-- A vector register after the instruction that wrote it. -/
theorem Group.Advanced.vreg_put {g x : Group} {t : Bool} {ws : List RegW} (hx : (g.put t ws).Advanced x) {r : Nat} {val : VReg}
    {lanes bm : Word} (hr : r < 128) (hw : RegW.v r val lanes bm ∈ ws) (hp : ws.Pairwise fun a b => a.same b = false) :
    x.vreg r = mergeV (Claims.under g t r) val lanes bm := by
  obtain ⟨g', hn, hs', hs, hv, -⟩ := g.put_seen_mem t hw rfl hp (m := g.issueNo + 1) (by omega)
  have hv := hv r (Vector.replicate 32 0) (by simp [RegW.same])
  have hi : x.issueNo = g.issueNo + 1 := by rw [hx.eq]; simp
  have hsx : seen x.win x.issueNo (.v r (Vector.replicate 32 0) 0 0) = seen (g.put t ws).win (g.issueNo + 1) (.v r val lanes bm) := by
    rw [hi, hx.seen_eq (by simp)]
    exact seen_same (by simp [RegW.same])
  have hb : vecAt x.regs.v r (Vector.replicate 32 0) = vecAt (g.put t ws).regs.v r (Vector.replicate 32 0) := by rw [hx.eq]
  rw [vreg, hsx, hs]
  cases t with
  | true =>
    have : g'.vreg r = g.vreg r := by
      rw [vreg, vreg, hn, hv.1]
      have e := hs' g.issueNo
      rw [seen_same (b := .v r (Vector.replicate 32 0) 0 0) (by simp [RegW.same]),
        seen_same (win := g.win) (b := .v r (Vector.replicate 32 0) 0 0) (by simp [RegW.same])] at e
      rw [e]
    simp [whole, Claims.under, this]
  | false =>
    simp only [Bool.false_eq_true, if_false, Claims.under]
    rw [hb, hv.2, putOne_regs _ rfl, ← hv.1]
    exact vecAt_put_same _ _ _ hr

/-- A uniform register after the instruction that wrote it. -/
theorem Group.Advanced.sreg_put {g x : Group} {t : Bool} {ws : List RegW} (hx : (g.put t ws).Advanced x) {r : Nat} {val bm : Word}
    (hr : r < 64) (hw : RegW.s r val bm ∈ ws) (hp : ws.Pairwise fun a b => a.same b = false) :
    x.sreg r = mergeBits bm (Claims.underS g t r) val := by
  obtain ⟨g', hn, hs', hs, -, hv, -⟩ := g.put_seen_mem t hw rfl hp (m := g.issueNo + 1) (by omega)
  have hv := hv r 0 (by simp [RegW.same])
  have hi : x.issueNo = g.issueNo + 1 := by rw [hx.eq]; simp
  have hsx : seen x.win x.issueNo (.s r 0 0) = seen (g.put t ws).win (g.issueNo + 1) (.s r val bm) := by
    rw [hi, hx.seen_eq (by simp)]
    exact seen_same (by simp [RegW.same])
  have hb : vecAt x.regs.s r 0 = vecAt (g.put t ws).regs.s r 0 := by rw [hx.eq]
  rw [sreg, hsx, hs]
  cases t with
  | true =>
    have : g'.sreg r = g.sreg r := by
      rw [sreg, sreg, hn, hv.1]
      have e := hs' g.issueNo
      rw [seen_same (b := .s r 0 0) (by simp [RegW.same]), seen_same (win := g.win) (b := .s r 0 0) (by simp [RegW.same])] at e
      rw [e]
    simp [whole, Claims.underS, this]
  | false =>
    simp only [Bool.false_eq_true, if_false, Claims.underS]
    rw [hb, hv.2, putOne_regs _ rfl, ← hv.1]
    exact vecAt_put_same _ _ _ hr

/-- A mask register after the instruction that wrote it; m0 is not written. -/
theorem Group.Advanced.mreg_put {g x : Group} {t : Bool} {ws : List RegW} (hx : (g.put t ws).Advanced x) {r : Nat} {val bm : Word}
    (hr : r < 8) (h0 : r ≠ 0) (hw : RegW.m r val bm ∈ ws) (hp : ws.Pairwise fun a b => a.same b = false) :
    x.mreg r = mergeBits bm (Claims.underM g t r) val := by
  have hd : (RegW.m r val bm).discarded = false := by simpa [RegW.discarded] using h0
  obtain ⟨g', hn, hs', hs, -, -, -, hv⟩ := g.put_seen_mem t hw hd hp (m := g.issueNo + 1) (by omega)
  have hv := hv r 0 (by simp [RegW.same])
  have hi : x.issueNo = g.issueNo + 1 := by rw [hx.eq]; simp
  have hsx : seen x.win x.issueNo (.m r 0 0) = seen (g.put t ws).win (g.issueNo + 1) (.m r val bm) := by
    rw [hi, hx.seen_eq (by simp)]
    exact seen_same (by simp [RegW.same])
  have hb : vecAt x.regs.m r 0 = vecAt (g.put t ws).regs.m r 0 := by rw [hx.eq]
  have h0' : (r == 0) = false := by simpa using h0
  rw [mreg, h0', hsx, hs]
  cases t with
  | true =>
    have : g'.mreg r = g.mreg r := by
      rw [mreg, mreg, hn, hv.1]
      have e := hs' g.issueNo
      rw [seen_same (b := .m r 0 0) (by simp [RegW.same]), seen_same (win := g.win) (b := .m r 0 0) (by simp [RegW.same])] at e
      rw [e]
    simp [whole, Claims.underM, this]
  | false =>
    simp only [Bool.false_eq_true, if_false, Claims.underM]
    rw [hb, hv.2, putOne_regs _ hd, ← hv.1]
    simp only [Regs.write, h0', Bool.false_eq_true, if_false]
    exact vecAt_put_same _ _ _ hr

/-- A pointer register after the instruction that wrote it. -/
theorem Group.Advanced.preg_put {g x : Group} {t : Bool} {ws : List RegW} (hx : (g.put t ws).Advanced x) {r : Nat} {val : QWord}
    (hr : r < 16) (hw : RegW.p r val ∈ ws) (hp : ws.Pairwise fun a b => a.same b = false) : x.preg r = val := by
  obtain ⟨g', hn, hs', hs, -, -, hv, -⟩ := g.put_seen_mem t hw rfl hp (m := g.issueNo + 1) (by omega)
  have hv := hv r 0 (by simp [RegW.same])
  have hi : x.issueNo = g.issueNo + 1 := by rw [hx.eq]; simp
  have hsx : seen x.win x.issueNo (.p r 0) = seen (g.put t ws).win (g.issueNo + 1) (.p r val) := by
    rw [hi, hx.seen_eq (by simp)]
    exact seen_same (by simp [RegW.same])
  have hb : vecAt x.regs.p r 0 = vecAt (g.put t ws).regs.p r 0 := by rw [hx.eq]
  rw [preg, hsx, hs]
  cases t with
  | true => simp [whole]
  | false =>
    simp only [Bool.false_eq_true, if_false]
    rw [hb, hv.2, putOne_regs _ rfl]
    exact vecAt_put_same _ _ _ hr

/-! ## The writes of one result are of different registers -/

theorem vWrites_pairwise (r n : Nat) (val : Nat → Nat) (lanes : Word) (bm : Nat) :
    (vWrites r n val lanes bm).Pairwise fun a b => a.same b = false := by
  rw [vWrites, List.pairwise_map]
  exact List.pairwise_lt_range.imp fun h => by simp [RegW.same]; omega

theorem sWrites_pairwise (r n val bm : Nat) : (sWrites r n val bm).Pairwise fun a b => a.same b = false := by
  rw [sWrites, List.pairwise_map]
  exact List.pairwise_lt_range.imp fun h => by simp [RegW.same]; omega

theorem mem_vWrites {r n k : Nat} (val : Nat → Nat) (lanes : Word) (bm : Nat) (h : k < n) :
    RegW.v (r + k) (vregOf fun i => val i / 2 ^ (32 * k)) lanes (BitVec.ofNat 32 (bm / 2 ^ (32 * k))) ∈ vWrites r n val lanes bm :=
  List.mem_map.2 ⟨k, List.mem_range.2 h, rfl⟩

theorem mem_sWrites {r n k : Nat} (val bm : Nat) (h : k < n) :
    RegW.s (r + k) (BitVec.ofNat 32 (val / 2 ^ (32 * k))) (BitVec.ofNat 32 (bm / 2 ^ (32 * k))) ∈ sWrites r n val bm :=
  List.mem_map.2 ⟨k, List.mem_range.2 h, rfl⟩

theorem laneOf_vregOf (f : Nat → Nat) {i : Nat} (h : i < 32) : laneOf (vregOf f) i = BitVec.ofNat 32 (f i) :=
  vecAt_ofFn _ _ h

theorem ofNat_fullBits {n k : Nat} (h : k < n) : BitVec.ofNat 32 (fullBits n / 2 ^ (32 * k)) = ones32 := by
  apply BitVec.eq_of_toNat_eq
  rw [BitVec.toNat_ofNat, fullBits]
  have e : 2 ^ (32 * n) = 2 ^ (32 * (n - k - 1)) * 2 ^ 32 * 2 ^ (32 * k) := by
    rw [← Nat.pow_add, ← Nat.pow_add]; congr 1; omega
  have hp : 0 < 2 ^ (32 * (n - k - 1)) := by positivity
  have : (2 ^ (32 * n) - 1) / 2 ^ (32 * k) = 2 ^ (32 * (n - k - 1)) * 2 ^ 32 - 1 := by
    rw [e]
    generalize 2 ^ (32 * (n - k - 1)) * 2 ^ 32 = A
    have hk : 0 < 2 ^ (32 * k) := by positivity
    generalize 2 ^ (32 * k) = B at hk
    rcases A with _ | A
    · simp
    · rw [Nat.div_eq_iff hk, Nat.succ_mul]
      have : (A + 1 - 1) * B = A * B := by simp
      rw [this]
      generalize A * B = C
      omega
  rw [this]
  generalize 2 ^ (32 * (n - k - 1)) = A at hp
  show (A * 4294967296 - 1) % 4294967296 = 4294967295
  omega

/-- The words of a number are the number, as far as they go. -/
theorem wordsNat_ofNat (n x : Nat) : wordsNat (fun k => BitVec.ofNat 32 (x / 2 ^ (32 * k))) n = x % 2 ^ (32 * n) := by
  induction n generalizing x with
  | zero => simp [wordsNat, Nat.mod_one]
  | succ n ih =>
    have e : (fun k => BitVec.ofNat 32 (x / 2 ^ (32 * (k + 1)))) = fun k => BitVec.ofNat 32 (x / 2 ^ 32 / 2 ^ (32 * k)) := by
      funext k
      rw [Nat.div_div_eq_div_mul, ← Nat.pow_add]
      congr 3
      omega
    have p : 2 ^ (32 * (n + 1)) = 2 ^ 32 * 2 ^ (32 * n) := by rw [← Nat.pow_add]; congr 1; omega
    rw [wordsNat, e, ih, BitVec.toNat_ofNat, p, Nat.mod_mul]
    simp

theorem wordsNat_congr {f g : Nat → Word} {n : Nat} (h : ∀ k, k < n → f k = g k) : wordsNat f n = wordsNat g n := by
  induction n generalizing f g with
  | zero => rfl
  | succ n ih =>
    rw [wordsNat, wordsNat, h 0 (by omega), ih fun k hk => h (k + 1) (by omega)]

/-- A result written whole to a vector group (R123). -/
theorem Group.Advanced.vecResult {g x : Group} {t : Bool} {d n : Nat} {val : Nat → Nat} {act : Word}
    (hx : (g.put t (vWrites d n val act (fullBits n))).Advanced x) (hd : d + n ≤ 128) : Claims.VecResult g x t d n act val := by
  have hr : ∀ k, k < n → x.vreg (d + k) = mergeV (Claims.under g t (d + k)) (vregOf fun i => val i / 2 ^ (32 * k)) act ones32 := by
    intro k hk
    rw [hx.vreg_put (by omega) (mem_vWrites val act _ hk) (vWrites_pairwise ..), ofNat_fullBits hk]
  refine ⟨fun L hL hb => ?_, fun k L hk hb => ?_⟩
  · rw [vlane, ← wordsNat_ofNat]
    refine wordsNat_congr fun k hk => ?_
    rw [hr k hk, laneOf_mergeV_in hL hb, mergeBits_full, laneOf_vregOf _ hL]
  · rw [hr k hk, laneOf_mergeV_out hb]

/-- A result written to some bits of a vector group (R81, R134). -/
theorem Group.Advanced.vecPart {g x : Group} {t : Bool} {d n : Nat} {val : Nat → Nat} {act : Word} {bm : Nat}
    (hx : (g.put t (vWrites d n val act bm)).Advanced x) (hd : d + n ≤ 128) : Claims.VecPart g x t d n act bm val := by
  intro k L hk hL
  rw [hx.vreg_put (by omega) (mem_vWrites val act _ hk) (vWrites_pairwise ..)]
  split
  · next hb => rw [laneOf_mergeV_in hL hb, laneOf_vregOf _ hL]
  · next hb => rw [laneOf_mergeV_out (by simpa using hb)]

/-- A result written whole to uniform registers. -/
theorem Group.Advanced.uniResult {g x : Group} {t : Bool} {d n val : Nat}
    (hx : (g.put t (sWrites d n val (fullBits n))).Advanced x) (hd : d + n ≤ 64) : Claims.UniResult x d n val := by
  rw [Claims.UniResult, sval, ← wordsNat_ofNat]
  refine wordsNat_congr fun k hk => ?_
  rw [hx.sreg_put (by omega) (mem_sWrites val _ hk) (sWrites_pairwise ..), ofNat_fullBits hk, mergeBits_full]

/-! ## The frame -/

/-- What a write writes, as a set. -/
def RegW.In (w : RegW) (W : Claims.Writes) : Prop :=
  match w with
  | .v r .. => W.v r | .s r .. => W.s r | .p r _ => W.p r | .m r .. => W.m r

theorem vWrites_in {d n : Nat} {val : Nat → Nat} {act : Word} {bm : Nat} {w : RegW} (hw : w ∈ vWrites d n val act bm) :
    w.In { v := Claims.range d n } := by
  obtain ⟨k, hk, rfl⟩ := List.mem_map.1 hw
  have := List.mem_range.1 hk
  simp only [RegW.In, Claims.range]
  omega

theorem sWrites_in {d n val bm : Nat} {w : RegW} (hw : w ∈ sWrites d n val bm) : w.In { s := Claims.range d n } := by
  obtain ⟨k, hk, rfl⟩ := List.mem_map.1 hw
  have := List.mem_range.1 hk
  simp only [RegW.In, Claims.range]
  omega

/-- Registers that no write names keep their value for every later reader. -/
theorem Group.Advanced.keepsRegs {g x : Group} {t : Bool} {ws : List RegW} (hx : (g.put t ws).Advanced x) {W : Claims.Writes}
    (hW : ∀ w ∈ ws, w.In W) : Claims.KeepsRegs g x W := by
  have ne : ∀ {key : RegW}, ¬ key.In W → ∀ w ∈ ws, w.same key = false := by
    intro key hk w hw
    have := hW w hw
    cases hs : w.same key with
    | false => rfl
    | true =>
      refine absurd ?_ hk
      cases w <;> cases key <;> simp_all [RegW.same, RegW.In]
  have sn : ∀ {key : RegW} {m : Nat}, ¬ key.In W → g.issueNo < m → seen x.win m key = seen g.win m key := fun hk hm => by
    rw [hx.seen_eq (by simpa using hm), Group.put_seen _ _ _ (ne hk)]
  refine ⟨fun r m hr hm => ?_, fun r m hr hm => ?_, fun r m hr hm => ?_, fun r m hr hm => ?_⟩
  · refine Prod.ext (sn (key := .v r (Vector.replicate 32 0) 0 0) hr hm) ?_
    show vecAt x.regs.v r _ = _
    rw [hx.eq]
    exact g.put_v_ne t _ (ne (key := .v r _ 0 0) hr)
  · refine Prod.ext (sn (key := .s r 0 0) hr hm) ?_
    show vecAt x.regs.s r _ = _
    rw [hx.eq]
    exact g.put_s_ne t _ (ne (key := .s r 0 0) hr)
  · refine Prod.ext (sn (key := .p r 0) hr hm) ?_
    show vecAt x.regs.p r _ = _
    rw [hx.eq]
    exact g.put_p_ne t _ (ne (key := .p r 0) hr)
  · refine Prod.ext (sn (key := .m r 0 0) hr hm) ?_
    show vecAt x.regs.m r _ = _
    rw [hx.eq]
    exact g.put_m_ne t _ (ne (key := .m r 0 0) hr)

theorem Group.Advanced.keepsSpecial {g x : Group} {t : Bool} {ws : List RegW} (hx : (g.put t ws).Advanced x) :
    Claims.KeepsSpecial g x := by
  obtain ⟨-, hf, ht, hp, hs⟩ := g.put_special t ws
  refine ⟨?_, ?_, ?_, ?_⟩ <;> rw [hx.eq] <;> assumption

theorem Group.Advanced.keepsGroup {g x : Group} {t : Bool} {ws : List RegW} (hx : (g.put t ws).Advanced x) :
    Claims.KeepsGroup g x := by
  rw [Claims.KeepsGroup, hx.eq, g.put_eq t ws]

/-- All that an instruction does whose results are interlocked: the results, and the frame. -/
theorem State.issue_put {s : State} (h : Claims.Issues s) (y t : Bool) (ws : List RegW) {W : Claims.Writes} (hW : ∀ w ∈ ws, w.In W) :
    (s.cg.put t ws).Advanced (s.issue y fun g => g.put t ws).cg ∧ Claims.RegFrame s (s.issue y fun g => g.put t ws) W := by
  obtain ⟨x, lb, hx, e⟩ := State.issue_eq h y fun g => g.put t ws
  rw [e, State.cg_of_eq h]
  exact ⟨hx, State.onlyGroup_of_eq, by rw [State.cg_of_eq h]; exact hx.keepsRegs hW, by rw [State.cg_of_eq h]; exact hx.keepsSpecial,
    by rw [State.cg_of_eq h]; exact hx.keepsGroup⟩

end Sys2Proof.Machine
end

