-- ==== Sys2Proof/Laws/Integer.lean ====
section
/-! SUPPORT. Laws of the shapes of class 0 and class 3 words: what a result written whole, in part, to a mask or to uniform registers is
afterwards, with its frame (R123, R125). -/

set_option Elab.async false

namespace Sys2Proof.Machine
open Sys2Proof Sys2Proof.Claims

/-- A vector result written whole. -/
theorem State.issue_vec {s : State} (h : Issues s) (y t : Bool) (d n : Nat) (val : Nat → Nat) (act : Word) (hd : d + n ≤ 128) :
    let u := s.issue y fun g => g.put t (vWrites d n val act (fullBits n))
    VecResult s.cg u.cg t d n act val ∧ RegFrame s u { v := range d n } := by
  have e := State.issue_put h y t (vWrites d n val act (fullBits n)) (fun w hw => vWrites_in hw)
  exact ⟨e.1.vecResult hd, e.2⟩

/-- A vector result of which only some bits are written. -/
theorem State.issue_vecPart {s : State} (h : Issues s) (y t : Bool) (d n : Nat) (val : Nat → Nat) (act : Word) (bm : Nat) (hd : d + n ≤ 128) :
    let u := s.issue y fun g => g.put t (vWrites d n val act bm)
    VecPart s.cg u.cg t d n act bm val ∧ RegFrame s u { v := range d n } := by
  have e := State.issue_put h y t (vWrites d n val act bm) (fun w hw => vWrites_in hw)
  exact ⟨e.1.vecPart hd, e.2⟩

/-- A uniform result written whole. -/
theorem State.issue_uni {s : State} (h : Issues s) (y t : Bool) (d n val : Nat) (hd : d + n ≤ 64) :
    let u := s.issue y fun g => g.put t (sWrites d n val (fullBits n))
    UniResult u.cg d n val ∧ RegFrame s u { s := range d n } := by
  have e := State.issue_put h y t (sWrites d n val (fullBits n)) (fun w hw => sWrites_in hw)
  exact ⟨e.1.uniResult hd, e.2⟩

/-- One uniform register written. -/
theorem State.issue_sreg {s : State} (h : Issues s) (y t : Bool) (d : Nat) (val : Word) (hd : d < 64) :
    let u := s.issue y fun g => g.put t [.s d val ones32]
    u.cg.sreg d = val ∧ RegFrame s u { s := range d 1 } := by
  have e := State.issue_put h y t [.s d val ones32] (W := { s := range d 1 }) (by simp [RegW.In, range])
  refine ⟨?_, e.2⟩
  rw [e.1.sreg_put hd (List.mem_singleton.2 rfl) (List.pairwise_singleton _ _), mergeBits_full]

/-- The bits of a word, merged. -/
theorem bit_mergeBits (bm old new : Word) (L : Nat) (hL : L < 32) :
    bit (mergeBits bm old new) L = if bit bm L then bit new L else bit old L := by
  simp only [bit, mergeBits, BitVec.getLsbD_or, BitVec.getLsbD_and, BitVec.getLsbD_not]
  cases h : bm.getLsbD L <;> simp [hL]

theorem bit_maskOf (p : Nat → Bool) {L : Nat} (hL : L < 32) : bit (maskOf p) L = p L := by
  have key : ∀ (n a : Nat) (q : Nat → Bool),
      ((List.range' a n).foldr (fun i acc => (if q i then 2 ^ i else 0) + acc) 0).testBit L =
        (decide (a ≤ L ∧ L < a + n) && q L) ∧
      2 ^ a ∣ (List.range' a n).foldr (fun i acc => (if q i then 2 ^ i else 0) + acc) 0 := by
    intro n
    induction n with
    | zero => intro a q; simp
    | succ n ih =>
      intro a q
      have hi := ih (a + 1) q
      rw [List.range'_succ, List.foldr_cons]
      generalize (List.range' (a + 1) n).foldr (fun i acc => (if q i then 2 ^ i else 0) + acc) 0 = R at hi ⊢
      obtain ⟨h1, k, rfl⟩ := hi
      refine ⟨?_, ?_⟩
      · have e : (if q a then 2 ^ a else 0) + 2 ^ (a + 1) * k = 2 ^ a * ((if q a then 1 else 0) + 2 * k) := by
          split <;> rw [Nat.pow_succ] <;> ring
        have e1 : 2 ^ (a + 1) * k = 2 ^ a * (2 * k) := by rw [Nat.pow_succ]; ring
        rw [e1, Nat.testBit_two_pow_mul] at h1
        rw [e, Nat.testBit_two_pow_mul]
        by_cases hlt : a ≤ L
        · obtain ⟨j, rfl⟩ := Nat.exists_eq_add_of_le hlt
          simp only [Nat.add_sub_cancel_left, hlt, decide_true, Bool.true_and] at h1 ⊢
          cases j with
          | zero =>
            cases hq : q (a + 0) with
            | true => simp [Nat.testBit_zero, Nat.add_mul_mod_self_left]
            | false => simp [Nat.testBit_zero]
          | succ j =>
            have t2 : ((if q a then 1 else 0) + 2 * k).testBit (j + 1) = (2 * k).testBit (j + 1) := by
              rw [Nat.testBit_succ, Nat.testBit_succ]
              congr 1
              split <;> omega
            rw [t2, h1]
            congr 1
            apply Bool.decide_congr
            rw [true_and]
            omega
        · simp [hlt]
      · split
        · exact ⟨1 + 2 * k, by rw [Nat.pow_succ]; ring⟩
        · exact ⟨2 * k, by rw [Nat.pow_succ]; ring⟩
  have h := (key 32 0 p).1
  rw [← List.range_eq_range'] at h
  rw [maskOf, bit, BitVec.getLsbD_ofNat, h]
  simp [hL]

/-- A mask register written in the active lanes. -/
theorem State.issue_mask {s : State} (h : Issues s) (y t : Bool) (d : Nat) (holds : Nat → Bool) (act : Word) (hd : d < 8) :
    let u := s.issue y fun g => g.put t [.m d (maskOf holds) act]
    MaskResult s.cg u.cg t d act holds ∧ RegFrame s u { m := mask d } := by
  dsimp only
  by_cases h0 : d = 0
  · subst h0
    have e0 : (s.issue y fun g => g.put t [.m 0 (maskOf holds) act]) = s.issue y fun g => g.put t [] := rfl
    rw [e0]
    have e := State.issue_put h y t [] (W := { m := mask 0 }) (by simp)
    exact ⟨fun h => absurd rfl h, e.2⟩
  · have e := State.issue_put h y t [.m d (maskOf holds) act] (W := { m := mask d }) (by simp [RegW.In, mask, h0])
    refine ⟨fun _ L hL => ?_, e.2⟩
    rw [e.1.mreg_put hd h0 (List.mem_singleton.2 rfl) (List.pairwise_singleton _ _), bit_mergeBits _ _ _ _ hL, bit_maskOf _ hL]

/-- A mask register written whole. -/
theorem State.issue_mreg {s : State} (h : Issues s) (y t : Bool) (d : Nat) (val : Word) (hd : d < 8) :
    let u := s.issue y fun g => g.put t [.m d val ones32]
    (d ≠ 0 → u.cg.mreg d = val) ∧ RegFrame s u { m := mask d } := by
  dsimp only
  by_cases h0 : d = 0
  · subst h0
    have e0 : (s.issue y fun g => g.put t [.m 0 val ones32]) = s.issue y fun g => g.put t [] := rfl
    rw [e0]
    have e := State.issue_put h y t [] (W := { m := mask 0 }) (by simp)
    exact ⟨fun h => absurd rfl h, e.2⟩
  · have e := State.issue_put h y t [.m d val ones32] (W := { m := mask d }) (by simp [RegW.In, mask, h0])
    refine ⟨fun _ => ?_, e.2⟩
    rw [e.1.mreg_put hd h0 (List.mem_singleton.2 rfl) (List.pairwise_singleton _ _), mergeBits_full]

/-- An element-wise VR form of class 0. -/
theorem elemResult_vr {s : State} {f : VF} {h : List Nat → Nat} {src : Group → Nat → List Nat} (hs : IssuesSplit s)
    (hf : FitsPlace s.cg f.ty) (hd : DstFits false f.dst.toNat f.ty.regs) (i : Instr) :
    ElemResult s (aluState false f f.ty.regs (fun g L => zipElems g.nf f.ty (src g L) h) s) f ⟨false, i, src, h⟩ := by
  rw [aluState, State.issue_congr (f' := fun g => g.put f.t (vWrites f.dst.toNat f.ty.regs
    (fun L => zipElems s.cg.nf f.ty (src s.cg L) h) (s.act f.msk) (fullBits f.ty.regs))) rfl]
  have e := State.issue_vec hs.1 f.y f.t f.dst.toNat f.ty.regs (fun L => zipElems s.cg.nf f.ty (src s.cg L) h) (s.act f.msk) hd
  refine ⟨fun L j hL hj hb => ?_, fun k L hk hb => e.1.2 k L hk hb, e.2⟩
  rw [elOf, e.1.1 L hL hb]
  exact elemGet_zipElems hf _ _ hj

/-- An element-wise UR form of class 0. -/
theorem elemResult_ur {s : State} {f : VF} {h : List Nat → Nat} {src : Group → Nat → List Nat} (hs : IssuesSplit s)
    (hf : FitsPlace s.cg f.ty) (hd : DstFits true f.dst.toNat f.ty.regs) (i : Instr) :
    ElemResult s (aluState true f f.ty.regs (fun g L => zipElems g.nf f.ty (src g L) h) s) f ⟨true, i, src, h⟩ := by
  rw [aluState, State.issue_congr (f' := fun g => g.put f.t (sWrites f.dst.toNat f.ty.regs
    (zipElems s.cg.nf f.ty (src s.cg 0) h) (fullBits f.ty.regs))) rfl]
  have e := State.issue_uni hs.1 f.y f.t f.dst.toNat f.ty.regs (zipElems s.cg.nf f.ty (src s.cg 0) h) hd
  refine ⟨fun j hj => ?_, e.2⟩
  rw [elOf, e.1]
  exact elemGet_zipElems hf _ _ hj

end Sys2Proof.Machine
end

