-- ==== Sys2Proof/Laws/PerInstr.lean ====
section
/-! SUPPORT. For every instruction, what its words name: the decoded word of a constructor stands for that constructor and for no
other, and an event has no word. -/

set_option Elab.async false

namespace Sys2Proof.Laws
open Sys2Proof

/-- The decoded word of the instruction, where it has one, stands for it. -/
def Words.Statement (i : Instr) : Prop := ∀ c, i.code = some c → c.instr = some i

theorem Words.addIntVr (f) : Words.Statement (.addIntVr f) := fun _ h => by cases h; rfl
theorem Words.addIntUr (f) : Words.Statement (.addIntUr f) := fun _ h => by cases h; rfl
theorem Words.subIntVr (f) : Words.Statement (.subIntVr f) := fun _ h => by cases h; rfl
theorem Words.subIntUr (f) : Words.Statement (.subIntUr f) := fun _ h => by cases h; rfl
theorem Words.mulIntVr (f) : Words.Statement (.mulIntVr f) := fun _ h => by cases h; rfl
theorem Words.mulIntUr (f) : Words.Statement (.mulIntUr f) := fun _ h => by cases h; rfl
theorem Words.mulhiVr (f) : Words.Statement (.mulhiVr f) := fun _ h => by cases h; rfl
theorem Words.mulhiUr (f) : Words.Statement (.mulhiUr f) := fun _ h => by cases h; rfl
theorem Words.madVr (f) : Words.Statement (.madVr f) := fun _ h => by cases h; rfl
theorem Words.madUr (f) : Words.Statement (.madUr f) := fun _ h => by cases h; rfl
theorem Words.divIntVr (f) : Words.Statement (.divIntVr f) := fun _ h => by cases h; rfl
theorem Words.divIntUr (f) : Words.Statement (.divIntUr f) := fun _ h => by cases h; rfl
theorem Words.remVr (f) : Words.Statement (.remVr f) := fun _ h => by cases h; rfl
theorem Words.remUr (f) : Words.Statement (.remUr f) := fun _ h => by cases h; rfl
theorem Words.minIntVr (f) : Words.Statement (.minIntVr f) := fun _ h => by cases h; rfl
theorem Words.minIntUr (f) : Words.Statement (.minIntUr f) := fun _ h => by cases h; rfl
theorem Words.maxIntVr (f) : Words.Statement (.maxIntVr f) := fun _ h => by cases h; rfl
theorem Words.maxIntUr (f) : Words.Statement (.maxIntUr f) := fun _ h => by cases h; rfl
theorem Words.absIntVr (f) : Words.Statement (.absIntVr f) := fun _ h => by cases h; rfl
theorem Words.absIntUr (f) : Words.Statement (.absIntUr f) := fun _ h => by cases h; rfl
theorem Words.negIntVr (f) : Words.Statement (.negIntVr f) := fun _ h => by cases h; rfl
theorem Words.negIntUr (f) : Words.Statement (.negIntUr f) := fun _ h => by cases h; rfl
theorem Words.andVr (f) : Words.Statement (.andVr f) := fun _ h => by cases h; rfl
theorem Words.andUr (f) : Words.Statement (.andUr f) := fun _ h => by cases h; rfl
theorem Words.orVr (f) : Words.Statement (.orVr f) := fun _ h => by cases h; rfl
theorem Words.orUr (f) : Words.Statement (.orUr f) := fun _ h => by cases h; rfl
theorem Words.xorVr (f) : Words.Statement (.xorVr f) := fun _ h => by cases h; rfl
theorem Words.xorUr (f) : Words.Statement (.xorUr f) := fun _ h => by cases h; rfl
theorem Words.notVr (f) : Words.Statement (.notVr f) := fun _ h => by cases h; rfl
theorem Words.notUr (f) : Words.Statement (.notUr f) := fun _ h => by cases h; rfl
theorem Words.shlVr (f) : Words.Statement (.shlVr f) := fun _ h => by cases h; rfl
theorem Words.shlUr (f) : Words.Statement (.shlUr f) := fun _ h => by cases h; rfl
theorem Words.shrVr (f) : Words.Statement (.shrVr f) := fun _ h => by cases h; rfl
theorem Words.shrUr (f) : Words.Statement (.shrUr f) := fun _ h => by cases h; rfl
theorem Words.rotVr (f) : Words.Statement (.rotVr f) := fun _ h => by cases h; rfl
theorem Words.rotUr (f) : Words.Statement (.rotUr f) := fun _ h => by cases h; rfl
theorem Words.popcVr (f) : Words.Statement (.popcVr f) := fun _ h => by cases h; rfl
theorem Words.popcUr (f) : Words.Statement (.popcUr f) := fun _ h => by cases h; rfl
theorem Words.clzVr (f) : Words.Statement (.clzVr f) := fun _ h => by cases h; rfl
theorem Words.clzUr (f) : Words.Statement (.clzUr f) := fun _ h => by cases h; rfl
theorem Words.brevVr (f) : Words.Statement (.brevVr f) := fun _ h => by cases h; rfl
theorem Words.brevUr (f) : Words.Statement (.brevUr f) := fun _ h => by cases h; rfl
theorem Words.bfeVr (f) : Words.Statement (.bfeVr f) := fun _ h => by cases h; rfl
theorem Words.bfeUr (f) : Words.Statement (.bfeUr f) := fun _ h => by cases h; rfl
theorem Words.bfiVr (f) : Words.Statement (.bfiVr f) := fun _ h => by cases h; rfl
theorem Words.bfiUr (f) : Words.Statement (.bfiUr f) := fun _ h => by cases h; rfl
theorem Words.cmpIntVr (f) : Words.Statement (.cmpIntVr f) := fun _ h => by cases h; rfl
theorem Words.cmpIntUr (f) : Words.Statement (.cmpIntUr f) := fun _ h => by cases h; rfl
theorem Words.selVr (f) : Words.Statement (.selVr f) := fun _ h => by cases h; rfl
theorem Words.selUr (f) : Words.Statement (.selUr f) := fun _ h => by cases h; rfl
theorem Words.movVr (f) : Words.Statement (.movVr f) := fun _ h => by cases h; rfl
theorem Words.movUr (f) : Words.Statement (.movUr f) := fun _ h => by cases h; rfl
theorem Words.leaVr (f) : Words.Statement (.leaVr f) := fun _ h => by cases h; rfl
theorem Words.leaUr (f) : Words.Statement (.leaUr f) := fun _ h => by cases h; rfl
theorem Words.extVr (f) : Words.Statement (.extVr f) := fun _ h => by cases h; rfl
theorem Words.extUr (f) : Words.Statement (.extUr f) := fun _ h => by cases h; rfl
theorem Words.dp4Vr (f) : Words.Statement (.dp4Vr f) := fun _ h => by cases h; rfl
theorem Words.dp4Ur (f) : Words.Statement (.dp4Ur f) := fun _ h => by cases h; rfl
theorem Words.mset (f) : Words.Statement (.mset f) := fun _ h => by cases h; rfl
theorem Words.mget (f) : Words.Statement (.mget f) := fun _ h => by cases h; rfl
theorem Words.mlog (f) : Words.Statement (.mlog f) := fun _ h => by cases h; rfl
theorem Words.xacq (f) : Words.Statement (.xacq f) := fun _ h => by cases h; rfl
theorem Words.xrel (f) : Words.Statement (.xrel f) := fun _ h => by cases h; rfl
theorem Words.donate (f) : Words.Statement (.donate f) := fun _ h => by cases h; rfl
theorem Words.bra (f) : Words.Statement (.bra f) := fun _ h => by cases h; rfl
theorem Words.brt (f) : Words.Statement (.brt f) := fun _ h => by cases h; rfl
theorem Words.brf (f) : Words.Statement (.brf f) := fun _ h => by cases h; rfl
theorem Words.bany (f) : Words.Statement (.bany f) := fun _ h => by cases h; rfl
theorem Words.ball (f) : Words.Statement (.ball f) := fun _ h => by cases h; rfl
theorem Words.call (f) : Words.Statement (.call f) := fun _ h => by cases h; rfl
theorem Words.loop (f) : Words.Statement (.loop f) := fun _ h => by cases h; rfl
theorem Words.ldec (f) : Words.Statement (.ldec f) := fun _ h => by cases h; rfl
theorem Words.lexit (f) : Words.Statement (.lexit f) := fun _ h => by cases h; rfl
theorem Words.jmpr (f) : Words.Statement (.jmpr f) := fun _ h => by cases h; rfl
theorem Words.callr (f) : Words.Statement (.callr f) := fun _ h => by cases h; rfl
theorem Words.ret (f) : Words.Statement (.ret f) := fun _ h => by cases h; rfl
theorem Words.join (f) : Words.Statement (.join f) := fun _ h => by cases h; rfl
theorem Words.exit (f) : Words.Statement (.exit f) := fun _ h => by cases h; rfl
theorem Words.jmpv (f) : Words.Statement (.jmpv f) := fun _ h => by cases h; rfl
theorem Words.mact (f) : Words.Statement (.mact f) := fun _ h => by cases h; rfl
theorem Words.nop (f) : Words.Statement (.nop f) := fun _ h => by cases h; rfl
theorem Words.yield (f) : Words.Statement (.yield f) := fun _ h => by cases h; rfl
theorem Words.lcrd (f) : Words.Statement (.lcrd f) := fun _ h => by cases h; rfl
theorem Words.lcwr (f) : Words.Statement (.lcwr f) := fun _ h => by cases h; rfl
theorem Words.addFloat (f) : Words.Statement (.addFloat f) := fun _ h => by cases h; rfl
theorem Words.subFloat (f) : Words.Statement (.subFloat f) := fun _ h => by cases h; rfl
theorem Words.mulFloat (f) : Words.Statement (.mulFloat f) := fun _ h => by cases h; rfl
theorem Words.fma (f) : Words.Statement (.fma f) := fun _ h => by cases h; rfl
theorem Words.fms (f) : Words.Statement (.fms f) := fun _ h => by cases h; rfl
theorem Words.fnma (f) : Words.Statement (.fnma f) := fun _ h => by cases h; rfl
theorem Words.divFloat (f) : Words.Statement (.divFloat f) := fun _ h => by cases h; rfl
theorem Words.sqrt (f) : Words.Statement (.sqrt f) := fun _ h => by cases h; rfl
theorem Words.minFloat (f) : Words.Statement (.minFloat f) := fun _ h => by cases h; rfl
theorem Words.maxFloat (f) : Words.Statement (.maxFloat f) := fun _ h => by cases h; rfl
theorem Words.absFloat (f) : Words.Statement (.absFloat f) := fun _ h => by cases h; rfl
theorem Words.negFloat (f) : Words.Statement (.negFloat f) := fun _ h => by cases h; rfl
theorem Words.cpys (f) : Words.Statement (.cpys f) := fun _ h => by cases h; rfl
theorem Words.cmpFloat (f) : Words.Statement (.cmpFloat f) := fun _ h => by cases h; rfl
theorem Words.fcls (f) : Words.Statement (.fcls f) := fun _ h => by cases h; rfl
theorem Words.pres (f) : Words.Statement (.pres f) := fun _ h => by cases h; rfl
theorem Words.cvt (f) : Words.Statement (.cvt f) := fun _ h => by cases h; rfl
theorem Words.rint (f) : Words.Statement (.rint f) := fun _ h => by cases h; rfl
theorem Words.rcp (f) : Words.Statement (.rcp f) := fun _ h => by cases h; rfl
theorem Words.rsqrt (f) : Words.Statement (.rsqrt f) := fun _ h => by cases h; rfl
theorem Words.exp2 (f) : Words.Statement (.exp2 f) := fun _ h => by cases h; rfl
theorem Words.log2 (f) : Words.Statement (.log2 f) := fun _ h => by cases h; rfl
theorem Words.sinpi (f) : Words.Statement (.sinpi f) := fun _ h => by cases h; rfl
theorem Words.cospi (f) : Words.Statement (.cospi f) := fun _ h => by cases h; rfl
theorem Words.tanh (f) : Words.Statement (.tanh f) := fun _ h => by cases h; rfl
theorem Words.sigm (f) : Words.Statement (.sigm f) := fun _ h => by cases h; rfl
theorem Words.rsum (f) : Words.Statement (.rsum f) := fun _ h => by cases h; rfl
theorem Words.rmin (f) : Words.Statement (.rmin f) := fun _ h => by cases h; rfl
theorem Words.rmax (f) : Words.Statement (.rmax f) := fun _ h => by cases h; rfl
theorem Words.rcnt (f) : Words.Statement (.rcnt f) := fun _ h => by cases h; rfl
theorem Words.shfl (f) : Words.Statement (.shfl f) := fun _ h => by cases h; rfl
theorem Words.shup (f) : Words.Statement (.shup f) := fun _ h => by cases h; rfl
theorem Words.shdn (f) : Words.Statement (.shdn f) := fun _ h => by cases h; rfl
theorem Words.shxr (f) : Words.Statement (.shxr f) := fun _ h => by cases h; rfl
theorem Words.shrt (f) : Words.Statement (.shrt f) := fun _ h => by cases h; rfl
theorem Words.prm2 (f) : Words.Statement (.prm2 f) := fun _ h => by cases h; rfl
theorem Words.rfal (f) : Words.Statement (.rfal f) := fun _ h => by cases h; rfl
theorem Words.rfau (f) : Words.Statement (.rfau f) := fun _ h => by cases h; rfl
theorem Words.insl (f) : Words.Statement (.insl f) := fun _ h => by cases h; rfl
theorem Words.bprm (f) : Words.Statement (.bprm f) := fun _ h => by cases h; rfl
theorem Words.zip2 (f) : Words.Statement (.zip2 f) := fun _ h => by cases h; rfl
theorem Words.zip3 (f) : Words.Statement (.zip3 f) := fun _ h => by cases h; rfl
theorem Words.zip4 (f) : Words.Statement (.zip4 f) := fun _ h => by cases h; rfl
theorem Words.unz2 (f) : Words.Statement (.unz2 f) := fun _ h => by cases h; rfl
theorem Words.unz3 (f) : Words.Statement (.unz3 f) := fun _ h => by cases h; rfl
theorem Words.unz4 (f) : Words.Statement (.unz4 f) := fun _ h => by cases h; rfl
theorem Words.ld (f) : Words.Statement (.ld f) := fun _ h => by cases h; rfl
theorem Words.st (f) : Words.Statement (.st f) := fun _ h => by cases h; rfl
theorem Words.ldu (f) : Words.Statement (.ldu f) := fun _ h => by cases h; rfl
theorem Words.stu (f) : Words.Statement (.stu f) := fun _ h => by cases h; rfl
theorem Words.pld (f) : Words.Statement (.pld f) := fun _ h => by cases h; rfl
theorem Words.pst (f) : Words.Statement (.pst f) := fun _ h => by cases h; rfl
theorem Words.pchk (f) : Words.Statement (.pchk f) := fun _ h => by cases h; rfl
theorem Words.pref (f) : Words.Statement (.pref f) := fun _ h => by cases h; rfl
theorem Words.pmake (f) : Words.Statement (.pmake f) := fun _ h => by cases h; rfl
theorem Words.padd (f) : Words.Statement (.padd f) := fun _ h => by cases h; rfl
theorem Words.pmov (f) : Words.Statement (.pmov f) := fun _ h => by cases h; rfl
theorem Words.pget (f) : Words.Statement (.pget f) := fun _ h => by cases h; rfl
theorem Words.pwiden (f) : Words.Statement (.pwiden f) := fun _ h => by cases h; rfl
theorem Words.pnarrow (f) : Words.Statement (.pnarrow f) := fun _ h => by cases h; rfl
theorem Words.pwidens (f) : Words.Statement (.pwidens f) := fun _ h => by cases h; rfl
theorem Words.pnarrows (f) : Words.Statement (.pnarrows f) := fun _ h => by cases h; rfl
theorem Words.aadd (f) : Words.Statement (.aadd f) := fun _ h => by cases h; rfl
theorem Words.amin (f) : Words.Statement (.amin f) := fun _ h => by cases h; rfl
theorem Words.amax (f) : Words.Statement (.amax f) := fun _ h => by cases h; rfl
theorem Words.aand (f) : Words.Statement (.aand f) := fun _ h => by cases h; rfl
theorem Words.aor (f) : Words.Statement (.aor f) := fun _ h => by cases h; rfl
theorem Words.axor (f) : Words.Statement (.axor f) := fun _ h => by cases h; rfl
theorem Words.axch (f) : Words.Statement (.axch f) := fun _ h => by cases h; rfl
theorem Words.acas (f) : Words.Statement (.acas f) := fun _ h => by cases h; rfl
theorem Words.binitTeam (f) : Words.Statement (.binitTeam f) := fun _ h => by cases h; rfl
theorem Words.binitObject (f) : Words.Statement (.binitObject f) := fun _ h => by cases h; rfl
theorem Words.barriveTeam (f) : Words.Statement (.barriveTeam f) := fun _ h => by cases h; rfl
theorem Words.barriveObject (f) : Words.Statement (.barriveObject f) := fun _ h => by cases h; rfl
theorem Words.barrivePaddock (f) : Words.Statement (.barrivePaddock f) := fun _ h => by cases h; rfl
theorem Words.bwaitTeam (f) : Words.Statement (.bwaitTeam f) := fun _ h => by cases h; rfl
theorem Words.bwaitObject (f) : Words.Statement (.bwaitObject f) := fun _ h => by cases h; rfl
theorem Words.bwaitPaddock (f) : Words.Statement (.bwaitPaddock f) := fun _ h => by cases h; rfl
theorem Words.bsyncTeam (f) : Words.Statement (.bsyncTeam f) := fun _ h => by cases h; rfl
theorem Words.bsyncPaddock (f) : Words.Statement (.bsyncPaddock f) := fun _ h => by cases h; rfl
theorem Words.bbytes (f) : Words.Statement (.bbytes f) := fun _ h => by cases h; rfl
theorem Words.btest (f) : Words.Statement (.btest f) := fun _ h => by cases h; rfl
theorem Words.bdropTeam (f) : Words.Statement (.bdropTeam f) := fun _ h => by cases h; rfl
theorem Words.bdropObject (f) : Words.Statement (.bdropObject f) := fun _ h => by cases h; rfl
theorem Words.cpy (f) : Words.Statement (.cpy f) := fun _ h => by cases h; rfl
theorem Words.cpy2d (f) : Words.Statement (.cpy2d f) := fun _ h => by cases h; rfl
theorem Words.cfill (f) : Words.Statement (.cfill f) := fun _ h => by cases h; rfl
theorem Words.cgth (f) : Words.Statement (.cgth f) := fun _ h => by cases h; rfl
theorem Words.ncopy (f) : Words.Statement (.ncopy f) := fun _ h => by cases h; rfl
theorem Words.cbatch (f) : Words.Statement (.cbatch f) := fun _ h => by cases h; rfl
theorem Words.cwait (f) : Words.Statement (.cwait f) := fun _ h => by cases h; rfl
theorem Words.cstat (f) : Words.Statement (.cstat f) := fun _ h => by cases h; rfl
theorem Words.accld (f) : Words.Statement (.accld f) := fun _ h => by cases h; rfl
theorem Words.accst (f) : Words.Statement (.accst f) := fun _ h => by cases h; rfl
theorem Words.accrd (f) : Words.Statement (.accrd f) := fun _ h => by cases h; rfl
theorem Words.accwr (f) : Words.Statement (.accwr f) := fun _ h => by cases h; rfl
theorem Words.fset (f) : Words.Statement (.fset f) := fun _ h => by cases h; rfl
theorem Words.fget (f) : Words.Statement (.fget f) := fun _ h => by cases h; rfl
theorem Words.xset (f) : Words.Statement (.xset f) := fun _ h => by cases h; rfl
theorem Words.xget (f) : Words.Statement (.xget f) := fun _ h => by cases h; rfl
theorem Words.xid (f) : Words.Statement (.xid f) := fun _ h => by cases h; rfl
theorem Words.xinv (f) : Words.Statement (.xinv f) := fun _ h => by cases h; rfl
theorem Words.xprm (f) : Words.Statement (.xprm f) := fun _ h => by cases h; rfl
theorem Words.scalc (f) : Words.Statement (.scalc f) := fun _ h => by cases h; rfl
theorem Words.scval (f) : Words.Statement (.scval f) := fun _ h => by cases h; rfl
theorem Words.scmul (f) : Words.Statement (.scmul f) := fun _ h => by cases h; rfl
theorem Words.qnt (f) : Words.Statement (.qnt f) := fun _ h => by cases h; rfl
theorem Words.dqnt (f) : Words.Statement (.dqnt f) := fun _ h => by cases h; rfl
theorem Words.ndot (f) : Words.Statement (.ndot f) := fun _ h => by cases h; rfl
theorem Words.namax (f) : Words.Statement (.namax f) := fun _ h => by cases h; rfl
theorem Words.cbr (f) : Words.Statement (.cbr f) := fun _ h => by cases h; rfl
theorem Words.fjoin (f) : Words.Statement (.fjoin f) := fun _ h => by cases h; rfl
theorem Words.fleave (f) : Words.Statement (.fleave f) := fun _ h => by cases h; rfl
theorem Words.fvote (f) : Words.Statement (.fvote f) := fun _ h => by cases h; rfl
theorem Words.fcnt (f) : Words.Statement (.fcnt f) := fun _ h => by cases h; rfl
theorem Words.fpend (f) : Words.Statement (.fpend f) := fun _ h => by cases h; rfl
theorem Words.tset (f) : Words.Statement (.tset f) := fun _ h => by cases h; rfl
theorem Words.tget (f) : Words.Statement (.tget f) := fun _ h => by cases h; rfl
theorem Words.collAr (f) : Words.Statement (.collAr f) := fun _ h => by cases h; rfl
theorem Words.collRs (f) : Words.Statement (.collRs f) := fun _ h => by cases h; rfl
theorem Words.collAg (f) : Words.Statement (.collAg f) := fun _ h => by cases h; rfl
theorem Words.collBc (f) : Words.Statement (.collBc f) := fun _ h => by cases h; rfl
theorem Words.collRd (f) : Words.Statement (.collRd f) := fun _ h => by cases h; rfl
theorem Words.collBar (f) : Words.Statement (.collBar f) := fun _ h => by cases h; rfl
theorem Words.halo (f) : Words.Statement (.halo f) := fun _ h => by cases h; rfl
theorem Words.putr (f) : Words.Statement (.putr f) := fun _ h => by cases h; rfl
theorem Words.getr (f) : Words.Statement (.getr f) := fun _ h => by cases h; rfl
theorem Words.clstat (f) : Words.Statement (.clstat f) := fun _ h => by cases h; rfl
theorem Words.launch (f) : Words.Statement (.launch f) := fun _ h => by cases h; rfl
theorem Words.depdec (f) : Words.Statement (.depdec f) := fun _ h => by cases h; rfl
theorem Words.spawn (f) : Words.Statement (.spawn f) := fun _ h => by cases h; rfl
theorem Words.sflush (f) : Words.Statement (.sflush f) := fun _ h => by cases h; rfl
theorem Words.prioget (f) : Words.Statement (.prioget f) := fun _ h => by cases h; rfl
theorem Words.prioset (f) : Words.Statement (.prioset f) := fun _ h => by cases h; rfl
theorem Words.qyield (f) : Words.Statement (.qyield f) := fun _ h => by cases h; rfl
theorem Words.preq (f) : Words.Statement (.preq f) := fun _ h => by cases h; rfl
theorem Words.grdget (f) : Words.Statement (.grdget f) := fun _ h => by cases h; rfl
theorem Words.tret (f) : Words.Statement (.tret f) := fun _ h => by cases h; rfl
theorem Words.tretR (f) : Words.Statement (.tretR f) := fun _ h => by cases h; rfl
theorem Words.tretRp (f) : Words.Statement (.tretRp f) := fun _ h => by cases h; rfl
theorem Words.scall (f) : Words.Statement (.scall f) := fun _ h => by cases h; rfl
theorem Words.srd (f) : Words.Statement (.srd f) := fun _ h => by cases h; rfl
theorem Words.swr (f) : Words.Statement (.swr f) := fun _ h => by cases h; rfl
theorem Words.fwait (f) : Words.Statement (.fwait f) := fun _ h => by cases h; rfl
theorem Words.frsm (f) : Words.Statement (.frsm f) := fun _ h => by cases h; rfl
theorem Words.fkill (f) : Words.Statement (.fkill f) := fun _ h => by cases h; rfl
theorem Words.tdisp (f) : Words.Statement (.tdisp f) := fun _ h => by cases h; rfl
theorem Words.fvots (f) : Words.Statement (.fvots f) := fun _ h => by cases h; rfl
theorem Words.tlbinv (f) : Words.Statement (.tlbinv f) := fun _ h => by cases h; rfl
theorem Words.xprobe (f) : Words.Statement (.xprobe f) := fun _ h => by cases h; rfl
theorem Words.dirrd (f) : Words.Statement (.dirrd f) := fun _ h => by cases h; rfl
theorem Words.monrd (f) : Words.Statement (.monrd f) := fun _ h => by cases h; rfl
theorem Words.stest (f) : Words.Statement (.stest f) := fun _ h => by cases h; rfl
theorem Words.recctlStatus (f) : Words.Statement (.recctlStatus f) := fun _ h => by cases h; rfl
theorem Words.recctlMarker (f) : Words.Statement (.recctlMarker f) := fun _ h => by cases h; rfl
theorem Words.recctlStop (f) : Words.Statement (.recctlStop f) := fun _ h => by cases h; rfl
theorem Words.elog (f) : Words.Statement (.elog f) := fun _ h => by cases h; rfl
theorem Words.tstop (f) : Words.Statement (.tstop f) := fun _ h => by cases h; rfl
theorem Words.tgo (f) : Words.Statement (.tgo f) := fun _ h => by cases h; rfl
theorem Words.mma (f) : Words.Statement (.mma f) := fun _ h => by cases h; rfl
theorem Words.mms (f) : Words.Statement (.mms f) := fun _ h => by cases h; rfl
theorem Words.mmat (f) : Words.Statement (.mmat f) := fun _ h => by cases h; rfl
theorem Words.mdrn (f) : Words.Statement (.mdrn f) := fun _ h => by cases h; rfl
theorem Words.mdrz (f) : Words.Statement (.mdrz f) := fun _ h => by cases h; rfl
theorem Words.mldc (f) : Words.Statement (.mldc f) := fun _ h => by cases h; rfl
theorem Words.mzero (f) : Words.Statement (.mzero f) := fun _ h => by cases h; rfl
theorem Words.mjmp (f) : Words.Statement (.mjmp f) := fun _ h => by cases h; rfl
theorem Words.mbnz (f) : Words.Statement (.mbnz f) := fun _ h => by cases h; rfl
theorem Words.mdjnz (f) : Words.Statement (.mdjnz f) := fun _ h => by cases h; rfl
theorem Words.mblt (f) : Words.Statement (.mblt f) := fun _ h => by cases h; rfl
theorem Words.mqset (f) : Words.Statement (.mqset f) := fun _ h => by cases h; rfl
theorem Words.mqadd (f) : Words.Statement (.mqadd f) := fun _ h => by cases h; rfl
theorem Words.mqsub (f) : Words.Statement (.mqsub f) := fun _ h => by cases h; rfl
theorem Words.mqmul (f) : Words.Statement (.mqmul f) := fun _ h => by cases h; rfl
theorem Words.mqshl (f) : Words.Statement (.mqshl f) := fun _ h => by cases h; rfl
theorem Words.mqand (f) : Words.Statement (.mqand f) := fun _ h => by cases h; rfl
theorem Words.mqld (f) : Words.Statement (.mqld f) := fun _ h => by cases h; rfl
theorem Words.msync (f) : Words.Statement (.msync f) := fun _ h => by cases h; rfl
theorem Words.mend (f) : Words.Statement (.mend f) := fun _ h => by cases h; rfl
theorem Words.extendedBlockGrant (x0) : Words.Statement (.extendedBlockGrant x0) := fun _ h => by cases h
theorem Words.deferRecordLoad (x0) : Words.Statement (.deferRecordLoad x0) := fun _ h => by cases h
theorem Words.freshGroupForm (x0) : Words.Statement (.freshGroupForm x0) := fun _ h => by cases h
theorem Words.compactionTimeout (x0 x1) : Words.Statement (.compactionTimeout x0 x1) := fun _ h => by cases h
theorem Words.ageCap (x0 x1) : Words.Statement (.ageCap x0 x1) := fun _ h => by cases h
theorem Words.resultReturn (x0 x1) : Words.Statement (.resultReturn x0 x1) := fun _ h => by cases h
theorem Words.userTrap (x0) : Words.Statement (.userTrap x0) := fun _ h => by cases h
theorem Words.retypeComplete (x0) : Words.Statement (.retypeComplete x0) := fun _ h => by cases h
theorem Words.l1Fill (x0 x1 x2) : Words.Statement (.l1Fill x0 x1 x2) := fun _ h => by cases h
theorem Words.invalidation (x0 x1) : Words.Statement (.invalidation x0 x1) := fun _ h => by cases h
theorem Words.recall (x0 x1) : Words.Statement (.recall x0 x1) := fun _ h => by cases h
theorem Words.udWriteBack (x0 x1 x2 x3) : Words.Statement (.udWriteBack x0 x1 x2 x3) := fun _ h => by cases h
theorem Words.lineEviction (x0 x1) : Words.Statement (.lineEviction x0 x1) := fun _ h => by cases h
theorem Words.coherenceResend (x0) : Words.Statement (.coherenceResend x0) := fun _ h => by cases h
theorem Words.linePoison (x0) : Words.Statement (.linePoison x0) := fun _ h => by cases h
theorem Words.backInvalidationSnoop (x0 x1) : Words.Statement (.backInvalidationSnoop x0 x1) := fun _ h => by cases h
theorem Words.regionEntryWrite (x0 x1 x2) : Words.Statement (.regionEntryWrite x0 x1 x2) := fun _ h => by cases h
theorem Words.regionTableSwitch : Words.Statement (.regionTableSwitch) := fun _ h => by cases h
theorem Words.granuleLend (x0 x1) : Words.Statement (.granuleLend x0 x1) := fun _ h => by cases h
theorem Words.granuleReclaim (x0 x1) : Words.Statement (.granuleReclaim x0 x1) := fun _ h => by cases h
theorem Words.atomicPacket (x0 x1 x2 x3 x4 x5 x6 x7 x8) : Words.Statement (.atomicPacket x0 x1 x2 x3 x4 x5 x6 x7 x8) := fun _ h => by cases h
theorem Words.paddockCrossDiePhase (x0 x1) : Words.Statement (.paddockCrossDiePhase x0 x1) := fun _ h => by cases h
theorem Words.copyComplete (x0) : Words.Statement (.copyComplete x0) := fun _ h => by cases h
theorem Words.voteResult (x0 x1) : Words.Statement (.voteResult x0 x1) := fun _ h => by cases h
theorem Words.foldJoinMessage (x0 x1 x2) : Words.Statement (.foldJoinMessage x0 x1 x2) := fun _ h => by cases h
theorem Words.foldFormed (x0 x1) : Words.Statement (.foldFormed x0 x1) := fun _ h => by cases h
theorem Words.foldLeave (x0 x1) : Words.Statement (.foldLeave x0 x1) := fun _ h => by cases h
theorem Words.foldContribution (x0 x1 x2 x3 x4) : Words.Statement (.foldContribution x0 x1 x2 x3 x4) := fun _ h => by cases h
theorem Words.foldlost (x0 x1) : Words.Statement (.foldlost x0 x1) := fun _ h => by cases h
theorem Words.collectiveStart (x0) : Words.Statement (.collectiveStart x0) := fun _ h => by cases h
theorem Words.chunkReceive (x0 x1 x2 x3 x4 x5 x6 x7 x8) : Words.Statement (.chunkReceive x0 x1 x2 x3 x4 x5 x6 x7 x8) := fun _ h => by cases h
theorem Words.treeContribution (x0 x1 x2 x3 x4 x5 x6 x7) : Words.Statement (.treeContribution x0 x1 x2 x3 x4 x5 x6 x7) := fun _ h => by cases h
theorem Words.collectiveComplete (x0 x1 x2) : Words.Statement (.collectiveComplete x0 x1 x2) := fun _ h => by cases h
theorem Words.rickFetch : Words.Statement (.rickFetch) := fun _ h => by cases h
theorem Words.chunkResend (x0) : Words.Statement (.chunkResend x0) := fun _ h => by cases h
theorem Words.haloReceive (x0 x1 x2 x3 x4 x5) : Words.Statement (.haloReceive x0 x1 x2 x3 x4 x5) := fun _ h => by cases h
theorem Words.remotePacket (x0 x1 x2 x3 x4) : Words.Statement (.remotePacket x0 x1 x2 x3 x4) := fun _ h => by cases h
theorem Words.repeatWindowExpire (x0 x1) : Words.Statement (.repeatWindowExpire x0 x1) := fun _ h => by cases h
theorem Words.remotePathLost (x0) : Words.Statement (.remotePathLost x0) := fun _ h => by cases h
theorem Words.flitReceive (x0 x1) : Words.Statement (.flitReceive x0 x1) := fun _ h => by cases h
theorem Words.nakReceive (x0 x1) : Words.Statement (.nakReceive x0 x1) := fun _ h => by cases h
theorem Words.ackTimer (x0) : Words.Statement (.ackTimer x0) := fun _ h => by cases h
theorem Words.nakRepeat (x0) : Words.Statement (.nakRepeat x0) := fun _ h => by cases h
theorem Words.replayTimeout (x0) : Words.Statement (.replayTimeout x0) := fun _ h => by cases h
theorem Words.laneLossOfLock (x0 x1) : Words.Statement (.laneLossOfLock x0 x1) := fun _ h => by cases h
theorem Words.ctrlRetrain (x0 x1 x2) : Words.Statement (.ctrlRetrain x0 x1 x2) := fun _ h => by cases h
theorem Words.retrainLockComplete (x0 x1) : Words.Statement (.retrainLockComplete x0 x1) := fun _ h => by cases h
theorem Words.ctrlReady (x0 x1) : Words.Statement (.ctrlReady x0 x1) := fun _ h => by cases h
theorem Words.ctrlDown (x0) : Words.Statement (.ctrlDown x0) := fun _ h => by cases h
theorem Words.portctlRetrain (x0) : Words.Statement (.portctlRetrain x0) := fun _ h => by cases h
theorem Words.spawnBinTimer (x0) : Words.Statement (.spawnBinTimer x0) := fun _ h => by cases h
theorem Words.spawnBinLaunch (x0) : Words.Statement (.spawnBinLaunch x0) := fun _ h => by cases h
theorem Words.schedulerPlace : Words.Statement (.schedulerPlace) := fun _ h => by cases h
theorem Words.quantumExpire (x0) : Words.Statement (.quantumExpire x0) := fun _ h => by cases h
theorem Words.preemptSave (x0) : Words.Statement (.preemptSave x0) := fun _ h => by cases h
theorem Words.teamRestore (x0) : Words.Statement (.teamRestore x0) := fun _ h => by cases h
theorem Words.taskRetire (x0) : Words.Statement (.taskRetire x0) := fun _ h => by cases h
theorem Words.tlbinvComplete (x0 x1) : Words.Statement (.tlbinvComplete x0 x1) := fun _ h => by cases h
theorem Words.faultRecordPost : Words.Statement (.faultRecordPost) := fun _ h => by cases h
theorem Words.machineCheck (x0 x1 x2) : Words.Statement (.machineCheck x0 x1 x2) := fun _ h => by cases h
theorem Words.selfTestComplete (x0 x1) : Words.Statement (.selfTestComplete x0 x1) := fun _ h => by cases h
theorem Words.recordCheckpoint : Words.Statement (.recordCheckpoint) := fun _ h => by cases h
theorem Words.replayInject (x0 x1) : Words.Statement (.replayInject x0 x1) := fun _ h => by cases h
theorem Words.sensorRefresh (x0) : Words.Statement (.sensorRefresh x0) := fun _ h => by cases h
theorem Words.clockStepSelect (x0 x1 x2) : Words.Statement (.clockStepSelect x0 x1 x2) := fun _ h => by cases h
theorem Words.hedgePowerTrip : Words.Statement (.hedgePowerTrip) := fun _ h => by cases h
theorem Words.thermalTrip : Words.Statement (.thermalTrip) := fun _ h => by cases h
theorem Words.rd (x0) : Words.Statement (.rd x0) := fun _ h => by cases h
theorem Words.wr (x0) : Words.Statement (.wr x0) := fun _ h => by cases h
theorem Words.submit (x0) : Words.Statement (.submit x0) := fun _ h => by cases h
theorem Words.ctxend (x0) : Words.Statement (.ctxend x0) := fun _ h => by cases h
theorem Words.attest (x0) : Words.Statement (.attest x0) := fun _ h => by cases h
theorem Words.fwload (x0) : Words.Statement (.fwload x0) := fun _ h => by cases h
theorem Words.done (x0) : Words.Statement (.done x0) := fun _ h => by cases h
theorem Words.standby (x0) : Words.Statement (.standby x0) := fun _ h => by cases h
theorem Words.hostBadCommand (x0) : Words.Statement (.hostBadCommand x0) := fun _ h => by cases h
theorem Words.registerWrite (x0 x1) : Words.Statement (.registerWrite x0 x1) := fun _ h => by cases h
theorem Words.pkgWrite (x0) : Words.Statement (.pkgWrite x0) := fun _ h => by cases h
theorem Words.bootctlGo (x0) : Words.Statement (.bootctlGo x0) := fun _ h => by cases h
theorem Words.powerCapWrite (x0) : Words.Statement (.powerCapWrite x0) := fun _ h => by cases h
theorem Words.foldTableWrite (x0 x1 x2) : Words.Statement (.foldTableWrite x0 x1 x2) := fun _ h => by cases h
theorem Words.contextDescriptorWrite (x0 x1 x2) : Words.Statement (.contextDescriptorWrite x0 x1 x2) := fun _ h => by cases h
theorem Words.powerGood (x0 x1) : Words.Statement (.powerGood x0 x1) := fun _ h => by cases h
theorem Words.trainingComplete (x0) : Words.Statement (.trainingComplete x0) := fun _ h => by cases h
theorem Words.zeroingComplete : Words.Statement (.zeroingComplete) := fun _ h => by cases h
theorem Words.corePowerRemoved : Words.Statement (.corePowerRemoved) := fun _ h => by cases h
theorem Words.homeRequest (x0 x1 x2 x3) : Words.Statement (.homeRequest x0 x1 x2 x3) := fun _ h => by cases h
theorem Words.joinRefused (x0 x1 x2) : Words.Statement (.joinRefused x0 x1 x2) := fun _ h => by cases h
theorem Words.retrainResend (x0) : Words.Statement (.retrainResend x0) := fun _ h => by cases h
theorem Words.dimmSupplyLoss : Words.Statement (.dimmSupplyLoss) := fun _ h => by cases h
theorem Words.effectivePriorityRaise (x0) : Words.Statement (.effectivePriorityRaise x0) := fun _ h => by cases h

end Sys2Proof.Laws
end

