-- ==== Sys2Proof/Laws/Settle.lean ====
section
/-! SUPPORT. Laws of the merges of R145 and R146: lanes that stand where no JOIN set waits stand there afterwards, and where no JOIN set
can be complete no loop counter changes. -/

set_option Elab.async false

namespace Sys2Proof.Machine
open Sys2Proof Sys2Proof.Claims

/-- A lane set that the group holds, in an entry or in the stack. -/
def Group.Has (g : Group) (l : LaneSet) : Prop := (∃ e, e < 4 ∧ g.set e = l) ∨ l ∈ g.stack

theorem Group.set_getElem (g : Group) {e : Nat} (h : e < 4) : g.set e = g.sets[e] := by simp [Group.set, vecAt, h]

theorem Group.has_iff (g : Group) (l : LaneSet) : g.Has l ↔ l ∈ g.sets.toList ++ g.stack := by
  rw [List.mem_append, Has]
  refine or_congr ?_ Iff.rfl
  rw [Vector.mem_toList_iff, Vector.mem_iff_getElem]
  constructor
  · rintro ⟨e, h, rfl⟩; exact ⟨e, h, (g.set_getElem h).symm⟩
  · rintro ⟨e, h, rfl⟩; exact ⟨e, h, g.set_getElem h⟩

theorem Group.set_putSet_same (g : Group) {e : Nat} (h : e < 4) (l : LaneSet) : (g.putSet e l).set e = l :=
  vecAt_put_same _ _ _ h

theorem Group.set_putSet_ne (g : Group) {e j : Nat} (h : e ≠ j) (l : LaneSet) : (g.putSet e l).set j = g.set j :=
  vecAt_put_ne _ _ _ h

/-- Lane `L` stands at `pc` in a READY or DEFER set, and no JOIN set stands there. -/
structure Group.Firm (g : Group) (L : Nat) (pc : DWord) : Prop where
  here : ∃ l, g.Has l ∧ bit l.lanes L = true ∧ l.pc = pc ∧ (l.st = .ready ∨ l.st = .defer)
  noJoin : ∀ l, g.Has l → l.st = .join → l.pc ≠ pc

theorem Group.Firm.stands {g : Group} {L : Nat} {pc : DWord} (h : g.Firm L pc) : StandsAt g L pc := by
  obtain ⟨l, hl, hb, hp, hs⟩ := h.here
  refine ⟨l, ?_, hb, hp, hs⟩
  rw [laneSets, List.mem_filter]
  refine ⟨(g.has_iff l).1 hl, ?_⟩
  simp only [bne_iff_ne, ne_eq]
  intro h0
  rw [h0] at hb
  simp [bit] at hb

theorem Group.has_putSet {g : Group} {e : Nat} {x l : LaneSet} (h : (g.putSet e x).Has l) : l = x ∨ g.Has l := by
  rcases h with ⟨j, hj, rfl⟩ | h
  · by_cases he : e = j
    · subst he; exact .inl (g.set_putSet_same hj x)
    · exact .inr (.inl ⟨j, hj, (g.set_putSet_ne he x).symm⟩)
  · exact .inr (.inr h)

theorem Group.has_of_ne {g : Group} {e j : Nat} {x : LaneSet} (hj : j < 4) (h : e ≠ j) : (g.putSet e x).Has (g.set j) :=
  .inl ⟨j, hj, g.set_putSet_ne h x⟩

/-- An entry replaced by a set that keeps what stood there. -/
theorem Group.Firm.putSet {g : Group} {L : Nat} {pc : DWord} (h : g.Firm L pc) {e : Nat} {x : LaneSet} (he : e < 4)
    (hj : x.st = .join → x.pc ≠ pc)
    (hk : bit (g.set e).lanes L = true → (g.set e).pc = pc → (g.set e).st = .ready ∨ (g.set e).st = .defer →
      ∃ l, (g.putSet e x).Has l ∧ bit l.lanes L = true ∧ l.pc = pc ∧ (l.st = .ready ∨ l.st = .defer)) : (g.putSet e x).Firm L pc := by
  refine ⟨?_, fun l hl hs => ?_⟩
  · obtain ⟨l, hl, hb, hp, hs⟩ := h.here
    rcases hl with ⟨j, hjl, rfl⟩ | hl
    · by_cases hej : e = j
      · subst hej; exact hk hb hp hs
      · exact ⟨_, has_of_ne hjl hej, hb, hp, hs⟩
    · exact ⟨l, .inr hl, hb, hp, hs⟩
  · rcases has_putSet hl with rfl | hl
    · exact hj hs
    · exact h.noJoin l hl hs

theorem bit_or {a b : Word} {L : Nat} (h : bit a L = true ∨ bit b L = true) : bit (a ||| b) L = true := by
  simp only [bit, BitVec.getLsbD_or] at *
  rcases h with h | h <;> simp [h]

theorem Group.Firm.mergePair {g : Group} {L : Nat} {pc : DWord} (h : g.Firm L pc) {i j : Nat} (hi : i < 4) (hj : j < 4) (hij : i ≠ j) :
    (g.mergePair i j).Firm L pc := by
  rw [Group.mergePair]
  split
  next hc =>
    simp only [mergeable, Bool.and_eq_true, beq_iff_eq] at hc
    obtain ⟨⟨⟨⟨⟨hri, -⟩, -⟩, ⟨⟨hrj, -⟩, -⟩⟩, hpc⟩, -⟩ := hc
    have key : ∀ l, (g.putSet i ((g.set i).union (g.set j))).Has l → l.st = .join → l.pc ≠ pc := by
      intro l hl hs
      rcases has_putSet hl with rfl | hl
      · exact absurd (hri.symm.trans hs) (by decide)
      · exact h.noJoin l hl hs
    have hu : ((g.putSet i ((g.set i).union (g.set j))).putSet j {}).Has ((g.set i).union (g.set j)) :=
      .inl ⟨i, hi, by rw [set_putSet_ne _ (Ne.symm hij), set_putSet_same _ hi]⟩
    refine ⟨?_, fun l hl hs => ?_⟩
    · obtain ⟨l, hl, hb, hp, hs⟩ := h.here
      rcases hl with ⟨k, hk, rfl⟩ | hl
      · by_cases hki : i = k
        · subst hki
          exact ⟨_, hu, bit_or (.inl hb), hp, .inl hri⟩
        · by_cases hkj : j = k
          · subst hkj
            exact ⟨_, hu, bit_or (.inr hb), hpc.trans hp, .inl hri⟩
          · exact ⟨_, .inl ⟨k, hk, by rw [set_putSet_ne _ hkj, set_putSet_ne _ hki]⟩, hb, hp, hs⟩
      · exact ⟨l, .inr hl, hb, hp, hs⟩
    · rcases has_putSet hl with rfl | hl
      · exact absurd hs (by decide)
      · exact key l hl hs
  next => exact h

theorem Group.Firm.joinEntry {g : Group} {L : Nat} {pc : DWord} (h : g.Firm L pc) {e j : Nat} (he : e < 4) (hj : j < 4) :
    (g.joinEntry e j).Firm L pc := by
  rw [Group.joinEntry]
  split
  next hc =>
    simp only [mergeable, Bool.and_eq_true, beq_iff_eq, bne_iff_ne] at hc
    obtain ⟨⟨⟨⟨hne, ⟨⟨hre, -⟩, -⟩⟩, hjj⟩, hpc⟩, -⟩ := hc
    have hjpc : (g.set j).pc ≠ pc := h.noJoin _ (.inl ⟨j, hj, rfl⟩) hjj
    have hepc : (g.set e).pc ≠ pc := fun h' => hjpc (hpc.trans h')
    have h1 := h.putSet (x := (g.set j).joinedBy (g.set e)) hj (fun _ => hjpc)
      fun _ h' => absurd h' hjpc
    refine h1.putSet he (fun h => absurd h (by decide)) fun _ h' => absurd h' ?_
    rw [set_putSet_ne _ (Ne.symm hne)]
    exact hepc
  next => exact h

theorem Group.Firm.joinStack {g : Group} {L : Nat} {pc : DWord} (h : g.Firm L pc) {e : Nat} (he : e < 4) :
    (g.joinStack e).Firm L pc := by
  rw [Group.joinStack]
  split
  next hc =>
    simp only [Bool.and_eq_true, List.any_eq_true, beq_iff_eq] at hc
    obtain ⟨-, j, hjm, ⟨hjs, hjpc⟩, -⟩ := hc
    have hepc : (g.set e).pc ≠ pc := fun h' => h.noJoin j (.inr hjm) hjs (hjpc.trans h')
    have h1 : Group.Firm { g with stack := g.stack.map fun (l : LaneSet) =>
        if l.st == SetSt.join && l.pc == (g.set e).pc && g.handles l == g.handles (g.set e) then l.joinedBy (g.set e) else l } L pc := by
      refine ⟨?_, ?_⟩
      · obtain ⟨l, hl, hb, hp, hs⟩ := h.here
        rcases hl with ⟨k, hk, rfl⟩ | hl
        · exact ⟨_, .inl ⟨k, hk, rfl⟩, hb, hp, hs⟩
        · refine ⟨l, .inr (List.mem_map.2 ⟨l, hl, if_neg ?_⟩), hb, hp, hs⟩
          simp only [Bool.and_eq_true, beq_iff_eq]
          rintro ⟨⟨hjoin, -⟩, -⟩
          rcases hs with hs | hs <;> exact absurd (hs.symm.trans hjoin) (by decide)
      · rintro l (⟨k, hk, rfl⟩ | hl) hs
        · exact h.noJoin _ (.inl ⟨k, hk, rfl⟩) hs
        · obtain ⟨l', hl', rfl⟩ := List.mem_map.1 hl
          have e : (if (l'.st == SetSt.join && l'.pc == (g.set e).pc && g.handles l' == g.handles (g.set e)) = true then
              l'.joinedBy (g.set e) else l').st = l'.st ∧
            (if (l'.st == SetSt.join && l'.pc == (g.set e).pc && g.handles l' == g.handles (g.set e)) = true then
              l'.joinedBy (g.set e) else l').pc = l'.pc := by split <;> exact ⟨rfl, rfl⟩
          rw [e.2]
          exact h.noJoin l' (.inr hl') (e.1.symm.trans hs)
    exact h1.putSet he (fun h => absurd h (by decide)) fun _ h' => absurd h' hepc
  next => exact h

/-- A set that is not JOIN is left as it is. -/
theorem Group.joinDone_other {g : Group} {l : LaneSet} (h : l.st ≠ .join) : g.joinDone l = (g, l) := by
  simp [joinDone, h]

theorem Group.joinDone_pc {g : Group} {l : LaneSet} (h : (g.joinDone l).2.st = .join) : (g.joinDone l).2.pc = l.pc ∧ l.st = .join := by
  rw [joinDone] at h ⊢
  dsimp only at h ⊢
  split at h
  next h0 => rw [if_pos h0]; exact ⟨rfl, h⟩
  next h0 =>
    split at h
    · exact absurd h SetSt.noConfusion
    next h1 => rw [if_neg h0, if_neg h1]; exact ⟨rfl, by simpa using h0⟩

theorem Group.joinDone_has {g : Group} {l x : LaneSet} : (g.joinDone l).1.Has x ↔ g.Has x := by
  rw [joinDone]
  dsimp only
  split
  · rfl
  · split <;> rfl

theorem Group.Firm.congr {g g' : Group} {L : Nat} {pc : DWord} (h : g.Firm L pc) (e : ∀ x, g'.Has x ↔ g.Has x) : g'.Firm L pc := by
  obtain ⟨l, hl, hr⟩ := h.here
  exact ⟨⟨l, (e l).2 hl, hr⟩, fun l hl => h.noJoin l ((e l).1 hl)⟩

theorem Group.joinDone_set {g : Group} {l : LaneSet} (e : Nat) : (g.joinDone l).1.set e = g.set e := by
  rw [joinDone]
  dsimp only
  split
  · rfl
  · split <;> rfl

theorem Group.Firm.joinEntries {g : Group} {L : Nat} {pc : DWord} (h : g.Firm L pc) : g.joinEntries.Firm L pc := by
  rw [Group.joinEntries]
  have one : ∀ (g : Group) (e : Nat), e < 4 → g.Firm L pc →
      ((g.joinDone (g.set e)).1.putSet e (g.joinDone (g.set e)).2).Firm L pc := by
    intro g e he h
    refine (h.congr fun x => joinDone_has).putSet he (fun hs => ?_) fun hb hp hs => ?_
    · rw [(joinDone_pc hs).1]
      exact h.noJoin _ (.inl ⟨e, he, rfl⟩) (joinDone_pc hs).2
    · rw [joinDone_set] at hb hp hs
      have hne : (g.set e).st ≠ .join := by rcases hs with hs | hs <;> rw [hs] <;> decide
      rw [joinDone_other hne]
      exact ⟨_, .inl ⟨e, he, set_putSet_same _ he _⟩, hb, hp, hs⟩
  have fold : ∀ (es : List Nat) (g : Group), (∀ e ∈ es, e < 4) → g.Firm L pc →
      (es.foldl (fun g e => let r := g.joinDone (g.set e); r.1.putSet e r.2) g).Firm L pc := by
    intro es
    induction es with
    | nil => exact fun g _ h => h
    | cons e es ih => exact fun g he h => ih _ (fun x hx => he x (List.mem_cons_of_mem _ hx)) (one g e (he e List.mem_cons_self) h)
  exact fold _ g (by decide) h

theorem Group.joinStacked_stack (g : Group) (ls : List LaneSet) (a : Group × List LaneSet) :
    ∃ xs, (ls.foldl (fun (a : Group × List LaneSet) l => let r := a.1.joinDone l; (r.1, a.2 ++ [r.2.stacked])) a).2 = a.2 ++ xs ∧
      (∀ x ∈ xs, ∃ g' l, l ∈ ls ∧ x = ((g' : Group).joinDone l).2.stacked) ∧ ∀ l ∈ ls, ∃ g', ((g' : Group).joinDone l).2.stacked ∈ xs := by
  induction ls generalizing a with
  | nil => exact ⟨[], by simp, by simp, by simp⟩
  | cons l ls ih =>
    rw [List.foldl_cons]
    obtain ⟨xs, h1, h2, h3⟩ := ih ((a.1.joinDone l).1, a.2 ++ [(a.1.joinDone l).2.stacked])
    refine ⟨(a.1.joinDone l).2.stacked :: xs, ?_, ?_, ?_⟩
    · rw [h1]; simp
    · intro x hx
      rcases List.mem_cons.1 hx with rfl | hx
      · exact ⟨a.1, l, List.mem_cons_self, rfl⟩
      · obtain ⟨g', l', hl, e⟩ := h2 x hx
        exact ⟨g', l', List.mem_cons_of_mem _ hl, e⟩
    · intro l' hl
      rcases List.mem_cons.1 hl with rfl | hl
      · exact ⟨a.1, List.mem_cons_self⟩
      · obtain ⟨g', e⟩ := h3 l' hl
        exact ⟨g', List.mem_cons_of_mem _ e⟩

theorem LaneSet.stacked_fields (l : LaneSet) : l.stacked.lanes = l.lanes ∧ l.stacked.pc = l.pc ∧ (l.stacked.st = .join → l.st = .join) ∧
    (l.st = .ready ∨ l.st = .defer → l.stacked.st = .ready ∨ l.stacked.st = .defer) := by
  rw [LaneSet.stacked]
  split
  next h => exact ⟨rfl, rfl, fun h => absurd h SetSt.noConfusion, fun _ => .inr rfl⟩
  next h => exact ⟨rfl, rfl, id, id⟩

theorem Group.Firm.joinStacked {g : Group} {L : Nat} {pc : DWord} (h : g.Firm L pc) : g.joinStacked.Firm L pc := by
  obtain ⟨xs, h1, h2, h3⟩ := g.joinStacked_stack g.stack (g, [])
  have hset : ∀ e, g.joinStacked.set e = g.set e := by
    intro e
    have : ∀ (ls : List LaneSet) (a : Group × List LaneSet), (ls.foldl (fun (a : Group × List LaneSet) l => let r := a.1.joinDone l; (r.1, a.2 ++ [r.2.stacked])) a).1.set e = a.1.set e := by
      intro ls
      induction ls with
      | nil => exact fun _ => rfl
      | cons l ls ih => intro a; rw [List.foldl_cons, ih]; exact joinDone_set e
    exact this g.stack (g, [])
  have hstack : g.joinStacked.stack = xs := by
    rw [Group.joinStacked]
    simpa using h1
  refine ⟨?_, ?_⟩
  · obtain ⟨l, hl, hb, hp, hs⟩ := h.here
    rcases hl with ⟨k, hk, rfl⟩ | hl
    · exact ⟨_, .inl ⟨k, hk, hset k⟩, hb, hp, hs⟩
    · obtain ⟨g', hx⟩ := h3 l hl
      have hne : l.st ≠ .join := by rcases hs with hs | hs <;> rw [hs] <;> decide
      rw [joinDone_other hne] at hx
      obtain ⟨f1, f2, -, f4⟩ := l.stacked_fields
      exact ⟨_, .inr (hstack ▸ hx), by rw [f1]; exact hb, by rw [f2]; exact hp, f4 hs⟩
  · rintro l (⟨k, hk, rfl⟩ | hl) hs
    · rw [hset] at hs ⊢
      exact h.noJoin _ (.inl ⟨k, hk, rfl⟩) hs
    · rw [hstack] at hl
      obtain ⟨g', l', hl', rfl⟩ := h2 l hl
      obtain ⟨-, f2, f3, -⟩ := (g'.joinDone l').2.stacked_fields
      rw [f2, (joinDone_pc (f3 hs)).1]
      exact h.noJoin l' (.inr hl') (joinDone_pc (f3 hs)).2

theorem Group.Firm.foldl {α : Type} {f : Group → α → Group} {L : Nat} {pc : DWord} {P : α → Prop}
    (hf : ∀ (g : Group) a, P a → g.Firm L pc → (f g a).Firm L pc) :
    ∀ (l : List α) (g : Group), (∀ a ∈ l, P a) → g.Firm L pc → (l.foldl f g).Firm L pc
  | [], _, _, h => h
  | a :: l, g, hp, h =>
    Group.Firm.foldl hf l _ (fun x hx => hp x (List.mem_cons_of_mem _ hx)) (hf g a (hp a List.mem_cons_self) h)

theorem Group.Firm.settleOnce {g : Group} {L : Nat} {pc : DWord} (h : g.Firm L pc) : g.settleOnce.Firm L pc := by
  have hm : ∀ (g : Group) (p : Nat × Nat), p.1 < 4 ∧ p.2 < 4 ∧ p.1 ≠ p.2 → g.Firm L pc → (g.mergePair p.1 p.2).Firm L pc :=
    fun g p hp h => h.mergePair hp.1 hp.2.1 hp.2.2
  have hj : ∀ (g : Group) (p : Nat × Nat), p.1 < 4 ∧ p.2 < 4 → g.Firm L pc → (g.joinEntry p.1 p.2).Firm L pc :=
    fun g p hp h => h.joinEntry hp.1 hp.2
  have hs : ∀ (g : Group) (e : Nat), e < 4 → g.Firm L pc → (g.joinStack e).Firm L pc := fun g e he h => h.joinStack he
  rw [Group.settleOnce]
  refine Firm.joinStacked (Firm.joinEntries ?_)
  refine Group.Firm.foldl hs _ _ (by decide) ?_
  refine Group.Firm.foldl hj _ _ (by decide) ?_
  rw [Group.mergeReady]
  exact Group.Firm.foldl hm _ _ (by decide) h

/-- Lanes that stand where no JOIN set waits stand there after the merges (R145, R146). -/
theorem Group.Firm.settle {g : Group} {L : Nat} {pc : DWord} (h : g.Firm L pc) : g.settle.Firm L pc := by
  rw [Group.settle]
  exact h.settleOnce.settleOnce.settleOnce.settleOnce

end Sys2Proof.Machine
end

