-- ==== Sys2Proof/Laws/Step.lean ====
section
/-! SUPPORT. The step runs a decoded word by the meaning of the instruction that it stands for. -/

set_option Elab.async false

namespace Sys2Proof.Machine
open Sys2Proof

theorem vExec_eq (op : Op) (f : VF) (s : State) : vExec op f s = (match vInstr op f with | some i => exec i s | none => ok s) := by
  cases op <;> rfl
theorem maExec_eq (op : Op) (f : MAF) (s : State) : maExec op f s = (match maInstr op f with | some i => exec i s | none => ok s) := by
  cases op <;> rfl
theorem rtExec_eq (op : Op) (f : RTF) (s : State) : rtExec op f s = (match rtInstr op f with | some i => exec i s | none => ok s) := by
  cases op <;> rfl
theorem brExec_eq (op : Op) (f : BRF) (s : State) : brExec op f s = (match brInstr op f with | some i => exec i s | none => ok s) := by
  cases op <;> rfl
theorem spExec_eq (op : Op) (f : SPF) (s : State) : spExec op f s = (match spInstr op f with | some i => exec i s | none => ok s) := by
  cases op <;> rfl
theorem enExec_eq (op : Op) (f : ENF) (s : State) : enExec op f s = (match enInstr op f with | some i => exec i s | none => ok s) := by
  cases op <;> rfl
theorem baExec_eq (op : Op) (f : BAF) (s : State) : baExec op f s = (match baInstr op f with | some i => exec i s | none => ok s) := by
  cases op <;> rfl
theorem mxExec_eq (op : Op) (f : MXF) (s : State) : mxExec op f s = (match mxInstr op f with | some i => exec i s | none => ok s) := by
  cases op <;> rfl
theorem mdExec_eq (op : Op) (f : MDF) (s : State) : mdExec op f s = (match mdInstr op f with | some i => exec i s | none => ok s) := by
  cases op <;> rfl
theorem mcExec_eq (op : Op) (f : MCF) (s : State) : mcExec op f s = (match mcInstr op f with | some i => exec i s | none => ok s) := by
  cases op <;> rfl
theorem mqExec_eq (op : Op) (f : MQF) (s : State) : mqExec op f s = (match mqInstr op f with | some i => exec i s | none => ok s) := by
  cases op <;> rfl
theorem msExec_eq (op : Op) (f : MSF) (s : State) : msExec op f s = (match msInstr op f with | some i => exec i s | none => ok s) := by
  cases op <;> rfl

/-- A decoded word is run as its instruction; a word of none would change nothing. -/
theorem execCode_eq (c : Code) (s : State) : execCode c s = (match c.instr with | some i => exec i s | none => ok s) := by
  cases c with
  | v op f => exact vExec_eq op f s
  | ma op f => exact maExec_eq op f s
  | rt op f => exact rtExec_eq op f s
  | br op f => exact brExec_eq op f s
  | sp op f => exact spExec_eq op f s
  | en op f => exact enExec_eq op f s
  | ba op f => exact baExec_eq op f s
  | mx op f => exact mxExec_eq op f s
  | md op f => exact mdExec_eq op f s
  | mc op f => exact mcExec_eq op f s
  | mq op f => exact mqExec_eq op f s
  | ms op f => exact msExec_eq op f s

/-- A decoded word is run as its instruction. -/
theorem execCode_instr {c : Code} {i : Instr} (s : State) (h : c.instr = some i) : execCode c s = exec i s := by
  rw [execCode_eq, h]

end Sys2Proof.Machine
end

