-- ==== Sys2Proof/Tests/Base.lean ====
section
/-! SUPPORT. The small states on which the tests run: one team of one group that is about to issue at 0x10000, as withFetchWord places it. -/

set_option Elab.async false

namespace Sys2Proof.Tests
open Sys2Proof Sys2Proof.Machine

/-- One resident team of one whole group of 32 lanes, at U or at S, whose split issues at 0x10000; one page, mapped at its own address. -/
def baseOf (user : Bool) : State :=
  { State.reset with
      groups := [placeGroup]
      teams := [placeTeam user false]
      grids := [{ Grid.dead with hdr := placeHdr false, gx := 1, gy := 1, gz := 1, count := 1, phase := .active }]
      pkg := { Pkg.zero with ctxs := [(0, { Ctx.dead with cfg := 0xA000_0000_0001_0000#64 })] }
      mem := { MemSys.zero with tlb := [placeTlb] }
      cur := { g := 0, e := 0, t := 0, pc := 0x10000, size := 8, word := 0, lit := 0 } }

/-- The same at U, and at S. -/
def base : State := baseOf true
def baseS : State := baseOf false

/-- `base` with its group changed. -/
def withG (f : Group → Group) : State := base.setGroup 0 (f placeGroup)

/-- `base` with registers of its group set. -/
def withV (r : Nat) (x : Nat → Word) : State := withG fun g => { g with regs := { g.regs with v := vecPut g.regs.v r (Vector.ofFn fun L => x L.val) } }
def withS (l : List (Nat × Word)) : State :=
  withG fun g => { g with regs := { g.regs with s := l.foldl (fun v x => vecPut v x.1 x.2) g.regs.s } }

/-- Field values, in the order of the words' bits from the top; the operands are registers. -/
def vf (dst : BitVec 7) (ty : Ty) : VF :=
  { y := false, t := false, msk := 0, dst, sa := 2, sb := 4, sc := 6, ty, rnd := .rne, k := false, ak := false, bk := false, ck := .reg,
    x := false, lit := 0 }
def maf (data ptr idx : BitVec 7) (ty : Ty) : MAF :=
  { y := false, msk := 0, data, ptr, idx, off := 0, ty, rnd := .rne, ik := .vec, ol := false, fn := 0, lit := 0 }
def brf (pred : BitVec 7) (off : BitVec 14) (sel : BitVec 2) : BRF :=
  { y := false, msk := 0, dst := 0, pred, off, hint := false, cpt := false, pk := false, sel, mode := 0, fn := 0, l := false, lit := 0 }
def spf (dst sa : BitVec 7) (sel fn : BitVec 14) : SPF := { y := false, msk := 0, dst, sa, sel, fn }
def enf (dst sa sb sc : BitVec 7) (ty : Ty) : ENF :=
  { y := false, msk := 0, dst, sa, sb, sc, ty, tsel := 0, slot := 0, fn := 0 }
def baf (dst sa : BitVec 7) (bnum : BitVec 4) : BAF := { y := false, msk := 0, dst, sa, bnum, cnt := 0, ck := .imm, fn := 0, lit := 0 }
def rtf (pd pa : BitVec 7) : RTF :=
  { y := false, pd, pa, idx := 0, off := 0, nscope := .die, ik := .none, ol := false, hs := false, nclass := .syn, lit := 0 }
def noWait : MXW := { av := false, ab := 0, wv := false, wb := 0 }

/-- A valid pointer image with W, of home 0: its space, class and scope as R199 codes them, its base, length, format and ABS. -/
def ptrImg (sp cls sc base len : Nat) (ty : Ty) (abs : Bool) : QWord :=
  BitVec.ofNat 128 (base + ty.code.toNat * 2 ^ 57 + 2 ^ 63 + len * 2 ^ 64 + sp * 2 ^ 101 + cls * 2 ^ 104 + sc * 2 ^ 106 +
    (if abs then 2 ^ 109 else 0) + 2 ^ 110)
def ptrRec (sp : Space) (cls : Share) (sc : Scope) (base len : Nat) (ty : Ty) (abs : Bool) : Ptr :=
  { home := 0, w := true, abs, sc, cls, sp, len, ty, base }

/-- The operation answers; a pair whose second part is there. -/
def isOk {α β : Type} (x : Except α β) : Bool := match x with | .ok _ => true | .error _ => false

theorem ok_of_isOk {α β : Type} {x : Except α β} (h : isOk x = true) : ∃ b, x = .ok b := by
  cases x with
  | ok b => exact ⟨b, rfl⟩
  | error _ => cases h

theorem pair_of_isSome {α β : Type} {x : α × Option β} (h : x.2.isSome = true) : ∃ v o, x = (v, some o) := by
  obtain ⟨v, o⟩ := x
  cases o with
  | some o => exact ⟨v, o, rfl⟩
  | none => cases h

end Sys2Proof.Tests
end

