-- ==== Sys2Proof/Tests/Slice0.lean ====
section
/-! SUPPORT. Tests: the ill-formed terms that WellFormed refuses, and the manual's own worked words decoded. -/

set_option Elab.async false

namespace Sys2Proof.Tests
open Sys2Proof Sys2Proof.Machine

/-! ## WellFormed (R56, R61): one ill-formed term for each check -/

/-- ADD.i32 v9, v2, v6, and an MX word of two BF16 matrices: both well-formed. -/
def good : VF := { vf 9 .i32 with sb := 0 }
def goodMx : MXF :=
  { w := noWait, xv := false, xsel := 0, sv := false, sbsel := 0, sbreg := 0, sasel := 0, sareg := 0, bty := .bf16, aty := .bf16,
    breg := 8, aoff := 0, qa := 0, z := true, tcol := 0, trow := 0 }
def goodMd : MDF :=
  { w := noWait, fill := 0, rnd := .rne, dty := .f32, fv := false, dmode := 1, doff := 0x400, qd := 0, tcol := 0, trow := 0 }

theorem wf_good : (Instr.addIntVr good).wf (tableEnv true) = true ∧ (Instr.ld { maf 4 1 2 .f16 with fn := 1 }).wf (tableEnv true) = true ∧
    (Instr.mma goodMx).wf (tableEnv true) = true ∧ (Instr.mdrn goodMd).wf (tableEnv true) = true := by decide +kernel
theorem wf_step4_privileged : (Instr.fwait (spf 20 0 0 0)).wf (tableEnv true) = false ∧
    (Instr.fwait (spf 20 0 0 0)).wf (tableEnv false) = true := by decide +kernel
theorem wf_step5_unused_field : (Instr.addIntVr { good with sb := 1 }).wf (tableEnv true) = false := by decide +kernel
theorem wf_step6_reserved_value : (Instr.cbr { brf 5 10 2 with mode := 3, pk := true }).wf (tableEnv true) = false ∧
    (Instr.cbr { brf 5 10 2 with mode := 2, pk := true }).wf (tableEnv true) = true := by decide +kernel
theorem wf_step7_type : (Instr.addIntVr { good with ty := .f32 }).wf (tableEnv true) = false := by decide +kernel
theorem wf_step8_register : (Instr.addIntUr { good with dst := 64 }).wf (tableEnv true) = false ∧
    (Instr.addIntUr { good with dst := 63 }).wf (tableEnv true) = true := by decide +kernel
theorem wf_step9_pair : (Instr.addIntVr { good with ty := .i64 }).wf (tableEnv true) = false ∧
    (Instr.addIntVr { good with dst := 8, ty := .i64 }).wf (tableEnv true) = true := by decide +kernel
theorem wf_step10_literal : (Instr.addIntVr { good with sc := 0, ck := .lit, lit := 0x100000000 }).wf (tableEnv true) = false ∧
    (Instr.addIntVr { good with sc := 0, ck := .lit, lit := 0xFFFFFFFF }).wf (tableEnv true) = true := by decide +kernel
theorem wf_literal_without_place : (Instr.addIntVr { good with lit := 5 }).wf (tableEnv true) = false := by decide +kernel
theorem wf_step11_uniform_mask : (Instr.addIntUr { good with msk := 1 }).wf (tableEnv true) = false := by decide +kernel
theorem wf_narrow_format : (Instr.dqnt { vf 9 (.nf 1) with sc := 0, ck := .imm }).wf { tableEnv true with fs := Vector.replicate 8 0 } = false ∧
    (Instr.dqnt { vf 9 (.nf 1) with sc := 0, ck := .imm }).wf (tableEnv true) = true := by decide +kernel
theorem wf_event_is_no_word : (Instr.ageCap 0 0).wf (tableEnv true) = false := by decide +kernel
theorem wf_matrix_trow : (Instr.mma { goodMx with trow := 31 }).wf (tableEnv true) = false := by decide +kernel
theorem wf_matrix_types : (Instr.mma { goodMx with aty := .f32 }).wf (tableEnv true) = false ∧
    (Instr.mma { goodMx with aty := .i8, bty := .i8, breg := 9 }).wf (tableEnv true) = false := by decide +kernel
theorem wf_matrix_scales : (Instr.mma { goodMx with sareg := 12 }).wf (tableEnv true) = false ∧
    (Instr.mma { goodMx with xsel := 1 }).wf (tableEnv true) = false := by decide +kernel
theorem wf_matrix_drain : (Instr.mdrn { goodMd with dmode := 4 }).wf (tableEnv true) = false ∧
    (Instr.mzero goodMd).wf (tableEnv true) = false := by decide +kernel
theorem wf_matrix_loop_and_q : (Instr.mjmp { w := noWait, imm := 1, tgt := 0, qc := 0 }).wf (tableEnv true) = false ∧
    (Instr.mqset { w := noWait, imm := 1, ib := false, qb := 0, qa := 0, qd := 0 }).wf (tableEnv true) = false := by decide +kernel

/-! ## Decoding: words that the manual writes out -/

/-- R42. -/
theorem decode_fma : decode (tableEnv true) 0xD050210384082080#64 0#64 =
    some (.fma { y := true, t := true, msk := 2, dst := 5, sa := 1, sb := 4, sc := 7, ty := .f32, rnd := .rne, k := false, ak := false, bk := true, ck := .reg, x := false, lit := 0 }) := by decide +kernel
/-- R43. -/
theorem decode_add_with_literal : decode (tableEnv true) 0x0091200001301804#64 0x186A0#64 =
    some (.addIntVr { y := false, t := false, msk := 0, dst := 9, sa := 9, sb := 0, sc := 0, ty := .i32, rnd := .rne, k := false, ak := false, bk := false, ck := .lit, x := false, lit := 0x186A0 }) := by decide +kernel
/-- R113. -/
theorem decode_xacq : decode (tableEnv true) 0x00000000300002E0#64 0#64 =
    some (.xacq (spf 0 0 0 0)) := by decide +kernel
/-- R117. -/
theorem decode_donate : decode (tableEnv true) 0x00604001B20002E0#64 0#64 =
    some (.donate (spf 6 2 3 0)) := by decide +kernel
/-- R136. -/
theorem decode_lea : decode (tableEnv true) 0x00A100819B581008#64 0#64 =
    some (.leaUr { y := false, t := false, msk := 0, dst := 10, sa := 8, sb := 2, sc := 3, ty := .n64, rnd := .rne, k := false, ak := false, bk := false, ck := .imm, x := false, lit := 0 }) := by decide +kernel
/-- R140. -/
theorem decode_brt : decode (tableEnv true) 0x0000200202000058#64 0#64 =
    some (.brt (brf 1 4 0)) := by decide +kernel
/-- R140. -/
theorem decode_bra : decode (tableEnv true) 0x0000000101000058#64 0#64 =
    some (.bra (brf 0 2 0)) := by decide +kernel
/-- R140. -/
theorem decode_loop : decode (tableEnv true) 0x0000000307082858#64 0#64 =
    some (.loop { brf 0 6 1 with fn := 10 }) := by decide +kernel
/-- R140. -/
theorem decode_ldec : decode (tableEnv true) 0x00001FFE88000058#64 0#64 =
    some (.ldec (brf 0 0x3FFD 0)) := by decide +kernel
/-- R140. -/
theorem decode_join : decode (tableEnv true) 0x0000400013000060#64 0#64 =
    some (.join (spf 0 2 0 0)) := by decide +kernel
/-- R140. -/
theorem decode_mact : decode (tableEnv true) 0x0020000016000060#64 0#64 =
    some (.mact (spf 2 0 0 0)) := by decide +kernel
/-- R140. -/
theorem decode_exit : decode (tableEnv true) 0x1800000014000060#64 0#64 =
    some (.exit { spf 0 0 0 0 with msk := 3 }) := by decide +kernel
/-- R167. -/
theorem decode_rsum : decode (tableEnv true) 0x082020001B080080#64 0#64 =
    some (.rsum { y := false, t := false, msk := 1, dst := 2, sa := 1, sb := 0, sc := 0, ty := .f32, rnd := .rne, k := false, ak := false, bk := false, ck := .reg, x := false, lit := 0 }) := by decide +kernel
/-- R167. -/
theorem decode_cvt : decode (tableEnv true) 0x0870C00091180080#64 0#64 =
    some (.cvt { y := false, t := false, msk := 1, dst := 7, sa := 6, sb := 0, sc := 1, ty := .bf16, rnd := .rne, k := false, ak := false, bk := false, ck := .reg, x := false, lit := 0 }) := by decide +kernel
/-- R185. -/
theorem decode_shdn : decode (tableEnv true) 0x00202000830810C0#64 0#64 =
    some (.shdn { y := false, t := false, msk := 0, dst := 2, sa := 1, sb := 0, sc := 1, ty := .f32, rnd := .rne, k := false, ak := false, bk := false, ck := .imm, x := false, lit := 0 }) := by decide +kernel
/-- R185. -/
theorem decode_rfau : decode (tableEnv true) 0x08302000080800C0#64 0#64 =
    some (.rfau { y := false, t := false, msk := 1, dst := 3, sa := 1, sb := 0, sc := 0, ty := .f32, rnd := .rne, k := false, ak := false, bk := false, ck := .reg, x := false, lit := 0 }) := by decide +kernel
/-- R209. -/
theorem decode_ld : decode (tableEnv true) 0x8040208001100510#64 0#64 =
    some (.ld { maf 4 1 2 .f16 with y := true, fn := 1, ol := false, lit := 0 }) := by decide +kernel
/-- R210. -/
theorem decode_st : decode (tableEnv true) 0x0040414002100510#64 0#64 =
    some (.st { maf 4 2 5 .f16 with y := false, fn := 1, ol := false, lit := 0 }) := by decide +kernel
/-- the FFT program. -/
theorem decode_st_with_offset : decode (tableEnv true) 0x016086C002182514#64 0x200#64 =
    some (.st { maf 22 4 27 .bf16 with y := false, fn := 1, ol := true, lit := 0x200 }) := by decide +kernel
/-- R201. -/
theorem decode_pmake : decode (tableEnv true) 0x001002800910190C#64 0x8000168#64 =
    some (.pmake { y := false, t := false, msk := 0, dst := 1, sa := 0, sb := 10, sc := 0, ty := .f16, rnd := .rne, k := false, ak := false, bk := false, ck := .lit, x := false, lit := 0x8000168 }) := by decide +kernel
/-- R202. -/
theorem decode_padd : decode (tableEnv true) 0x802040100A301108#64 0#64 =
    some (.padd { y := true, t := false, msk := 0, dst := 2, sa := 2, sb := 0, sc := 32, ty := .i32, rnd := .rne, k := false, ak := false, bk := false, ck := .imm, x := false, lit := 0 }) := by decide +kernel
/-- R223. -/
theorem decode_pwiden : decode (tableEnv true) 0x0020200001028950#64 0#64 =
    some (.pwiden (rtf 2 1)) := by decide +kernel
/-- R223. -/
theorem decode_pnarrow : decode (tableEnv true) 0x0060A00002018150#64 0#64 =
    some (.pnarrow { rtf 6 5 with nscope := .clus, nclass := .priv }) := by decide +kernel
/-- R251. -/
theorem decode_aadd_old : decode (tableEnv true) 0x0040404001081190#64 0#64 =
    some (.aadd { maf 4 2 1 .f32 with y := false, fn := 4, ol := false, lit := 0 }) := by decide +kernel
/-- R283. -/
theorem decode_ncopy : decode (tableEnv true) 0x0090C68B850011E8#64 0#64 =
    some (.ncopy { enf 9 6 26 23 .f64 with fn := 4 }) := by decide +kernel
/-- R277. -/
theorem decode_cwait : decode (tableEnv true) 0x00046000070001E8#64 0#64 =
    some (.cwait (enf 0 35 0 0 .f64)) := by decide +kernel
/-- R323. -/
theorem decode_qnt : decode (tableEnv true) 0x08A080C00BC83200#64 0#64 =
    some (.qnt { y := false, t := false, msk := 1, dst := 10, sa := 4, sb := 3, sc := 0, ty := (.nf 1), rnd := .rne, k := false, ak := false, bk := true, ck := .imm, x := false, lit := 0 }) := by decide +kernel
/-- R343. -/
theorem decode_cbr_maj : decode (tableEnv true) 0x0000A00501B40658#64 0#64 =
    some (.cbr { brf 5 10 2 with hint := true, pk := true, mode := 2, fn := 1 }) := by decide +kernel
/-- the ragged program. -/
theorem decode_cbr_any : decode (tableEnv true) 0x0000BFFB81220258#64 0#64 =
    some (.cbr { brf 5 0x3FF7 0 with pk := true, mode := 1 }) := by decide +kernel
/-- R341. -/
theorem decode_fjoin : decode (tableEnv true) 0x0000800082000260#64 0#64 =
    some (.fjoin (spf 0 4 1 0)) := by decide +kernel
/-- R352. -/
theorem decode_fvote_maj : decode (tableEnv true) 0x0000E00004000A60#64 0#64 =
    some (.fvote (spf 0 7 0 2)) := by decide +kernel
/-- R364. -/
theorem decode_coll_ar : decode (tableEnv true) 0x00100003030802A8#64 0#64 =
    some (.collAr { enf 1 0 0 6 .f32 with fn := 0 }) := by decide +kernel
/-- R364. -/
theorem decode_coll_ar_nd : decode (tableEnv true) 0x00100003030812A8#64 0#64 =
    some (.collAr { enf 1 0 0 6 .f32 with fn := 4 }) := by decide +kernel
/-- R375. -/
theorem decode_putr : decode (tableEnv true) 0x002022000A0002A8#64 0#64 =
    some (.putr (enf 2 1 8 0 .f64)) := by decide +kernel
/-- R395. -/
theorem decode_launch : decode (tableEnv true) 0x004040C0010002E8#64 0#64 =
    some (.launch (enf 4 2 3 0 .f64)) := by decide +kernel
/-- R398. -/
theorem decode_spawn : decode (tableEnv true) 0x00010280020002E8#64 0#64 =
    some (.spawn (enf 0 8 10 0 .f64)) := by decide +kernel
/-- R399. -/
theorem decode_preq : decode (tableEnv true) 0x80700000140002E0#64 0#64 =
    some (.preq { spf 7 0 0 0 with y := true }) := by decide +kernel
/-- R399. -/
theorem decode_grdget : decode (tableEnv true) 0x00300001150002E0#64 0#64 =
    some (.grdget (spf 3 0 2 0)) := by decide +kernel
/-- R425. -/
theorem decode_srd : decode (tableEnv true) 0x0010000103000320#64 0#64 =
    some (.srd (spf 1 0 2 0)) := by decide +kernel
/-- R426. -/
theorem decode_fwait : decode (tableEnv false) 0x0140000005000320#64 0#64 =
    some (.fwait (spf 20 0 0 0)) := by decide +kernel
/-- R427. -/
theorem decode_frsm : decode (tableEnv false) 0x0002800006000320#64 0#64 =
    some (.frsm (spf 0 20 0 0)) := by decide +kernel
/-- R433. -/
theorem decode_tlbinv : decode (tableEnv false) 0x000200448A000320#64 0#64 =
    some (.tlbinv (spf 0 16 0x89 0)) := by decide +kernel

/-! Matrix words -/

/-- R58. -/
theorem decode_mma : decodeMx (0x3#64 ++ 0x1880000080011001#64) = some (.mma { goodMx with w := { noWait with wv := true, wb := 1 } }) := by decide +kernel
/-- the FFT program. -/
theorem decode_mma_second_tile : decodeMx (0x3#64 ++ 0x18E00000C0011001#64) = some (.mma { goodMx with w := { noWait with wv := true, wb := 1 }, breg := 14, tcol := 2 }) := by decide +kernel
/-- the FFT program. -/
theorem decode_mma_offset : decodeMx (0x3#64 ++ 0x1880800080011001#64) = some (.mma { goodMx with w := { noWait with wv := true, wb := 1 }, aoff := 2048 }) := by decide +kernel
/-- R330. -/
theorem decode_mma_narrow : decodeMx (0x834199#64 ++ 0xC880000000000001#64) = some (.mma { goodMx with aty := .nf 1, bty := .nf 1, z := false, sv := true, sareg := 12, sbreg := 13 }) := by decide +kernel
/-- R330. -/
theorem decode_mma_perm : decodeMx (0x5834199#64 ++ 0xC880000000000001#64) = some (.mma { goodMx with aty := .nf 1, bty := .nf 1, z := false, sv := true, sareg := 12, sbreg := 13, xv := true, xsel := 1 }) := by decide +kernel
/-- R59. -/
theorem decode_mdrn_mean : decodeMx (0#64 ++ 0x0110400000000110#64) = some (.mdrn goodMd) := by decide +kernel
/-- the ragged program. -/
theorem decode_mdrn_count : decodeMx (0#64 ++ 0x0A20C00000000110#64) = some (.mdrn { goodMd with dty := .n32, dmode := 2, doff := 3072 }) := by decide +kernel
/-- R60. -/
theorem decode_msync : decodeMx (0#64 ++ 0x240440#64) = some (.msync { w := { noWait with av := true, ab := 2 } }) := by decide +kernel
/-- R60. -/
theorem decode_mend : decodeMx (0#64 ++ 0x441#64) = some (.mend { w := noWait }) := by decide +kernel
/-- R60. -/
theorem decode_mqld : decodeMx (0x1C04#64 ++ 0x0000001001000336#64) = some (.mqld { w := noWait, imm := 0x1C04, ib := true, qb := 0, qa := 0, qd := 1 }) := by decide +kernel
/-- R301. -/
theorem decode_mdjnz : decodeMx (0#64 ++ 0x0000FFFD02000222#64) = some (.mdjnz { w := noWait, imm := 0, tgt := 0xFFFD, qc := 2 }) := by decide +kernel
/-- the FFT program. -/
theorem decode_mdjnz_tile : decodeMx (0#64 ++ 0x0000FFF101000222#64) = some (.mdjnz { w := noWait, imm := 0, tgt := 0xFFF1, qc := 1 }) := by decide +kernel
/-- the ragged program. -/
theorem decode_mjmp : decodeMx (0#64 ++ 0x0000FFFC00000220#64) = some (.mjmp { w := noWait, imm := 0, tgt := 0xFFFC, qc := 0 }) := by decide +kernel

/-! ## Words that are no instruction -/

/-- R54. -/
theorem decode_empty : decodeCode (tableEnv true) 0#64 0 = .error (.ill 3) ∧ decodeCode (tableEnv true) (BitVec.allOnes 64) 0 = .error (.ill 1) := by
  decide +kernel
/-- R56, the worked FMA word with bits [23:19] = 17, and RSUM with AK = 1. -/
theorem decode_refused : decodeCode (tableEnv true) 0xD050210384882080#64 0 = .error (.ill 5) ∧
    decodeCode (tableEnv true) 0x082020001B084080#64 0 = .error (.ill 4) := by decide +kernel
/-- R56, step 4. -/
theorem decode_privileged : decodeCode (tableEnv true) 0x0140000005000320#64 0 = .error .priv := by decide +kernel
/-- R61: TROW 31. -/
theorem decode_mx_refused : decodeMx (0x3#64 ++ 0x188000009F011001#64) = none := by decide +kernel

/-! ## Encoding: the manual's bytes -/

/-- R42. -/
theorem encode_fma : encode (.fma { y := true, t := true, msk := 2, dst := 5, sa := 1, sb := 4, sc := 7, ty := .f32, rnd := .rne, k := false, ak := false, bk := true, ck := .reg, x := false, lit := 0 }) = [0x80, 0x20, 0x08, 0x84, 0x03, 0x21, 0x50, 0xD0] := by decide +kernel
/-- The manual's stored bytes of the first MMA word. -/
theorem encode_mma : encode (.mma { goodMx with w := { noWait with wv := true, wb := 1 } }) =
    [0x01, 0x10, 0x01, 0x80, 0x00, 0x00, 0x80, 0x18, 0x03, 0, 0, 0, 0, 0, 0, 0] := by decide +kernel

end Sys2Proof.Tests
end

