-- ==== Sys2Proof/Tests/WitnessCopy.lean ====
section
/-! SUPPORT. Concrete states and operands that meet the hypotheses of the statements: copy commands, batches, the accumulator store, tiles and
narrow formats. -/

set_option Elab.async false

namespace Sys2Proof.Tests
open Sys2Proof Sys2Proof.Machine Sys2Proof.Claims

/-- A sequencer at 0x10000 with one entry in its store. -/
def someSeq : Seq :=
  { pc := 0x10000, st := .run, wdone := false, waitOn := 0, cause := 0, q := Vector.replicate 16 0, acc := [(511 * 64 + 63, 5)] }

/-- p1 to p4: I32 at scratchpad 0, at 0x80, at 0x10000, at 0x10100, four each; p5 F32 at 0x40; p6 the window of another core; p7 and p8 LOC of
one element; s4 is 1, s6 the grid 1 × 1 by 1 and 1, s10 the last entry, s11 the shape 1 × 1; v2 holds 0. -/
def copyGroup : Group :=
  { placeGroup with
      regs := { placeGroup.regs with
        s := #[(4, 1), (20, 1), (21, 1), (22, 1), (23, 1), (10, BitVec.ofNat 32 (511 + 63 * 2 ^ 16)), (11, 0x10001),
          (12, BitVec.ofNat 32 (480 + 63 * 2 ^ 16))].foldl (fun v x => vecPut v x.1 x.2) placeGroup.regs.s
        m := vecPut placeGroup.regs.m 1 1
        p := #[(1, ptrImg 1 0 0 0 4 .i32 false), (2, ptrImg 1 0 0 0x80 4 .i32 false), (3, ptrImg 0 0 0 0x10000 4 .i32 false),
          (4, ptrImg 0 0 0 0x10100 4 .i32 false), (5, ptrImg 1 0 0 0x40 4 .f32 false), (6, ptrImg 3 0 1 0x100 4 .i32 false)].foldl
            (fun v x => vecPut v x.1 x.2) placeGroup.regs.p } }
def copyState : State := (base.setGroup 0 copyGroup).modTeam 0 fun u => { u with seq := some someSeq }

def cp (sp : Space) (base : Nat) (ty : Ty) : Ptr :=
  ptrRec sp .priv (if sp == .nbr then .clus else .core) base 4 ty false

/-! ## Copy commands -/

theorem witness_CopyFormsCreateOneCommand_cpy : let s := copyState
    let f := enf 1 2 4 0 .f64
    let g := s.cg
    IssuesSplit s ∧ NotAhead s ∧ s.cmdRoom = true ∧ s.ptrCheck2 s.cur.g (some (g.preg f.dst.toNat)) (some (g.preg f.sa.toNat)) = none ∧
    ptrOf (g.preg f.dst.toNat) = some (cp .loc 0 .i32) ∧ ptrOf (g.preg f.sa.toNat) = some (cp .loc 0x80 .i32) ∧
    pairOk g.nf .rne .i32 .i32 = true ∧ g.sreg f.sb.toNat ≠ ones32 ∧
    s.rangeBad g.nf g.team (some (cp .loc 0x80 .i32)) (some (cp .loc 0 .i32)) (CmdTab.lin (g.sreg f.sb.toNat).toNat).pairs = none ∧
    gridTab g (enf 1 2 20 0 .f64).sb.toNat = some (.grid 1 1 1 1) ∧
    s.rangeBad g.nf g.team (some (cp .loc 0x80 .i32)) (some (cp .loc 0 .i32)) (CmdTab.grid 1 1 1 1).pairs = none ∧ g.objOf f = none := by
  decide +kernel

theorem witness_CopyFormsCreateOneCommand_remote : let s := copyState
    let f := enf 3 1 4 0 .f64
    let g := s.cg
    IssuesSplit s ∧ s.cmdRoom = true ∧ s.ptrCheck2 s.cur.g (some (g.preg 3)) (some (g.preg 1)) = none ∧
    ptrOf (g.preg f.dst.toNat) = some (cp .glb 0x10000 .i32) ∧ ptrOf (g.preg f.sa.toNat) = some (cp .loc 0 .i32) ∧
    (cp .glb 0x10000 .i32).ty = (cp .loc 0 .i32).ty ∧
    s.rangeBad g.nf g.team (some (cp .loc 0 .i32)) (some (cp .glb 0x10000 .i32)) (CmdTab.lin 1).pairs = none ∧
    s.ptrCheck2 s.cur.g (some (g.preg 1)) (some (g.preg 3)) = none ∧
    s.rangeBad g.nf g.team (some (cp .glb 0x10000 .i32)) (some (cp .loc 0 .i32)) (CmdTab.lin 1).pairs = none := by
  decide +kernel

theorem witness_CopyFormsCreateOneCommand_ncopy : let s := copyState
    let f := enf 6 1 4 0 .f64
    let g := s.cg
    IssuesSplit s ∧ s.cmdRoom = true ∧ s.ptrCheck2 s.cur.g (some (g.preg f.dst.toNat)) (some (g.preg f.sa.toNat)) = none ∧
    ptrOf (g.preg f.dst.toNat) = some (cp .nbr 0x100 .i32) ∧ ptrOf (g.preg f.sa.toNat) = some (cp .loc 0 .i32) ∧
    s.rangeBad g.nf g.team (some (cp .loc 0 .i32)) (some (cp .nbr 0x100 .i32)) (CmdTab.lin 1).pairs = none := by
  decide +kernel

theorem witness_CopyFormsCreateOneCommand_fill : let s := copyState
    let f := enf 1 4 4 0 .i32
    let g := s.cg
    IssuesSplit s ∧ NotAhead s ∧ s.cmdRoom = true ∧ s.ptrCheck2 s.cur.g (some (g.preg f.dst.toNat)) none = none ∧
    ptrOf (g.preg f.dst.toNat) = some (cp .loc 0 .i32) ∧ pairOk g.nf .rne f.ty .i32 = true ∧
    s.rangeBad g.nf g.team none (some (cp .loc 0 .i32)) (CmdTab.lin 1).pairs = none := by
  decide +kernel

/-- The last entry of the accumulator store. -/
theorem witness_CopyFormsCreateOneCommand_acc : let s := copyState
    let f := enf 5 10 11 0 .f32
    let g := s.cg
    let p := cp .loc 0x40 .f32
    IssuesSplit s ∧ NotAhead s ∧ s.cmdRoom = true ∧ ptrOf (g.preg f.dst.toNat) = some p ∧ p.sp = .loc ∧ p.ty = f.ty ∧
    accTile (g.sreg f.sa.toNat) (g.sreg f.sb.toNat) = some (.acc 511 63 1 1) ∧ s.seqOf g.team = some someSeq ∧
    s.ptrCheck2 s.cur.g none (some (g.preg f.dst.toNat)) = none ∧ s.rangeBad g.nf g.team (some p) none (CmdTab.acc 511 63 1 1).pairs = none ∧
    s.ptrCheck2 s.cur.g (some (g.preg f.dst.toNat)) none = none ∧ s.rangeBad g.nf g.team none (some p) (CmdTab.acc 511 63 1 1).pairs = none := by
  decide +kernel

theorem witness_CopyFormsCreateOneCommand_gather : let s := copyState
    let f := { maf 1 2 2 .f64 with msk := 1 }
    let g := s.cg
    let sp := cp .loc 0x80 .i32
    let dp := cp .loc 0 .i32
    IssuesSplit s ∧ NotAhead s ∧ s.cmdRoom = true ∧ s.ptrCheck2 s.cur.g (some (g.preg f.data.toNat)) (some (g.preg f.ptr.toNat)) = none ∧
    ptrOf (g.preg f.data.toNat) = some dp ∧ ptrOf (g.preg f.ptr.toNat) = some sp ∧ pairOk g.nf .rne dp.ty sp.ty = true ∧
    lanesOf (s.act f.msk) = [0] ∧ g.maFirst f 0 = some 0 ∧ s.inRange g.nf g.team sp 0 = true ∧ s.inRange g.nf g.team dp 0 = true := by
  decide +kernel

/-! ## Their completion -/

/-- A command of one element. -/
def oneCmd (kind : CmdKind) (dst src : Nat) (ty : Ty) (tab : CmdTab) : Cmd :=
  { copyState.cmdOf kind 1 with id := 3, dst := copyState.cg.preg dst, src := copyState.cg.preg src, ty, tab }
def cmdState (c : Cmd) : State := { copyState with cmds := [c], cmdNo := 4 }
def locElem (o : Nat) : Elem := { place := .pad 0 o, nib := none, bytes := 4, leaf := none }
def memElemAt (pa : Nat) : Elem :=
  { place := .mem pa, nib := none, bytes := 4, leaf := some { base := 0x10000, size := 4096, leaf := 0x8E00_0000_0001_0C00#64, ea := 0x8080 } }

theorem witness_CopyCommandsComplete_cpy : let c := oneCmd .cpy 1 2 .i32 (.lin 1)
    let s := cmdState c
    let ms : List Move := [(some (locElem 0x80), some (locElem 0))]
    MemCanonical s ∧ s.liveCmd 3 = some c ∧ c.obj = none ∧ c.team < s.teams.length ∧ c.sptr = some (cp .loc 0x80 .i32) ∧
    c.dptr = some (cp .loc 0 .i32) ∧ s.cmdMoves c c.sptr c.dptr [] (c.tab.pairs.drop c.pos) = (ms, none) ∧ (∀ e ∈ c.sptr.elim [] (fun p => s.elemsAt c p .load (c.tab.pairs.filterMap (·.1))), Elem.meets (locElem 0) e = false) ∧
    tracked (cp .loc 0 .i32).cls (cp .loc 0 .i32).sc = false ∧ ∀ e ∈ [locElem 0, locElem 0x80], e.leaf = none ∧ s.waits e.place = false := by
  decide +kernel

/-- The same with its first element done before a fault that has been resolved. -/
theorem witness_CopyCommandsComplete_rest : let c := { oneCmd .cpy 1 2 .i32 (.lin 2) with pos := 1 }
    let s := cmdState c
    s.liveCmd 3 = some c ∧ s.cmdMoves c c.sptr c.dptr [] (c.tab.pairs.drop c.pos) = ([(some (locElem 0x84), some (locElem 4))], none) ∧
    (∀ e ∈ c.sptr.elim [] (fun p => s.elemsAt c p .load (c.tab.pairs.filterMap (·.1))), Elem.meets (locElem 4) e = false) := by
  decide +kernel

theorem witness_CopyCommandsComplete_fill : let c := oneCmd .cfill 1 0 .i32 (.lin 1)
    let s := cmdState c
    MemCanonical s ∧ s.liveCmd 3 = some c ∧ c.obj = none ∧ c.team < s.teams.length ∧ c.dptr = some (cp .loc 0 .i32) ∧
    s.cmdMoves c none c.dptr [] (c.tab.pairs.drop c.pos) = ([(none, some (locElem 0))], none) ∧ s.waits (locElem 0).place = false := by
  decide +kernel

theorem witness_CopyCommandsComplete_accst : let c := oneCmd .accst 5 0 .f32 (.acc 511 63 1 1)
    let s := cmdState c
    MemCanonical s ∧ s.liveCmd 3 = some c ∧ c.obj = none ∧ c.team < s.teams.length ∧ c.dptr = some (cp .loc 0x40 .f32) ∧
    s.seqOf c.team = some someSeq ∧ s.cmdMoves c none c.dptr [] (c.tab.pairs.drop c.pos) = ([(none, some (locElem 0x40))], none) ∧
    s.cmdOpen c 511 1 63 1 = [] := by
  decide +kernel

theorem witness_CopyCommandsComplete_accld : let c := oneCmd .accld 0 5 .f32 (.acc 511 63 1 1)
    let s := cmdState c
    MemCanonical s ∧ s.liveCmd 3 = some c ∧ c.obj = none ∧ c.team < s.teams.length ∧ c.sptr = some (cp .loc 0x40 .f32) ∧
    s.seqOf c.team = some someSeq ∧ s.cmdMoves c c.sptr none [] (c.tab.pairs.drop c.pos) = ([(some (locElem 0x40), none)], none) ∧
    s.cmdOpen c 511 1 63 1 = [] ∧ (someSeq.acc.map (·.1)).Pairwise (· < ·) ∧ 63 + 1 ≤ 64 := by
  decide +kernel

theorem witness_CopyCommandsComplete_getr : let c := oneCmd .getr 1 3 .i32 (.lin 1)
    let s := cmdState c
    MemCanonical s ∧ s.liveCmd 3 = some c ∧ c.obj = none ∧ c.team < s.teams.length ∧ c.sptr = some (cp .glb 0x10000 .i32) ∧
    c.dptr = some (cp .loc 0 .i32) ∧ s.cmdMoves c c.sptr c.dptr [] (c.tab.pairs.drop c.pos) = ([(some (memElemAt 0x10000), some (locElem 0))], none) ∧
    (∀ e ∈ c.sptr.elim [] (fun p => s.elemsAt c p .load (c.tab.pairs.filterMap (·.1))), Elem.meets (locElem 0) e = false) ∧ c.sentAt = none ∧ s.freeNumber (s.cmdSource c) = some 0 ∧
    s.packets false (s.cmdSource c) 0 (c.sptr.elim [] fun p => s.elemsAt c p .load (c.tab.pairs.filterMap (·.1))) = [] ∧ s.waits (locElem 0).place = false ∧ s.waits (memElemAt 0x10000).place = false := by
  decide +kernel

theorem witness_CopyCommandsComplete_putr : let c := oneCmd .putr 3 1 .i32 (.lin 1)
    let s := cmdState c
    MemCanonical s ∧ s.liveCmd 3 = some c ∧ c.obj = none ∧ c.team < s.teams.length ∧ (s.team c.team).user = true ∧
    c.sptr = some (cp .loc 0 .i32) ∧ c.dptr = some (cp .glb 0x10000 .i32) ∧
    s.cmdMoves c c.sptr c.dptr [] (c.tab.pairs.drop c.pos) = ([(some (locElem 0), some (memElemAt 0x10000))], none) ∧
    (∀ e ∈ c.sptr.elim [] (fun p => s.elemsAt c p .load (c.tab.pairs.filterMap (·.1))), Elem.meets (memElemAt 0x10000) e = false) ∧ c.sentAt = none ∧ s.freeNumber (s.cmdSource c) = some 0 ∧
    s.packets true (s.cmdSource c) 0 (s.elemsAt c (cp .glb 0x10000 .i32) .store (c.tab.pairs.map (·.2))) = [] ∧ s.mem.ownedFar (0x10000 / 128) = false ∧
    s.waits (locElem 0).place = false ∧ s.waits (memElemAt 0x10000).place = false ∧ bit (0x8E00_0000_0001_0C00#64) 10 = true ∧
    bit (0x8E00_0000_0001_0C00#64) 11 = true ∧ isIo 0x10000 = false ∧ 0x10000 % 128 + 4 ≤ 128 ∧ s.mem.lines = [] := by
  decide +kernel

/-- The page lies in package 1. -/
def farState (c : Cmd) : State :=
  let s := cmdState c
  { s with mem := { s.mem with tlb := s.mem.tlb.map fun t => { t with leaf := t.leaf ||| (1#64 <<< 43) } } }

/-- A GETR and a PUTR of an element there, before their packets leave, and the same with one packet sent, and answered. -/
theorem witness_CopyCommandsComplete_far : let get := oneCmd .getr 1 3 .i32 (.lin 1)
    let put := oneCmd .putr 3 1 .i32 (.lin 1)
    let back := { get with sentAt := some (5, [0]), back := [(0, 2 ^ 43 + 0x10000, [1, 2, 3, 4])] }
    let sent := { put with sentAt := some (5, [0]) }
    let sources (s : State) (c : Cmd) := c.sptr.elim [] fun p => s.elemsAt c p .load (c.tab.pairs.filterMap (·.1))
    let dests (s : State) (c : Cmd) := c.dptr.elim [] fun p => s.elemsAt c p .store (c.tab.pairs.map (·.2))
    (∀ c ∈ [get, put, back, sent], let s := farState c
      MemCanonical s ∧ s.liveCmd 3 = some c ∧ c.obj = none ∧ c.team < s.teams.length ∧ c.sptr.isSome = true ∧ c.dptr.isSome = true ∧
      (∀ e ∈ sources s c ++ dests s c, s.waits e.place = false) ∧ s.freeNumber (s.cmdSource c) = some 0) ∧
    (farState get).packets false ((farState get).cmdSource get) 0 (sources (farState get) get) ≠ [] ∧ get.sentAt = none ∧
    ((farState back).cmdMoves back back.sptr back.dptr [] (back.tab.pairs.drop back.pos)).2 = none ∧ ([0] : List Nat).length ≤ back.back.length ∧
    [0].all (farState sent).ackedMsg = false ∧
    (let m := Msg.remote 1 0 5 0 0 []
     let s := { farState sent with out := [m], pkg := { (farState sent).pkg with ackedOut := [0] } }
     [0].all s.ackedMsg = true ∧ s.liveCmd 3 = some sent) := by
  decide +kernel

/-! ## Batches and the accumulator store -/

theorem witness_BatchesAndAccumulatorColumnsComplete : let s := copyState
    let b := s.cg.batches
    IssuesSplit s ∧ NotAhead s ∧ TeamHeld s ∧ s.ownerNo < s.groups.length ∧ (b.closed - b.done).toNat < 15 ∧ (enf 63 0 0 0 .f64).dst.toNat < 64 ∧ b.done = b.closed ∧
    (∀ c ∈ s.cmds, c.group ≠ s.cur.g) ∧ (b.done - b.closed).toNat < 2 ^ 31 ∧ bit b.csw 31 = false := by
  decide +kernel

/-- Fifteen batches are open; batch 15 is awaited; batch 0 has failed. -/
theorem witness_BatchesAndAccumulatorColumnsComplete_open : let s := base.setGroup 0 { placeGroup with
      batches := { closed := 15, done := 0, csw := 0x80000000 }, regs := { placeGroup.regs with s := vecPut placeGroup.regs.s 1 15 } }
    let b := s.cg.batches
    let w (f : ENF) := if (b.closed - s.cg.sreg f.sa.toNat).toNat ≥ 2 ^ 31 then b.closed else s.cg.sreg f.sa.toNat
    IssuesSplit s ∧ NotAhead s ∧ 15 ≤ (b.closed - b.done).toNat ∧ (b.done - w (enf 0 1 0 0 .f64)).toNat ≥ 2 ^ 31 ∧
    (b.done - w (enf 0 2 0 0 .f64)).toNat < 2 ^ 31 ∧ bit b.csw 31 = true ∧
    ((bits (w (enf 0 2 0 0 .f64)) 0 16 : BitVec 16) - bits b.csw 0 16).toNat < 2 ^ 15 := by
  decide +kernel

/-- A fresh group, whose batches are those of its host, group 1. -/
theorem witness_BatchesAndAccumulatorColumnsComplete_fresh :
    let s := { base with groups := [{ placeGroup with homes := [(1, 0)], host := 1 }, placeGroup] }
    IssuesSplit s ∧ NotAhead s ∧ s.ownerNo = 1 ∧ s.ownerNo < s.groups.length ∧ (s.owner.batches.closed - s.owner.batches.done).toNat < 15 := by
  decide +kernel

theorem witness_BatchesAndAccumulatorColumnsComplete_columns : let s := copyState
    let f := enf 126 12 0 0 .f32
    IssuesSplit s ∧ NotAhead s ∧ TeamHeld s ∧ accPos (s.cg.sreg f.sa.toNat) = some (480, 63) ∧ 480 ≤ 480 ∧ s.ct.seq = some someSeq ∧
    (someSeq.acc.map (·.1)).Pairwise (· < ·) := by
  decide +kernel

/-! ## Tiles and narrow formats -/

theorem witness_TilesAreSetAndRead : IssuesSplit base ∧ NotAhead base := by decide +kernel

theorem witness_NarrowFormsComplete : IssuesSplit base ∧ NotAhead base ∧ TeamHeld base ∧ (vf 7 .b32).dst.toNat < 8 ∧
    (vf 63 .b32).dst.toNat < 64 ∧ (vf 3 .b32).dst.toNat < 4 ∧ (vf 127 (.nf 7)).dst.toNat < 128 := by
  decide +kernel

end Sys2Proof.Tests
end

