-- ==== Sys2Proof/Tests/WitnessCore.lean ====
section
/-! SUPPORT. Concrete states and operands that meet the hypotheses of the statements: encoding, the step, classes 0 to 3. -/

set_option Elab.async false

namespace Sys2Proof.Tests
open Sys2Proof Sys2Proof.Machine Sys2Proof.Claims

/-! ## Encoding and the step -/

theorem witness_GroupWordsDecodeBack : (Instr.addIntVr { vf 127 .i32 with sb := 0 }).code = some (.v .addIntVr { vf 127 .i32 with sb := 0 }) ∧
    (Code.v .addIntVr { vf 127 .i32 with sb := 0 }).isMatrix = false ∧ (Instr.addIntVr { vf 127 .i32 with sb := 0 }).wf (tableEnv true) = true := by
  decide +kernel

theorem witness_MatrixWordsDecodeBack : (Instr.mend { w := noWait }).code = some (.ms .mend { w := noWait }) ∧
    (Code.ms .mend { w := noWait }).isMatrix = true ∧ (Instr.mend { w := noWait }).wf (tableEnv true) = true := by
  decide +kernel

/-- The step goes on. -/
def goesOn (o : Host.Outcome State Fault Refusal) : Bool := match o with | .next _ => true | _ => false

theorem next_of_goesOn {o : Host.Outcome State Fault Refusal} (h : goesOn o = true) : ∃ t, o = .next t := by
  cases o with
  | next t => exact ⟨t, rfl⟩
  | fault _ => cases h
  | refused _ => cases h

theorem witness_StepsKeepMemoryCanonical : MemCanonical base ∧ ∃ t, step base = .next t :=
  ⟨by decide +kernel, next_of_goesOn (by decide +kernel)⟩

/-- Two clusters have copies of two lines, and one owns the first. -/
def sharedState : State :=
  let l (clus line : Nat) (st : LineSt) : Line := { clus, line, st, data := 5, dirty := 0, rel := none }
  { base with mem := { base.mem with lines := [l 0 0x400 .tm, l 1 0x400 .uc, l 0 0x401 .ts, l 1 0x401 .ts] } }

theorem witness_StepsKeepOneOwner : Tidy sharedState ∧ ∃ t, step sharedState = .next t :=
  ⟨by decide +kernel, next_of_goesOn (by decide +kernel)⟩

/-- A NOP word at the PC of `base`. -/
def nopState : State := { base with mem := { base.mem with cells := cellsWrite [] 0x10000 (encode (.nop (spf 0 0 0 0))) } }

theorem witness_StepRunsTheDecodedInstruction :
    let s := nopState
    let s2 := s.aged (some (0, 0))
    let w : DWord := BitVec.ofNat 64 (leNat (encode (.nop (spf 0 0 0 0))))
    let s3 := s2.fetched 0 0x10000 w
    let s4 := { s3 with cur := { s3.cur with g := 0, e := 0, pc := ((s3.group 0).set 0).pc, size := 8, word := w, lit := 0 } }
    Moves s s (.split 0 0) ∧ s2.fetch 0 ((s2.group 0).set 0).pc = .ok (w, 0) ∧ decode (s4.decEnv 0) w 0 = some (.nop (spf 0 0 0 0)) ∧
    (s4.cg.retype.isSome && heldByRetype (wClass w)) = false ∧ regRange (wordOpnds (s4.decEnv 0) w) s4.cg = false ∧
    overlaps (wordOpnds (s4.decEnv 0) w) = false ∧ ∃ t, exec (.nop (spf 0 0 0 0)) s4 = .next t :=
  ⟨⟨rfl, .inl ⟨by decide +kernel, rfl⟩⟩, by decide +kernel, by decide +kernel, by decide +kernel, by decide +kernel, by decide +kernel,
    next_of_goesOn (by decide +kernel)⟩

theorem witness_StepRunsTheDecodedInstruction_input : let s := { base with inputs := [Instr.ageCap 0 0] }
    s.inputs = Instr.ageCap 0 0 :: [] ∧ ∃ t, exec (.ageCap 0 0) { s with inputs := [], cur := { s.cur with size := 8 } } = .next t :=
  ⟨rfl, next_of_goesOn (by decide +kernel)⟩

/-! ## Class 0 -/

theorem witness_ElementwiseFormsComplete : IssuesSplit base ∧ FitsPlace base.cg (vf 126 .i64).ty ∧
    DstFits false (vf 126 .i64).dst.toNat (vf 126 .i64).ty.regs ∧ DstFits true (vf 62 .i64).dst.toNat (vf 62 .i64).ty.regs := by
  decide +kernel

/-- The first form of each list, VR and UR. -/
theorem witness_ElementwiseFormsComplete_forms (f : VF) :
    (⟨false, .addIntVr f, srcAC false f, intElem f.ty f.k opAdd⟩ : ElemForm) ∈ arithForms f ++ bitForms f ∧
    (⟨true, .addIntUr f, srcAC true f, intElem f.ty f.k opAdd⟩ : ElemForm) ∈ arithForms f ++ bitForms f :=
  ⟨.head _, .tail _ (.head _)⟩

theorem witness_DivisionNeverTraps : IssuesSplit base ∧ ((vf 127 .n32).ty.isI ∨ (vf 127 .n32).ty.isN) ∧
    (vf 127 .n32).dst.toNat + (vf 127 .n32).ty.regs ≤ 128 ∧ ((vf 126 .i64).ty.isI ∨ (vf 126 .i64).ty.isN) ∧
    (vf 126 .i64).dst.toNat + (vf 126 .i64).ty.regs ≤ 128 := by
  decide +kernel

theorem witness_SelectionAndMaskFormsComplete : IssuesSplit base ∧ FitsPlace base.cg (vf 7 .b64).ty ∧
    (vf 7 .b64).dst.toNat < 8 ∧ (vf 63 .i32).dst.toNat < 64 ∧ (vf 126 .b64).dst.toNat + (vf 126 .b64).ty.regs ≤ 128 ∧
    (vf 62 .b64).dst.toNat + (vf 62 .b64).ty.regs ≤ 64 ∧ (vf 126 .n64).dst.toNat + 2 ≤ 128 ∧ (vf 62 .n64).dst.toNat + 2 ≤ 64 ∧
    (vf 127 .i32).dst.toNat + 1 ≤ 128 ∧ (vf 63 .i32).dst.toNat + 1 ≤ 64 := by
  decide +kernel

/-- EXT.i32.i8: the second type is code 4. -/
theorem witness_SelectionAndMaskFormsComplete_ext : let f : VF := { vf 127 .i32 with sc := 4 }
    let h : VF := { vf 63 .i32 with sc := 4 }
    IssuesSplit base ∧ tyOfCode (f.sc.setWidth 5) = some .i8 ∧ f.dst.toNat + f.ty.regs ≤ 128 ∧ tyOfCode (h.sc.setWidth 5) = some .i8 ∧
    h.dst.toNat + h.ty.regs ≤ 64 := by
  decide +kernel

/-! ## Class 1 -/

/-- A branch is clear where every lane's target can be fetched. -/
theorem clear_of {s : State} {j : Jump} (h : ∀ L, L < 32 → bit s.cset.lanes L = true →
    (j.takes L = true → (j.reg = true → badTarget (j.target L) = false) ∧ isOk (s.codeWord s.cur.g (j.target L).toNat) = true) ∧
      NoJoinAt s.cg (j.dest s L)) : j.Clear s :=
  fun L hL hb => ⟨fun ht => ⟨((h L hL hb).1 ht).1, ok_of_isOk ((h L hL hb).1 ht).2⟩, (h L hL hb).2⟩

theorem witness_BranchesSendEachLane_bra : let f := brf 0 2 0
    let j : Jump := ⟨.bra f, false, fun L => bit (base.act f.msk) L, fun _ => base.brTarget f⟩
    (∃ f, j ∈ brForms base f) ∧ IssuesSplit base ∧ NotAhead base ∧ j.Clear base :=
  ⟨⟨_, .head _⟩, by decide +kernel, by decide +kernel, clear_of (by decide +kernel)⟩

/-- The pairs s2 and v2 hold the address 0x10008. -/
def jumpState : State :=
  withG fun g => { g with regs := { g.regs with s := vecPut g.regs.s 2 0x10008, v := vecPut g.regs.v 2 (Vector.replicate 32 0x10008) } }

theorem witness_BranchesSendEachLane_jmpr : let f := spf 0 2 0 0
    let j : Jump := ⟨.jmpr f, true, bit (jumpState.act f.msk), fun _ => jumpState.cg.spair f.sa.toNat⟩
    (∃ f, j ∈ jmpForms jumpState f) ∧ IssuesSplit jumpState ∧ NotAhead jumpState ∧ j.Clear jumpState :=
  ⟨⟨_, .head _⟩, by decide +kernel, by decide +kernel, clear_of (by decide +kernel)⟩

theorem witness_BranchesSendEachLane_call : let f : BRF := { brf 0 2 0 with dst := 62 }
    let tgt := base.brTarget f
    IssuesSplit base ∧ NotAhead base ∧ f.dst.toNat + 2 ≤ 64 ∧ (⟨.call f, false, bit (base.act f.msk), fun _ => tgt⟩ : Jump).Clear base :=
  ⟨by decide +kernel, by decide +kernel, by decide +kernel, clear_of (by decide +kernel)⟩

theorem witness_BranchesSendEachLane_callr : let f := spf 62 2 0 0
    let tgt := jumpState.cg.spair f.sa.toNat
    IssuesSplit jumpState ∧ NotAhead jumpState ∧ f.dst.toNat + 2 ≤ 64 ∧
    (⟨.callr f, true, bit (jumpState.act f.msk), fun _ => tgt⟩ : Jump).Clear jumpState :=
  ⟨by decide +kernel, by decide +kernel, by decide +kernel, clear_of (by decide +kernel)⟩

theorem witness_LoopFormsComplete_loop : let f : BRF := { brf 0 2 2 with fn := 1 }
    let z : BRF := { brf 0 2 2 with fn := 0 }
    IssuesSplit base ∧ loopCount base f ≠ 0 ∧
    JoinsRest base.cg (ended base (vecPut base.cg.regs.lc 2 (loopCount base f))
      ({ n := 2, start := base.afterPc, stop := base.brTarget f } :: (popLoops 2 base.cg.loops).1)).1 ∧
    loopCount base z = 0 ∧ base.after base.cur.g (base.brTarget z) = .ok 0x10018#64 ∧ JoinsRest base.cg 0x10018#64 := by
  decide +kernel

/-- The loop counters are 2, 1 and 0. -/
def loopState : State := withG fun g => { g with regs := { g.regs with lc := #v[2, 1, 0] } }

theorem witness_LoopFormsComplete_counters : let s := loopState
    IssuesSplit s ∧ 2 ≤ (vecAt s.cg.regs.lc (brf 0 2 0).sel.toNat 0).toNat ∧ Reachable s false (s.brTarget (brf 0 2 0)) ∧ JoinsRest s.cg (s.brTarget (brf 0 2 0)) ∧
    (vecAt s.cg.regs.lc (brf 0 2 1).sel.toNat 0).toNat < 2 ∧
    JoinsRest s.cg (ended s (vecPut s.cg.regs.lc 1 0) s.cg.loops).1 ∧ (spf 63 0 2 0).dst.toNat < 64 ∧
    JoinsRest s.cg (ended s (vecPut s.cg.regs.lc 2 (s.cg.sreg 0)) s.cg.loops).1 :=
  ⟨by decide +kernel, by decide +kernel, ⟨fun h => (Bool.noConfusion h), ok_of_isOk (by decide +kernel)⟩, by decide +kernel⟩

theorem witness_QuietFormsGoOn : IssuesSplit base ∧ JoinsRest base.cg (ended base base.cg.regs.lc base.cg.loops).1 ∧
    (spf 7 0 0 0).dst.toNat < 8 := by
  decide +kernel

/-- A whole-machine loop record of lc0, lc1 or lc2: its end address meets, its counter is above 1, and is not. -/
theorem witness_LanesRepeatJoinAndEnd_loops : let r : LoopRec := { n := 2, start := 8, stop := 16 }
    let lc : Vector Word 3 := #v[0, 0, 2]
    let low : Vector Word 3 := #v[0, 0, 1]
    r.n < 3 ∧ r.stop ≠ 8 ∧ r.stop = 16 ∧ 2 ≤ (vecAt lc r.n 0).toNat ∧ (vecAt low r.n 0).toNat ≤ 1 := by
  decide

/-- Lanes 0-15 at the PC; lanes 16-31 elsewhere; m1 names all lanes, m2 the first sixteen. -/
def joinState : State := withG fun g =>
  { g with
      sets := vecPut (vecPut g.sets 0 { lanes := 0xFFFF, st := .ready, pc := 0x10000 }) 1 { lanes := 0xFFFF0000, st := .ready, pc := 0x10100 }
      regs := { g.regs with m := vecPut (vecPut g.regs.m 1 ones32) 2 0xFFFF } }

theorem witness_LanesRepeatJoinAndEnd_join : let s := joinState
    let rj (f : SPF) := (s.cg.mreg f.sa.toNat ||| s.cset.lanes) &&& s.cg.live
    IssuesSplit s ∧ Original s ∧ s.act (spf 0 1 0 0).msk = s.cset.lanes ∧ AloneHere s ∧ JoinsRest s.cg s.cur.pc ∧
    rj (spf 0 1 0 0) &&& ~~~s.cset.lanes ≠ 0 ∧ s.ct.user = true ∧ rj (spf 0 2 0 0) &&& ~~~s.cset.lanes = 0 ∧
    NoJoinAt s.cg (endCheck s.cur.pc s.cg.loops s.cg.regs.lc (s.cur.pc + 8)).1 := by
  decide +kernel

theorem witness_LanesRepeatJoinAndEnd_exit : IssuesSplit base ∧ Original base ∧ NotAhead base ∧
    base.cg.live &&& ~~~base.act (spf 0 0 0 0).msk = 0 ∧ base.cg.lent = 0 := by
  decide +kernel

/-! ## Allocation -/

/-- A group without a block, which may have one. -/
def bareState : State := withG fun g => { g with ext := false }

theorem witness_AllocationFormsComplete : IssuesSplit base ∧ TeamHeld base ∧ Original base ∧ NotAhead base ∧ base.cg.ext = true ∧
    WholeGroup base ∧ base.cg.extPending = [] := by
  decide +kernel

theorem witness_AllocationFormsComplete_bare : let s := bareState
    IssuesSplit s ∧ TeamHeld s ∧ Original s ∧ NotAhead s ∧ s.cg.ext = false ∧ 64 ≤ s.cg.evlim ∧ WholeGroup s ∧ s.ct.user = true := by
  decide +kernel

theorem witness_AllocationFormsComplete_pending :
    let s := withG fun g => { g with out := [{ n := 0, t := false, ws := [.v 64 (Vector.replicate 32 0) ones32 ones32], fls := [] }] }
    IssuesSplit s ∧ TeamHeld s ∧ Original s ∧ NotAhead s ∧ s.cg.ext = true ∧ s.cset.fsnap = none ∧ s.cg.extPending ≠ [] := by
  decide +kernel

theorem witness_AllocationFormsComplete_waited :
    let s := withG fun g => g.putSet 0 { g.set 0 with fsnap := some 0 }
    IssuesSplit s ∧ TeamHeld s ∧ Original s ∧ NotAhead s ∧ s.cg.ext = true ∧ s.cset.fsnap.isSome = true := by
  decide +kernel

theorem witness_AllocationFormsComplete_grant : let s := base.modTeam 0 fun u => { u with xq := [0], xfree := 1 }
    0 < s.teams.length ∧ 0 < s.groups.length ∧ (s.team 0).xq = 0 :: [] ∧ (s.team 0).xfree ≠ 0 := by
  decide +kernel

/-- A team of one group whose b15 awaits one further arrival. -/
def donateState : State := base.modTeam 0 fun u => { u with bars := vecPut u.bars 15 { Bar.fresh 1 with extra := 1 } }

theorem witness_AllocationFormsComplete_donate : let s := donateState
    let f := spf 6 2 15 0
    let b := f.sel.toNat % 16
    IssuesSplit s ∧ TeamHeld s ∧ Original s ∧ NotAhead s ∧ WholeGroup s ∧ s.cg.bankPending = false ∧ (s.ct.bar b).arrived s.cg.gidx = false ∧
    s.groupAt s.cg.team s.cg.gidx = some s.cur.g ∧ popc (s.ct.bar b).memb + (s.ct.bar b).extra.toNat > (s.ct.bar b).arrv + 1 ∧ s.cg.gidx < 32 := by
  decide +kernel

/-! ## Lane sets -/

theorem witness_LaneSetEventsMoveLanes_defer :
    let l : LaneSet := { lanes := 1, st := .defer, pc := 0x10100 }
    let s := withG fun g => { g with stack := [l] }
    0 < s.groups.length ∧ (s.group 0).freeEntry = some 1 ∧ (s.group 0).stack = l :: [] ∧ (l.st = .ready ∨ l.st = .defer) ∧
    NoJoinAt (s.group 0) l.pc := by
  decide +kernel

/-- Two FAULT records of the stack, one of which comes back. -/
theorem witness_LaneSetEventsMoveLanes_fault :
    let l : LaneSet := { lanes := 1, st := .fault, pc := 0x10100 }
    let s := withG fun g => { g with stack := [l, { l with lanes := 2 }] }
    0 < s.groups.length ∧ (s.group 0).freeEntry = some 1 ∧ (s.group 0).stack = l :: [{ l with lanes := 2 }] := by
  decide +kernel

/-- Four parked sets, and a DEFER record behind a BAR one. -/
theorem witness_LaneSetEventsMoveLanes_parked :
    let set (m : Word) (st : SetSt) (pc : DWord) : LaneSet := { lanes := m, rj := 0xFF, st, pc }
    let d := set 32 .defer 0x10400
    let s := withG fun g => { g with sets := #v[set 1 .join 0x10100, set 2 .bar 0x10200, set 4 .join 0x10300, set 8 .bar 0x10200],
                                     stack := [set 16 .bar 0x10200, d] }
    0 < s.groups.length ∧ (s.group 0).freeEntry = none ∧ (∀ e, e < 4 → ((s.group 0).set e).st = .join ∨ ((s.group 0).set e).st = .bar) ∧
    (s.group 0).stack.find? (fun l => l.st == .defer) = some d ∧ NoJoinAt (s.group 0) d.pc := by
  decide +kernel

/-- A candidate beside a JOIN set that waits elsewhere. -/
theorem witness_LaneSetEventsMoveLanes_alone :
    let s := withG fun g => { g with sets := #v[{ lanes := 1, st := .ready, pc := 0x10000, cand := some 0 },
                                                { lanes := 2, rj := 3, st := .join, pc := 0x10100 }, {}, {}] }
    0 < s.groups.length ∧ ((s.group 0).set 0).st = .ready ∧ JoinsRest (s.group 0) ((s.group 0).set 0).pc ∧
    ∀ k, k < 4 → k ≠ 0 → ((s.group 0).set k).pc ≠ ((s.group 0).set 0).pc := by
  decide +kernel

theorem witness_LaneSetEventsMoveLanes_timeout : 0 < base.groups.length ∧ 3 < 4 ∧ ((base.group 0).set 0).st = .ready ∧
    NoJoinAt (base.group 0) ((base.group 0).set 0).pc := by
  decide +kernel

/-- Two groups of one team, half of the lanes of each a candidate at one address. -/
def twoState : State :=
  let half (m : Word) (g : Group) : Group := { g with sets := vecPut g.sets 0 { lanes := m, st := .ready, pc := 0x10000, cand := some 0 } }
  let t := base.modTeam 0 fun u => { u with hdr := { u.hdr with groups := 2 } }
  { t with groups := [half 0xFFFF0000 placeGroup, half 0x0000FFFF { placeGroup with gidx := 1, slot := 1 }] }

theorem witness_LaneSetEventsMoveLanes_fresh : let s := twoState
    let a := (0, 0)
    let b := (1, 0)
    a.1 < s.groups.length ∧ b.1 < s.groups.length ∧ a.2 < 4 ∧ b.2 < 4 ∧ (s.group a.1).gidx < (s.group b.1).gidx ∧
    s.mayCombine a a = true ∧ s.mayCombine a b = true ∧ ((s.group a.1).set a.2).lanes &&& ((s.group b.1).set b.2).lanes = 0 ∧
    (s.groups.filter fun g => !g.homes.isEmpty && !g.ended && (s.team g.team).core == (s.team (s.group a.1).team).core &&
      g.quarter == (s.group a.1).quarter).length < 4 := by
  decide +kernel

/-! ## Classes 2 and 3 -/

theorem witness_FloatFormsTestsAndConversionsComplete : let f := vf 126 .f64
    IssuesSplit base ∧ f.ty.isFl = true ∧ f.dst.toNat + f.ty.regs ≤ 128 ∧ (vf 7 .f32).dst.toNat < 8 := by
  decide +kernel

theorem witness_FloatFormsTestsAndConversionsComplete_forms (f : VF) :
    (Instr.addFloat f, srcAC false f, fltElem f.ty f.k (fopAdd f.ty f.rnd)) ∈ fltForms f := .head _

theorem witness_FloatFormsTestsAndConversionsComplete_cvt : let f : VF := { vf 127 .bf16 with sc := 1, sb := 0 }
    IssuesSplit base ∧ tyOfCode (f.sc.setWidth 5) = some .f32 ∧ f.dst.toNat + f.ty.regs ≤ 128 := by
  decide +kernel

theorem witness_ReductionsReachEveryLane : let f := vf 126 .f64
    IssuesSplit base ∧ f.ty.isFl = true ∧ f.dst.toNat + f.ty.regs ≤ 128 ∧ (vf 127 .f32).dst.toNat < 128 := by
  decide +kernel

theorem witness_ReductionsReachEveryLane_form (f : VF) : (Instr.rsum f, fopAdd f.ty f.rnd) ∈
    [(Instr.rsum f, fopAdd f.ty f.rnd), (Instr.rmin f, fopMinmax f.ty false), (Instr.rmax f, fopMinmax f.ty true)] := .head _

theorem witness_LaneValuesMove : let f := vf 126 .b64
    let m : VF := { vf 62 .b64 with msk := 1 }
    let s := withG fun g => { g with regs := { g.regs with m := vecPut g.regs.m 1 4 } }
    IssuesSplit base ∧ f.ak = false ∧ f.dst.toNat + f.ty.regs ≤ 128 ∧ (vf 127 .b32).dst.toNat < 128 ∧
    IssuesSplit s ∧ m.dst.toNat + m.ty.regs ≤ 64 ∧ (2 < 32 ∧ bit (s.act m.msk) 2 = true ∧ ∀ k, k < 2 → bit (s.act m.msk) k = false) ∧
    base.act { vf 62 .b64 with msk := 1 }.msk = 0 := by
  decide +kernel

theorem witness_LaneValuesMove_zip : let f := vf 120 .f64
    IssuesSplit base ∧ FitsPlace base.cg f.ty ∧ f.dst.toNat + f.ty.regs * 4 ≤ 128 ∧
    bit (base.act f.msk) 31 = true ∧ bit base.cg.live ((unzSource 4 32 3 31).2 / elemsOf base.cg.nf f.ty) = true := by
  decide +kernel

end Sys2Proof.Tests
end

