-- ==== Sys2Proof/Tests/WitnessFolds.lean ====
section
/-! SUPPORT. Concrete states and operands that meet the hypotheses of the statements: folds, votes, collectives and remote transfers. -/

set_option Elab.async false

namespace Sys2Proof.Tests
open Sys2Proof Sys2Proof.Machine Sys2Proof.Claims

/-- A group in slot 3 of which is fold 1, under key 0; s4 names fold 2, s5 a reserved bit, s6 fold 1. -/
def slot1 : FoldSlot := { id := 0x80000001#32, rank := 0, size := 2, key := 0 }
def foldGroup (sl : FoldSlot) : Group :=
  { placeGroup with
      folds := vecPut placeGroup.folds 3 sl
      regs := { placeGroup.regs with s := #[(4, 2), (5, 0x80000000), (6, 1), (8, 1)].foldl (fun v x => vecPut v x.1 x.2) placeGroup.regs.s } }
/-- Fold 2 is open to the context; fold 1 is formed with the keys 0 and 5. -/
def fold1 : Fold := { id := 1, size := 2, members := [0, 5], left := [], formed := true, next := 0, contribs := [] }
def foldState (sl : FoldSlot) : State :=
  let s := base.setGroup 0 (foldGroup sl)
  { s with pkg := { s.pkg with foldTab := [(2, 0x8000000000000002#64), (3, 0x8000000100000002#64)], folds := [fold1] } }

/-! ## The fold instructions -/

theorem witness_FoldFormsActOnTheirSlot : let s := foldState slot1
    let f := spf 62 8 3 0
    let sl := s.cg.fold (bits f.sel 0 2).toNat
    IssuesSplit s ∧ NotAhead s ∧ Original s ∧ sl.lost = none ∧ sl.valid = true ∧ sl.pre = false ∧ sl.pend = false ∧ sl.joining = none ∧ s.owner.fold 3 = sl ∧
    (foldState { slot1 with pend := true }).cg.fold 3 = { slot1 with pend := true } := by
  decide +kernel

/-- A fresh group, whose slots are those of its host, group 1: there slot 3 is valid. -/
theorem witness_FoldFormsActOnTheirSlot_fresh :
    let s := { base with groups := [{ placeGroup with homes := [(1, 0)], host := 1 }, foldGroup slot1] }
    IssuesSplit s ∧ (s.cg.fold 3).lost = none ∧ (s.cg.fold 3).valid = false ∧ (s.owner.fold 3).valid = true := by
  decide +kernel

/-- The group waits at the FJOIN at 0x10000, and issues it again, or one elsewhere. -/
theorem witness_FoldFormsActOnTheirSlot_again :
    let c : CbrAt := { entry := 0, pc := 0x10000, size := 8, target := 0, y := false }
    let at_ (pc : DWord) : State := foldState { joining := some 2, key := 0, wait := some { c with pc } }
    let wait (s : State) : Option CbrAt := (s.owner.fold 3).wait
    IssuesSplit (at_ 0x10000) ∧ NotAhead (at_ 0x10000) ∧ Original (at_ 0x10000) ∧ ((at_ 0x10000).owner.fold 3).joining ≠ none ∧
    wait (at_ 0x10000) = some c ∧ c.pc = (at_ 0x10000).cur.pc ∧ IssuesSplit (at_ 0x20000) ∧ ((at_ 0x20000).cg.fold 3).lost = none ∧
    wait (at_ 0x20000) = some { c with pc := 0x20000 } ∧ (0x20000 : DWord) ≠ (at_ 0x20000).cur.pc := by
  decide +kernel

/-- FJOIN on the empty slot 0: a reserved bit, an id held in slot 3, an id of another context, and one that it may join. -/
theorem witness_FoldFormsActOnTheirSlot_join : let s := foldState slot1
    let v (f : SPF) := s.cg.sreg f.sa.toNat
    let id (f : SPF) := (bits (v f) 0 12).toNat
    let sl := s.cg.fold 0
    IssuesSplit s ∧ NotAhead s ∧ Original s ∧ sl.lost = none ∧ sl.valid = false ∧ sl.joining = none ∧
    bits (v (spf 0 5 0 0)) 12 20 ≠ (0 : BitVec 20) ∧ bits (v (spf 0 6 0 0)) 12 20 = (0 : BitVec 20) ∧ s.cg.holdsId 0 (id (spf 0 6 0 0)) = true ∧
    s.cg.holdsId 0 (id (spf 0 7 0 0)) = false ∧ s.mayJoin (id (spf 0 7 0 0)) = false ∧
    bits (v (spf 0 4 0 0)) 12 20 = (0 : BitVec 20) ∧ s.cg.holdsId 0 (id (spf 0 4 0 0)) = false ∧ s.mayJoin (id (spf 0 4 0 0)) = true := by
  decide +kernel

/-- CBR on slot 3, with NRA and without; on the empty slot 0. -/
theorem witness_CollectiveBranchesVoteAndResolve : let s := foldState slot1
    let f : BRF := { brf 8 2 3 with pk := true, fn := 2 }
    let a : BRF := { brf 8 2 3 with pk := true }
    IssuesSplit s ∧ NotAhead s ∧ Original s ∧ WholeGroup s ∧ (s.cg.fold 3).lost = none ∧ (s.cg.fold 0).valid = false ∧ (s.cg.fold 0).pend = false ∧
    (s.cg.fold 3).valid = true ∧ (s.cg.fold 3).pend = false ∧ bit f.fn 1 = true ∧ bit a.fn 1 = false ∧ JoinsRest s.cg (s.brTarget a) ∧
    JoinsRest s.cg (nextPc s) ∧ s.logGrants 256 = true := by
  decide +kernel

/-- The result of vote 0 for slot 3. -/
def someResult (taken : Bool) : VoteRes := { fold := 1, vote := 0, taken, t := if taken then 2 else 0, n := 2, deg := false, mix := false }
def cbrAt : CbrAt := { entry := 0, pc := 0x10000, size := 8, target := 0x10010, y := false }
def votedState (taken : Bool) (wait : Option CbrAt) (ra : Option RunAhead) : State :=
  let s := base.setGroup 0 { foldGroup { slot1 with vnum := 1, pend := true, wait } with ra }
  { s with msgs := [.result 0 3 (someResult taken)] }

theorem witness_CollectiveBranchesVoteAndResolve_waiting : let s := votedState true (some cbrAt) none
    let x := s.group 0
    0 < s.groups.length ∧ 3 < 4 ∧ s.resultFor 0 3 = some (someResult true) ∧ (x.fold 3).valid = true ∧ (x.fold 3).pend = true ∧ (x.fold 3).lost = none ∧
    (s.team x.team).st = .resident ∧ x.ra = none ∧ (x.fold 3).wait = some cbrAt ∧ s.standsAt 0 cbrAt = true ∧ JoinsRest x cbrAt.target := by
  decide +kernel

/-- A group ahead of that vote in the taken direction. -/
def someAhead : RunAhead :=
  { slot := 3, cbr := cbrAt, predicted := true, startNo := 0, regs := placeGroup.regs, sets := placeGroup.sets, stack := [], loops := [],
    stores := [], issued := 1, exc := [] }

/-- Another group of the core is ahead with so many records that a header no longer fits. -/
theorem witness_CollectiveBranchesVoteAndResolve_full : let s0 := foldState slot1
    let r := { someAhead with logged := (List.range 124).map fun i => (0, i) }
    let s := { s0 with groups := s0.groups ++ [{ placeGroup with gidx := 1, slot := 1, ra := some r }] }
    IssuesSplit s ∧ NotAhead s ∧ Original s ∧ (s.cg.fold 3).lost = none ∧ (s.cg.fold 3).valid = true ∧ (s.cg.fold 3).pend = false ∧
    s.logGrants 256 = false := by
  decide +kernel

/-- The CBR at 0x10000 stands with its contribution made: not asking for log space, asking in vain, and asking with room. -/
theorem witness_CollectiveBranchesVoteAndResolve_asks :
    let r := { someAhead with logged := (List.range 124).map fun i => (0, i) }
    let at_ (asks : Option Nat) (others : List Group) : State :=
      let s := foldState { slot1 with vnum := 1, pend := true, wait := some cbrAt }
      let g := s.group 0
      { s with groups := { g with sets := vecPut g.sets 0 { g.set 0 with asks } } :: others }
    let full := [{ placeGroup with gidx := 1, slot := 1, ra := some r }]
    (∀ s ∈ [at_ none [], at_ (some 0) full, at_ (some 0) []], IssuesSplit s ∧ NotAhead s ∧ Original s ∧ WholeGroup s ∧ (s.cg.fold 3).lost = none ∧
      (s.cg.fold 3).pend = true ∧ (s.cg.fold 3).wait = some cbrAt ∧ cbrAt.pc = s.cur.pc) ∧
    (at_ none []).cset.asks = none ∧ (at_ (some 0) full).cset.asks.isSome = true ∧ (at_ (some 0) full).logGrants 256 = false ∧
    (at_ (some 0) []).logGrants 256 = true ∧ JoinsRest (at_ (some 0) []).cg (nextPc (at_ (some 0) [])) := by
  decide +kernel

theorem witness_CollectiveBranchesVoteAndResolve_ahead : let s := votedState true none (some someAhead)
    let x := s.group 0
    0 < s.groups.length ∧ s.resultFor 0 3 = some (someResult true) ∧ (x.fold 3).valid = true ∧ (x.fold 3).pend = true ∧ (x.fold 3).lost = none ∧
    (s.team x.team).st = .resident ∧ (s.team x.team).user = true ∧ x.ra = some someAhead ∧ someAhead.slot = 3 ∧
    someAhead.predicted = (someResult true).taken ∧ someAhead.stores = [] := by
  decide +kernel

/-- The same with two stores held: a byte of the scratchpad, and four of a line that the cluster does not hold. -/
theorem witness_CollectiveBranchesVoteAndResolve_stores :
    let h (n : Nat) (place : Place) (bytes : Nat) : HeldStore := { n, w := { place, nib := none, bytes, val := 5 }, cls := .priv, sc := .core }
    let a := { someAhead with stores := [h 1 (.pad 0 4) 1, h 2 (.mem 0x10040) 4] }
    let s := votedState true none (some a)
    let x := s.group 0
    s.resultFor 0 3 = some (someResult true) ∧ x.ra = some a ∧ a.slot = 3 ∧ a.predicted = (someResult true).taken ∧ (x.fold 3).valid = true ∧
    (x.fold 3).pend = true ∧ (x.fold 3).lost = none ∧ MemCanonical s ∧ OneOwner s.mem ∧ (a.stores.map (·.n)).Pairwise (· ≤ ·) ∧
    (∀ h ∈ a.stores, HeldClear s (s.team x.team).core h) ∧
    ∀ h ∈ a.stores, ∀ h' ∈ a.stores, tracked h.cls h.sc = tracked h'.cls h'.sc := by
  intro h a s x
  have clear : ∀ h ∈ a.stores, s.waits h.w.place = false ∧ tracked h.cls h.sc = false ∧ h.w.nib = none ∧
      (match h.w.place with
      | .pad u _ => decide (u < s.teams.length)
      | .mem pa => !isIo pa && decide (pa % 128 + h.w.bytes ≤ 128) && !s.mem.poisoned (pa / 128)) = true := by decide +kernel
  refine ⟨by decide +kernel, rfl, rfl, rfl, by decide +kernel, by decide +kernel, by decide +kernel, by decide +kernel, by decide +kernel,
    by decide +kernel, fun q hq => ?_, by decide +kernel⟩
  obtain ⟨h1, h2, h3, h4⟩ := clear q hq
  refine ⟨h1, fun h => absurd h3 h, ?_⟩
  cases hp : q.w.place with
  | pad u o => simpa [hp] using h4
  | mem pa =>
    simp only [hp, Bool.and_eq_true, Bool.not_eq_true', decide_eq_true_eq] at h4
    exact ⟨h4.1.1, h4.1.2, h4.2, fun h => absurd h (by simp [h2])⟩

theorem witness_CollectiveBranchesVoteAndResolve_back : let s := votedState false none (some someAhead)
    let x := s.group 0
    let y := x.rollback
    let s1 := { s.setGroup 0 y with cur := { s.cur with g := 0, e := someAhead.cbr.entry, pc := someAhead.cbr.pc, size := someAhead.cbr.size } }
    s.resultFor 0 3 = some (someResult false) ∧ (x.fold 3).valid = true ∧ (x.fold 3).pend = true ∧ (x.fold 3).lost = none ∧ (s.team x.team).user = true ∧ x.ra = some someAhead ∧ someAhead.slot = 3 ∧
    someAhead.predicted ≠ (someResult false).taken ∧ someAhead.cbr.entry < 4 ∧ (y.set someAhead.cbr.entry).lanes ≠ 0 ∧
    (y.set someAhead.cbr.entry).st = .ready ∧ JoinsRest y (nextPc s1) := by
  decide +kernel

/-! ## The fold unit -/

/-- Joins from here: to an unknown fold, of size 1, to a formed one, with another size, as one of many, as the last. -/
theorem witness_FoldUnitFormsAndResolves_join : let s0 := foldState slot1
    let f : Fold := { id := 9, size := 3, members := [5], left := [], formed := false, next := 0, contribs := [] }
    let s := { s0 with pkg := { s0.pkg with folds := [fold1, f, { f with id := 10, size := 2 }] } }
    let sent (m : Msg) : State := { s with msgs := [m] }
    (∀ m ∈ [Msg.join 8 0 2, .join 8 0 1, .join 1 7 2, .join 9 0 2, .join 9 0 3, .join 10 0 2], (sent m).firstOf m = true) ∧
    s.foldOf 8 = none ∧ 1 < 2 ∧ s.foldOf 1 = some fold1 ∧ fold1.formed = true ∧ 7 ∉ fold1.rest ∧ s.ownKey 0 = true ∧ s.ownKey 16384 = false ∧ s.foldOf 9 = some f ∧ f.formed = false ∧
    f.size ≠ 2 ∧ 0 ∉ f.members ∧ 5 ∈ f.members ∧ f.members.length + 1 < 3 ∧ s.foldOf 10 = some { f with id := 10, size := 2 } ∧ f.members.length + 1 = 2 ∧
    f.left = [] ∧ f.contribs = [] := by
  decide +kernel

/-- The first of two contributions, the last one, and one that comes twice. -/
theorem witness_FoldUnitFormsAndResolves_vote : let s := foldState slot1
    let m (k : Nat) : Msg := .contribution 1 0 k true .any
    let g : Fold := { fold1 with contribs := [(0, true, .any)] }
    let t := { s with pkg := { s.pkg with folds := [g] } }
    ({ s with msgs := [m 0] }).firstOf (m 0) = true ∧ ({ t with msgs := [m 5] }).firstOf (m 5) = true ∧ s.foldOf 1 = some fold1 ∧
    fold1.formed = true ∧ 0 = fold1.next ∧ 0 ∈ fold1.rest ∧ (∀ c ∈ fold1.contribs, c.1 ≠ 0) ∧
    fold1.rest.all (fun k => (fold1.contribs ++ [(0, true, VoteMode.any)]).any fun c => c.1 == k) = false ∧ t.foldOf 1 = some g ∧ 5 ∈ g.rest ∧
    (∀ c ∈ g.contribs, c.1 ≠ 5) ∧ g.rest.all (fun k => (g.contribs ++ [(5, true, VoteMode.any)]).any fun c => c.1 == k) = true ∧
    ∃ c ∈ g.contribs, c.1 = 0 := by
  decide +kernel

/-- The same in a fold with a switch as its root, with a member of another package: its contribution and its leave; the last one from here. -/
theorem witness_FoldUnitFormsAndResolves_pod : let s := foldState slot1
    let f : Fold := { fold1 with members := [0, 16384], root := some .pod }
    let t := { s with pkg := { s.pkg with folds := [f] } }
    let have_ (k : Nat) : Bool := [(0, true, VoteMode.any)].any fun c => c.1 == k
    t.foldOf 1 = some f ∧ f.formed = true ∧ t.ownKey 16384 = false ∧ t.ownKey 0 = true ∧ f.rest.all have_ = false ∧
    (∀ k ∈ f.rest, t.ownKey k = true → have_ k = true) ∧ 16384 ∈ f.members ∧ 16384 ∉ f.left ∧
    ({ f with left := [16384] } : Fold).rest ≠ [] ∧ ({ f with left := [0] } : Fold).rest ≠ [] ∧ f.rest ≠ [0] := by
  decide +kernel

theorem witness_FoldUnitFormsAndResolves_leave : let s := foldState slot1
    let m := Msg.leave 1 0
    let one : Fold := { fold1 with left := [5] }
    let wait : Fold := { fold1 with formed := false, size := 3 }
    let f' := { fold1 with left := [0], contribs := [] }
    ({ s with msgs := [m] }).firstOf m = true ∧ s.foldOf 1 = some fold1 ∧ 0 ∈ fold1.members ∧ fold1.formed = true ∧ 0 ∉ fold1.left ∧
    f'.rest ≠ [] ∧ f'.rest.all (fun k => f'.contribs.any fun c => c.1 == k) = false ∧ one.rest = [0] ∧ 0 ∈ one.members ∧
    wait.formed = false ∧ wait.members.erase 0 ≠ [] := by
  decide +kernel

theorem witness_FoldUnitFormsAndResolves_lost : let s := foldState slot1
    s.foldOf 1 = some fold1 ∧ fold1.formed = true ∧ s.memberOf 1 0 = some (0, 3) ∧ 0 ∈ fold1.members ∧ 0 ∉ fold1.left ∧
    ((s.group 0).fold 3).valid = true ∧ ((s.group 0).fold 3).pend = false ∧ (s.group 0).ra = none ∧ (∃ j ∈ fold1.rest, j ≠ 0) ∧
    fold1.contribs = [] ∧ 0 < s.groups.length ∧ 3 < 4 := by
  decide +kernel

/-- The same while a result is on its way to the member. -/
theorem witness_FoldUnitFormsAndResolves_late : let s := { foldState { slot1 with vnum := 1, pend := true } with msgs := [.result 0 3 (someResult true)] }
    s.foldOf 1 = some fold1 ∧ s.memberOf 1 0 = some (0, 3) ∧ ((s.group 0).fold 3).valid = true ∧ (s.group 0).ra = none ∧
    (s.resultOn 0 3).isSome = true := by
  decide +kernel

/-- The group waits at FJOIN for fold 2. -/
def joiningState (m : Msg) : State := { foldState { joining := some 2, key := 0, wait := some cbrAt } with msgs := [m] }

theorem witness_FoldAnswersReachTheirSlot : let s := joiningState (.formed 0 3 1 2)
    let x := s.group 0
    let s1 := { s with cur := { s.cur with g := 0, e := cbrAt.entry, pc := cbrAt.pc, size := cbrAt.size } }
    0 < s.groups.length ∧ 3 < 4 ∧ (x.fold 3).joining = some 2 ∧ (x.fold 3).wait = some cbrAt ∧ s.standsAt 0 cbrAt = true ∧
    s.msgs = [.formed 0 3 1 2] ∧ JoinsRest x (nextPc s1) ∧ Msg.refused 0 3 5 ∈ (joiningState (.refused 0 3 5)).msgs ∧
    ((joiningState (.refused 0 3 5)).team x.team).hdr.traph ≠ 0 ∧
    x.handler = none := by
  decide +kernel

/-- A table entry for the last id, with the greatest size, and one with a reserved bit. -/
theorem witness_FoldAnswersReachTheirSlot_table : let s := base
    let ones : DWord := BitVec.allOnes 64
    let v (x : DWord) := (lookupD s.pkg.foldTab 4095 0 &&& ~~~ones) ||| (x &&& ones)
    let good (x : DWord) : Prop := bits (v x) 48 15 = (0 : BitVec 15) ∧ bits (v x) 24 8 = (0 : BitVec 8) ∧
      (bit (v x) 63 = true → 1 ≤ (bits (v x) 0 24 : BitVec 24).toNat ∧ (bits (v x) 0 24 : BitVec 24).toNat ≤ 2 ^ 23)
    4095 < 4096 ∧ good 0x8000000000800000#64 ∧ ¬ good 0x8000000001000000#64 ∧ ¬ good 0x8000000000000000#64 := by
  decide +kernel

/-! ## Collectives -/

/-- The word of COLL.ar.sum.f32 t1, t0, 3, s6 with an object at s6. -/
def collWord : DWord := 0x001000030308C2A8#64

theorem witness_CollectivesStartAndMove_issue : let s := foldState slot1
    IssuesSplit s ∧ NotAhead s ∧ Original s ∧ WholeGroup s ∧ TeamHeld s ∧
    (s.ct.colls.filter fun c => !c.done).length + (s.ct.collWords.filter fun w => w.1 == s.cur.g).length < 8 ∧
    (let t := base.modTeam 0 fun u => { u with collWords := List.replicate 8 (0, collWord, 0x10000) }
     IssuesSplit t ∧ 8 ≤ (t.ct.colls.filter fun c => !c.done).length + (t.ct.collWords.filter fun w => w.1 == t.cur.g).length) := by
  decide +kernel

/-- A tile of one element over p1. -/
def oneTile : QWord := BitVec.ofNat 128 (2 ^ 96 + 2 ^ 64 + 2 ^ 32 + 2 ^ 31 + 1)

/-- The group of fold 1 with tiles t0 and t1 over an F32 in the scratchpad, and an object at 0x40 named by s6; s9 is rank 1. -/
def collGroup : Group :=
  let g := foldGroup slot1
  { g with regs := { g.regs with
      p := vecPut g.regs.p 1 (ptrImg 1 0 0 0 4 .f32 false), t := vecPut (vecPut g.regs.t 0 oneTile) 1 oneTile
      s := vecPut (vecPut (vecPut g.regs.s 6 0x40) 9 1) 10 7 } }
def collState (words : List (Nat × DWord × DWord)) : State :=
  ((foldState slot1).setGroup 0 collGroup).modTeam 0 fun u => { u with collWords := words }

theorem witness_CollectivesStartAndMove_start : let s := collState [(0, collWord, 0x10000)]
    let ws := (s.team 0).firstWords
    let live := (s.teamGroups 0).filter fun g => !(s.group g).ended
    let k := (wSlot collWord).toNat
    let s1 := s.modTeam 0 fun y => { y with collWords := ws.foldl (fun l v => l.erase v) y.collWords }
    (s.team 0).st = .resident ∧ 0 < s.teams.length ∧ ws ≠ [] ∧ (∀ g ∈ live, ∃ v ∈ ws, v.1 = g) ∧ (∀ v ∈ ws, v.2.1 = collWord) ∧
    (live.filter fun g => ((s.group g).fold k).valid) = [0] ∧ s1.collCheck 0 collWord = none ∧ s.foldOf ((s.group 0).fold k).fid = some fold1 := by
  decide +kernel

/-- Two groups with unequal words. -/
theorem witness_CollectivesStartAndMove_unequal :
    let s := { collState [(0, collWord, 0x10000), (1, 0x001000030308D2A8#64, 0x10000)] with groups := [collGroup, { placeGroup with gidx := 1, slot := 1 }] }
    let ws := (s.team 0).firstWords
    let live := (s.teamGroups 0).filter fun g => !(s.group g).ended
    (∀ g ∈ live, ∃ v ∈ ws, v.1 = g) ∧ ws.length = 2 ∧ (∃ v ∈ ws, v.2.1 = collWord) ∧ (∃ x ∈ ws, x.2.1 ≠ collWord) ∧
    (∀ x ∈ ws, x.1 < s.groups.length ∧ (s.group x.1).ended = false ∧ (s.group x.1).team = 0 ∧ (s.group x.1).handler = none ∧
      (s.group x.1).trapReq = none) ∧ (s.team 0).hdr.traph ≠ 0 := by
  decide +kernel

/-- One collective of the team, at position 0 of the keys 0 and 1, both of this package, with its element read. -/
def someColl : Coll :=
  { id := 4, fold := 1, num := 0, word := collWord, agent := 0, participants := [0, 1], ranks := [0, 1], pos := 0, src := ptrImg 1 0 0 0 4 .f32 false, stile := oneTile,
    dst := ptrImg 1 0 0 0x20 4 .f32 false, dtile := oneTile, cptr := 0, ctile := 0, root := 0, obj := 0x40, fs := Vector.replicate 8 0, loaded := true,
    elems := [0x3F800000], fls := [], got := [], seen := [], held := false, fail := none, done := false }
def someContrib (pos : Nat) : Contrib :=
  { fold := 1, num := 0, pos, word := collWord, root := 0, count := 1, dcount := 1, elems := [0x3F800000#128] }
def runningState (c : Coll) (cs : List Contrib) : State :=
  let s := (collState []).modTeam 0 fun u => { u with colls := [c] }
  { s with pkg := { s.pkg with contribs := cs } }

theorem witness_CollectivesStartAndMove_tree : let m := Msg.tree 1 0 1 collWord 0 1 1 [0x3F800000#128]
    let s := { runningState someColl [someContrib 0] with msgs := [m] }
    let here (x : Contrib) : State := { s with pkg := { s.pkg with contribs := [x] } }
    let old := { someContrib 1 with elems := [] }
    m ∈ s.msgs ∧ (s.foldOf 1).isSome = true ∧ s.contribOf 1 0 1 = none ∧
    (here (someContrib 1)).contribOf 1 0 1 = some (someContrib 1) ∧ (someContrib 1).elems ≠ [] ∧
    (here old).contribOf 1 0 1 = some old ∧ old.elems = [] := by
  decide +kernel

/-- A chunk for position 0 that is final there, one that ends there and one that goes on; one taken before; one that comes too early. -/
theorem witness_CollectivesStartAndMove_chunk : let s := runningState someColl []
    let e := { someColl with seen := [(0, 1, false)] }
    let l := { someColl with loaded := false }
    let r := runningState l []
    let m := Msg.chunk 1 0 0 1 0 false [0x3F800000#128] [1] [0]
    s.posHere 1 0 = true ∧ s.collAt 1 0 0 = some (0, someColl) ∧ 0 < s.teams.length ∧ someColl.seen.contains (0, 1, false) = false ∧
    s.takes 0 someColl = true ∧ someColl.pos = someColl.chainEnd 1 ∧ someColl.pos ≠ someColl.chainEnd 0 ∧ someColl.next 0 1 0 ≠ someColl.chainEnd 1 ∧
    (runningState e []).collAt 1 0 0 = some (0, e) ∧ e.seen.contains (0, 1, false) = true ∧ r.posHere 1 0 = true ∧
    r.collAt 1 0 0 = some (0, l) ∧ l.done = false ∧ l.fail = none ∧ r.takes 0 l = false ∧ (r.pkg.slots.map (·.2) ++ r.pkg.rick).contains m = false ∧
    (({ r with msgs := ({ r with msgs := [m] }).msgs.erase m }).seeColl 1 0).freeSlot 1 0 = some 0 := by
  decide +kernel

/-- Its own elements are read, and a final chunk is written. -/
theorem witness_CollectivesStartAndMove_own : let s := runningState someColl []
    (∃ v own, s.ownChunk 0 someColl 0 = (v, some own)) ∧
    ∃ w, s.collDeliver 0 someColl (someColl.place 0 1 (s.chunkFinal someColl 0 (chunkEls [0x3F800000#128] [1] [0]))) = .ok w :=
  ⟨pair_of_isSome (by decide +kernel), ok_of_isOk (by decide +kernel)⟩

theorem witness_CollectivesStartAndMove_rick : let m := Msg.chunk 1 0 0 1 0 false [] [] []
    let s := { collState [] with pkg := { (collState []).pkg with rick := [m] } }
    s.pkg.rick = [m] ∧ s.freeSlot 1 0 = some 960 ∧ s.collAt 1 0 0 = none := by
  decide +kernel

/-- Failed; not every participant has started; shapes that differ; not yet read, in tree mode and as a barrier; read. -/
theorem witness_CollectivesDeliverAndEnd : let cs := [someContrib 0, someContrib 1]
    let s := runningState someColl cs
    let f := { someColl with fail := some 3 }
    let l := { someColl with loaded := false }
    let b := { l with word := 0x001000030808C2A8#64 }
    let shape (cs : List Contrib) : Bool := collShapeOk someColl.word someColl.ranks (sortBy (fun (a b : Contrib) => a.pos ≤ b.pos) cs)
    s.collAt 1 0 0 = some (0, someColl) ∧ someColl.done = false ∧ someColl.held = false ∧ 0 < s.teams.length ∧ (s.team 0).st = .resident ∧
    (s.team 0).user = true ∧ (runningState f cs).collAt 1 0 0 = some (0, f) ∧ someColl.fail = none ∧ someColl.loaded = true ∧
    (s.pkg.contribs.filter fun x => x.fold == 1 && x.num == 0) = cs ∧ someColl.participants.length ≤ cs.length ∧
    ((runningState someColl [someContrib 0]).pkg.contribs.filter fun x => x.fold == 1 && x.num == 0).length < 2 ∧
    shape cs = true ∧ shape [someContrib 0, { someContrib 1 with count := 2 }] = false ∧
    (runningState l cs).collAt 1 0 0 = some (0, l) ∧ collKind l.word ≠ .bar ∧ l.ring cs = false ∧ (ptrOf l.src).isSome = true ∧
    ((runningState l cs).cmdMoves (l.cmd 0) (ptrOf l.src) none [] ((tileElems l.stile).map fun k => (some k, 0))).2 = none ∧
    collKind b.word = .bar ∧ collShapeOk b.word b.ranks (cs.map fun x => { x with word := b.word }) = true ∧
    ∀ x ∈ cs, x.elems.length = x.count := by
  decide +kernel

/-- The result of the two contributions is delivered. -/
theorem witness_CollectivesDeliverAndEnd_result : let cs := [someContrib 0, someContrib 1]
    let s := runningState someColl cs
    ∃ w, s.collDeliver 0 someColl
      ((someColl.result (s.tick * 2 ^ 23 + someColl.pos) cs).zipIdx.map fun x => (x.2, x.1)) = .ok w := by
  have h : someColl.result ((runningState someColl [someContrib 0, someContrib 1]).tick * 2 ^ 23 + someColl.pos)
      [someContrib 0, someContrib 1] = [{ v := some 0x40000000, n := 2, fl := 0 }] := by decide +kernel
  intro cs s
  rw [h]
  exact ok_of_isOk (by decide +kernel)

/-- In ring mode: chunk 0 starts here and leaves; it has left, and has come back as a final one. -/
theorem witness_CollectivesDeliverAndEnd_ring : let long (q : Nat) : Contrib := { someContrib q with count := 2049, dcount := 2049, elems := [] }
    let cs := [long 0, long 1]
    let d := { someColl with seen := [(0, 0, false)], got := [{ chunk := 0, src := 0, els := [] }] }
    let s := runningState someColl cs
    collShapeOk someColl.word someColl.ranks cs = true ∧ someColl.ring cs = true ∧ someColl.toStart = some 0 ∧
    someColl.pos ≠ someColl.chainEnd someColl.pos ∧ s.collAt 1 0 0 = some (0, someColl) ∧ (s.ownChunk 0 someColl 0).2.isSome = true ∧
    (runningState d cs).collAt 1 0 0 = some (0, d) ∧ d.toStart = none ∧ ∀ x ∈ d.finals cs, ∃ g ∈ d.got, g.chunk = x.1 ∧ g.src = x.2 := by
  decide +kernel

/-- The participant at position 1 is of package 1. -/
theorem witness_CollectivesDeliverAndEnd_away : let d := { someColl with participants := [0, 16384] }
    let s := runningState d []
    s.collAt 1 0 1 = none ∧ 0 < s.teams.length ∧ d ∈ (s.team 0).colls ∧ d.fold = 1 ∧ d.num = 0 ∧ d.done = false ∧ d.fail = none ∧
    d.participants[1]? = some 16384 ∧ s.ownKey 16384 = false := by
  decide +kernel

theorem witness_CollectivesDeliverAndEnd_order : let cs := [someContrib 0, someContrib 1]
    collNd someColl.word = false ∧ (cs.map (·.pos)).Pairwise (· < ·) ∧ (∀ x ∈ cs, someColl.pkgOf x.pos = 0) ∧
    cs = someContrib 0 :: [someContrib 1] := by
  decide +kernel

/-! ## HALO and remote copies -/

theorem witness_RemoteTransfersArriveOnce_halo : let s := collState []
    let f : ENF := { enf 1 9 10 6 .f64 with slot := 3, tsel := 0, fn := 4 }
    let g := s.cg
    let sl := g.fold f.slot.toNat
    let rt := g.tile (f.dst.toNat % 8)
    let st := g.tile f.tsel.toNat
    let d := ptrRec .loc .priv .core 0 4 .f32 false
    IssuesSplit s ∧ NotAhead s ∧ Original s ∧ s.cmdRoom = true ∧ f.slot.toNat < 4 ∧ sl.valid = true ∧ tileV rt = true ∧ tileV st = true ∧
    s.ptrCheck2 s.cur.g (some (g.tilePtr rt)) (some (g.tilePtr st)) = none ∧ ptrOf (g.tilePtr rt) = some d ∧ ptrOf (g.tilePtr st) = some d ∧
    glbLoc d = true ∧ tileBeyond rt d = false ∧ tileBeyond st d = false ∧ (g.sreg f.sa.toNat).toNat < 2 ^ 23 ∧ g.sreg f.sa.toNat ≠ sl.rank ∧
    bits (g.sreg f.sb.toNat) 16 16 = (0 : BitVec 16) ∧ g.objOf f = some (.loc, 0x40) ∧ (s.objPlace g.team .loc 0x40).isSome = true := by
  decide +kernel

/-- A HALO of rank 0 with rank 1 of fold 1, under tag 7. -/
def someHalo : HaloPart :=
  { fold := 1, me := 0, peer := 1, tag := 7, num := 0, rtile := oneTile, stile := oneTile, sent := false, written := false, received := false }
def haloCmd : Cmd :=
  { (collState []).cmdOf .halo 9 with
      id := 3, dst := ptrImg 1 0 0 0 4 .f32 false, src := ptrImg 1 0 0 0 4 .f32 false, ty := .f32, halo := some someHalo }
def haloState : State := { collState [] with cmds := [haloCmd] }

/-- The peer has left the fold. -/
theorem witness_RemoteTransfersArriveOnce_left : let s := { haloState with pkg := { haloState.pkg with folds := [{ fold1 with left := [5] }] } }
    s.liveCmd 3 = some haloCmd ∧ haloCmd.kind = .halo ∧ haloCmd.halo = some someHalo ∧ haloCmd.dptr.isSome = true ∧ haloCmd.sptr.isSome = true ∧
    haloCmd.obj = none ∧ s.haloKey someHalo = none := by
  decide +kernel

theorem witness_RemoteTransfersArriveOnce_data : let m := Msg.halo 1 1 0 7 0 []
    let s := haloState
    let mine (f : FoldSlot) : Bool := f.valid && f.fid == 1 && f.rank.toNat == 0
    let t := { s with pkg := { s.pkg with slots := (List.range 63).map fun j => (960 + j, Msg.remoteAck 0 0 j) } }
    0 < s.groups.length ∧ 3 < 4 ∧ mine ((s.group 0).fold 3) = true ∧ haloCmd ∈ t.cmds ∧ haloCmd.done = false ∧ haloCmd.halo = some someHalo ∧
    someHalo.fold = 1 ∧ someHalo.me = 0 ∧ someHalo.peer = 1 ∧ someHalo.tag = 7 ∧ someHalo.num = 0 ∧ someHalo.received = false ∧
    (∀ x ∈ t.pkg.slots, x.2 ≠ m) ∧ 63 < 64 ∧ (∀ x ∈ t.pkg.slots, x.1 ≠ 960 + 63) ∧ (∀ j, j < 63 → ∃ x ∈ t.pkg.slots, x.1 = 960 + j) ∧
    m ∉ t.pkg.rick ∧ ∃ x ∈ [(960, m)], x.2 = m := by
  decide +kernel

/-- The HALO to which the data belong was written before. -/
theorem witness_RemoteTransfersArriveOnce_again :
    let m := Msg.halo 1 1 0 7 0 []
    let f := { slot1 with halos := [(1, 7, 1)] }
    let s := { foldState f with msgs := [m] }
    let mine (f : FoldSlot) : Bool := f.valid && f.fid == 1 && f.rank.toNat == 0
    ((List.range s.groups.length).flatMap fun g => (List.range 4).map fun k => (s.group g).fold k).find? mine = some f ∧
    (∀ x ∈ s.pkg.slots, x.2 ≠ m) ∧ m ∉ s.pkg.rick ∧ s.cmds = [] ∧ ∃ h ∈ f.halos, h.1 = 1 ∧ h.2.1 = 7 ∧ 0 < h.2.2 := by
  decide +kernel

theorem witness_RemoteTransfersArriveOnce_packet : let s := base
    let bytes : List Byte := [1, 2]
    MemCanonical s ∧ (7, 1, 0) ∉ s.pkg.window ∧ bytes ≠ [] ∧ paPkg 0x1007E = s.pkg.num.toNat ∧ isIo 0x1007E = false ∧
    (∀ k, k < bytes.length → s.waits (.mem ((0x1007E + k) / 128 * 128)) = false) ∧ s.mem.lines = [] ∧ (7, 1, 0) ∈ [(7, 1, 0)] ∧
    ∀ ln ∈ linesOf 0x1007E 2, s.mem.ownedFar ln = false ∧ s.mem.poisoned ln = false := by
  decide +kernel

/-- A packet that covers a poisoned line, and a GETR's request that meets one. -/
theorem witness_RemoteTransfersArriveOnce_poison : let s := { base with mem := base.mem.putDir { base.mem.dirOf 0x201 with st := .poison } }
    paPkg 0x10080 = s.pkg.num.toNat ∧ (∀ k, k < 128 → s.waits (.mem ((0x10080 + k) / 128 * 128)) = false) ∧ s.mem.poisoned 0x201 = true ∧
    (∀ ln ∈ linesOf 0x10080 128, s.mem.ownedFar ln = false ∧ lineMask ln 0x10080 128 = BitVec.allOnes 128) ∧
    (linesOf 0x10080 4).find? s.mem.poisoned = some 0x201 := by
  decide +kernel

/-- What a GETR of this package has asked of package 1. -/
theorem witness_RemoteTransfersArriveOnce_back : let c := { haloCmd with kind := .getr, halo := none, sentAt := some (3, [0]) }
    let s := { haloState with cmds := [c] }
    let src := s.cmdSource c
    (src, 3, 0) ∉ s.pkg.window ∧ src / 256 = s.pkg.num.toNat ∧ paPkg (2 ^ 43 + 0x10000) ≠ s.pkg.num.toNat ∧ s.cmdOfPacket src 3 = some c ∧
    c.kind = .getr ∧ ∀ b ∈ c.back, b.1 ≠ 0 := by
  decide +kernel

theorem witness_RemoteTransfersArriveOnce_lost : let c := { haloCmd with kind := .putr, halo := none }
    let s := { haloState with cmds := [c] }
    (s.cmds.find? fun c => c.id == 3 && !c.done) = some c ∧ (c.kind = .putr ∨ c.kind = .getr) ∧ (s.team c.team).user = true := by
  decide +kernel

theorem witness_RemoteTransfersArriveOnce_resend : let m := Msg.remote 1 0 0 0 0 []
    let s := { base with out := [m] }
    s.out[0]? = some m ∧ 0 ∉ s.pkg.ackedOut ∧ 0 ∈ [0] ∧ (match m with | .chunk .. | .tree .. | .halo .. | .remote .. | .remoteGet .. => True | _ => False) :=
  ⟨by decide +kernel, by decide +kernel, by decide, trivial⟩

end Sys2Proof.Tests
end

