-- ==== Sys2Proof/Tests/WitnessMemory.lean ====
section
/-! SUPPORT. Concrete states and operands that meet the hypotheses of the statements: classes 4 to 7, tiles and narrow formats. -/

set_option Elab.async false

namespace Sys2Proof.Tests
open Sys2Proof Sys2Proof.Machine Sys2Proof.Claims

/-! ## Class 4 -/

/-- p1 and p2 point into the scratchpad, p3 at 0x10000, p4 at 0x10100, each at 32 I32; p5 is SYN at scope DIE, p6 is a window's; lane 0 of m1 is
active and m2 names none; v2 holds each lane's number; s4 is 1 and s6 a whole object; s8 to s11 hold a grid of one element. -/
def padPtr (base : Nat) (ty : Ty) : QWord := ptrImg 1 0 0 base 32 ty false
def memGroup : Group :=
  { placeGroup with
      regs := { placeGroup.regs with
        v := vecPut placeGroup.regs.v 2 (Vector.ofFn fun L => BitVec.ofNat 32 L.val)
        s := #[(4, 1), (8, 1), (9, 1)].foldl (fun v x => vecPut v x.1 x.2) placeGroup.regs.s
        m := vecPut placeGroup.regs.m 1 1
        p := #[(1, padPtr 0 .i32), (2, padPtr 0x80 .i32), (3, ptrImg 0 0 0 0x10000 32 .i32 false), (4, ptrImg 0 0 0 0x10100 32 .i32 false),
          (5, ptrImg 0 2 2 0x10000 32 .i32 false), (6, ptrImg 3 0 1 0x100 32 .i32 false), (7, padPtr 0 .n32),
          (8, padPtr 0 .b128)].foldl (fun v x => vecPut v x.1 x.2) placeGroup.regs.p } }
def memState : State := base.setGroup 0 memGroup

theorem witness_PointersAreBuiltAndChecked : let s := memState
    let f := { vf 15 .i32 with sa := 1, sc := 4 }
    let p := ptrRec .loc .priv .core 0 32 .i32 false
    let q := s.cg.preg f.sa.toNat
    IssuesSplit s ∧ ptrV q = true ∧ ptrOf q = some p ∧ s.cg.paddCount f = some (Int.ofNat 1) ∧ ptrNfBad s.cg.nf p.ty = false ∧
    (contW s.cg.nf p.ty = 4 → 1 % 2 = 0) ∧ p.base + byteStep s.cg.nf p.ty 1 < 2 ^ spaceWidth p.sp ∧ ptrV (s.cg.preg 9) = false := by
  decide +kernel

theorem witness_PointersAreBuiltAndChecked_access : let s := memState
    let f := maf 7 1 2 .i32
    IssuesSplit s ∧ PtrOk s (s.cg.preg f.ptr.toNat) (pairOk s.cg.nf .rne f.ty) false (ptrRec .loc .priv .core 0 32 .i32 false) := by
  decide +kernel

/-- All 32 lanes at once, from the scratchpad, and from memory, and one uniform element. -/
theorem witness_LoadsDeliverTheirElements : let s := memState
    let p := ptrRec .loc .priv .core 0 32 .i32 false
    let f := maf 127 1 2 .i32
    let r := s.classify s.cur.g p f false [] (lanesOf (s.act f.msk))
    let r1 := s.classify s.cur.g p f false [] [0]
    IssuesSplit s ∧ PtrOk s (s.cg.preg f.ptr.toNat) (pairOk s.cg.nf .rne f.ty) false p ∧ AccessClear s r ∧ s.loadHeld p r.1.elems = false ∧
    r.1.elems.length = 32 ∧ AccessClear s r1 ∧ s.loadHeld p r1.1.elems = false := by
  decide +kernel

theorem witness_LoadsDeliverTheirElements_memory : let s := memState
    let p := ptrRec .glb .priv .core 0x10000 32 .i32 false
    let f := maf 127 3 2 .i32
    let r := s.classify s.cur.g p f false [] (lanesOf (s.act f.msk))
    IssuesSplit s ∧ PtrOk s (s.cg.preg f.ptr.toNat) (pairOk s.cg.nf .rne f.ty) false p ∧ AccessClear s r ∧ s.loadHeld p r.1.elems = false ∧
    r.1.elems.length = 32 := by
  decide +kernel

/-- The last word of a line through a page whose A and D bits are set, and a word of a scratchpad. -/
def memElem (pa : Nat) : Elem :=
  { place := .mem pa, nib := none, bytes := 4, leaf := some { base := 0x10000, size := 4096, leaf := 0x8E00_0000_0001_0C00#64, ea := 0x8080 } }
def padElem (o : Nat) : Elem := { place := .pad 0 o, nib := none, bytes := 4, leaf := none }

theorem steady_pad {s : State} {p : Ptr} {o : Nat} (h : 0 < s.teams.length) : Steady s p (padElem o) :=
  ⟨fun _ h => by simp [padElem] at h, fun h => absurd rfl h, h⟩

theorem steady_mem {s : State} {p : Ptr} {pa : Nat} (h1 : isIo pa = false) (h2 : pa % 128 + 4 ≤ 128) (h3 : s.mem.lines = []) :
    Steady s p (memElem pa) :=
  ⟨fun _ h => by simp only [memElem, Option.some.injEq] at h; subst h; decide, fun h => absurd rfl h, h1, h2, by rw [OneOwner, h3]; exact List.Pairwise.nil, fun _ l h => by
    simp [MemSys.line?, h3] at h⟩

theorem witness_LoadsDeliverTheirElements_element : Issues memState ∧ MemCanonical memState ∧
    Steady memState (ptrRec .glb .priv .core 0x10000 32 .i32 false) (memElem 0x1007C) ∧
    Steady memState (ptrRec .loc .priv .core 0 32 .i32 false) (padElem 124) :=
  ⟨by decide +kernel, by decide +kernel, steady_mem (by decide +kernel) (by decide +kernel) (by decide +kernel), steady_pad (by decide +kernel)⟩

theorem witness_StoresComplete : let s := memState
    let p := ptrRec .glb .priv .core 0x10000 32 .i32 false
    let f := maf 127 3 2 .i32
    let r := s.classify s.cur.g p f true [] (lanesOf (s.act f.msk))
    let ws := storeLanes s.cg.nf p f.ty f.rnd (fun L => s.cg.vlane f.data.toNat f.ty.regs L) r.1
    IssuesSplit s ∧ NotAhead s ∧ PtrOk s (s.cg.preg f.ptr.toNat) (pairOk s.cg.nf f.rnd f.ty) true p ∧ AccessClear s r ∧ s.storeErrors p ws = [] ∧
    (∀ e ∈ r.1.elems, ∀ pa, e.place = .mem pa → isIo pa = false) ∧ r.1.elems.length = 32 := by
  refine ⟨by decide +kernel, by decide +kernel, by decide +kernel, by decide +kernel, by decide +kernel, ?_, by decide +kernel⟩
  have h : ∀ e ∈ (memState.classify memState.cur.g (ptrRec .glb .priv .core 0x10000 32 .i32 false) (maf 127 3 2 .i32) true []
      (lanesOf (memState.act (maf 127 3 2 .i32).msk))).1.elems, (match e.place with | .mem pa => isIo pa | _ => false) = false := by decide +kernel
  intro e he pa hp
  have := h e he
  rwa [hp] at this

/-- One lane stores one element, to memory and to the scratchpad. -/
theorem witness_StoresWriteExactlyTheirBytes : let s := memState
    let p := ptrRec .glb .priv .core 0x10000 32 .i32 false
    let f := { maf 127 3 2 .i32 with msk := 1, off := 31 }
    let r := s.classify s.cur.g p f true [] (lanesOf (s.act f.msk))
    IssuesSplit s ∧ NotAhead s ∧ MemCanonical s ∧ PtrOk s (s.cg.preg f.ptr.toNat) (pairOk s.cg.nf f.rnd f.ty) true p ∧ AccessClear s r ∧
    r.1.elems = [memElem 0x1007C] ∧ ∀ e ∈ r.1.elems, Steady s p e := by
  have h : (memState.classify memState.cur.g (ptrRec .glb .priv .core 0x10000 32 .i32 false) { maf 127 3 2 .i32 with msk := 1, off := 31 } true []
      (lanesOf (memState.act 1))).1.elems = [memElem 0x1007C] := by decide +kernel
  refine ⟨by decide +kernel, by decide +kernel, by decide +kernel, by decide +kernel, by decide +kernel, h, ?_⟩
  intro e he
  have he' : e ∈ [memElem 0x1007C] := h ▸ he
  rw [List.mem_singleton.mp he']
  exact steady_mem (by decide +kernel) (by decide +kernel) (by decide +kernel)

theorem witness_StoresWriteExactlyTheirBytes_uniform : let s := memState
    let p := ptrRec .loc .priv .core 0 32 .i32 false
    let f := { maf 63 1 0 .i32 with ik := .none, off := 31 }
    let r := s.classify s.cur.g p f true [] [0]
    PtrOk s (s.cg.preg f.ptr.toNat) (pairOk s.cg.nf f.rnd f.ty) true p ∧ AccessClear s r ∧ r.1.elems = [padElem 124] ∧
    ∀ e ∈ r.1.elems, Steady s p e := by
  have h : (memState.classify memState.cur.g (ptrRec .loc .priv .core 0 32 .i32 false) { maf 63 1 0 .i32 with ik := .none, off := 31 } true []
      [0]).1.elems = [padElem 124] := by decide +kernel
  refine ⟨by decide +kernel, by decide +kernel, h, ?_⟩
  intro e he
  have he' : e ∈ [padElem 124] := h ▸ he
  rw [List.mem_singleton.mp he']
  exact steady_pad (by decide +kernel)

/-! ## Class 5 -/

/-- PWIDEN p15, p3 to SYN DIE; PNARROW p15, p5 to PRIV CLUS; element 31 on, and element 33, which is none. -/
theorem witness_RetypingWritesBackAndCompletes : let s := memState
    let w : RTF := { rtf 15 3 with off := 31 }
    let n : RTF := { rtf 15 5 with nscope := .clus, nclass := .priv, off := 33 }
    let p := ptrRec .glb .priv .core 0x10000 32 .i32 false
    let q := ptrRec .glb .syn .die 0x10000 32 .i32 false
    IssuesSplit s ∧ NotAhead s ∧ PtrOk s (s.cg.preg w.pa.toNat) (fun _ => true) false p ∧ PtrOk s (s.cg.preg n.pa.toNat) (fun _ => true) false q ∧
    retypeOk true p w.nclass w.nscope = true ∧ retypeOk false q n.nclass n.nscope = true ∧
    (ptrOf (retyped (s.cg.preg w.pa.toNat) w.nclass w.nscope 0)).isSome = true ∧
    (ptrOf (retyped (s.cg.preg n.pa.toNat) n.nclass n.nscope 0)).isSome = true ∧
    subRange s.cg.nf p w.off.toInt none = some (31, 1) ∧ subRange s.cg.nf q n.off.toInt none = none ∧ n.pd.toNat < 16 := by
  decide +kernel

theorem witness_RetypingWritesBackAndCompletes_complete :
    let r : Retype := { pd := 15, q := ptrImg 0 2 2 0x10000 32 .i32 false, lines := [0x200], drop := true, n := 1 }
    let l : Line := { clus := 0, line := 0x200, st := .ud, data := 5, dirty := 1, rel := none }
    let s := { base.setGroup 0 { placeGroup with retype := some r } with mem := { base.mem with lines := [l] } }
    MemCanonical s ∧ 0 < s.groups.length ∧ (s.group 0).retype = some r ∧ (s.group 0).ra = none ∧ (∀ ln ∈ r.lines, s.mem.poisoned ln = false) ∧
    r.pd < 16 ∧ vecAt (s.group 0).regs.pNo r.pd 0 ≤ r.n ∧ r.lines = [0x200] ∧
    s.mem.line? (clusterOf (s.team (s.group 0).team).core) 0x200 = some l ∧ l.st = .ud ∧ 0 < 128 ∧ bit l.dirty 0 = true ∧
    s.mem.ownedFar 0x200 = false := by
  decide +kernel

/-! ## Class 6 -/

theorem witness_AtomicsCombineOnce : let s := memState
    let p := ptrRec .loc .priv .core 0 32 .i32 false
    let f := { maf 126 1 2 .i32 with fn := 4 }
    let r := s.classify s.cur.g p f true [] (lanesOf (s.act f.msk))
    IssuesSplit s ∧ NotAhead s ∧ PtrOk s (s.cg.preg f.ptr.toNat) (· == f.ty) true p ∧ AccessClear s r ∧
    (s.atomLanes s.cur.g p .cas f (s.cg.vlane f.data.toNat f.ty.regs) (s.cg.vlane (f.data.toNat + f.ty.regs) f.ty.regs) r.1).2.2.2 = [] := by
  decide +kernel

theorem witness_AtomicsCombineOnce_event : let h : Nat → Nat × Fl := fun x => (x + 1, 0)
    let p := ptrRec .glb .priv .core 0x10000 32 .i32 false
    Issues memState ∧ MemCanonical memState ∧ Steady memState p (memElem 0x1007C) ∧ (memElem 0x1007C).bytes ≤ 8 ∧
    (memState.atomic memState.cur.g p (memElem 0x1007C) h).toOption.isSome = true ∧
    memState.mem.line? (clusterOf memState.ct.core) (0x1007C / 128) = none ∧ Steady memState p (padElem 124) ∧
    (memState.atomic memState.cur.g p (padElem 124) h).toOption.isSome = true :=
  ⟨by decide +kernel, by decide +kernel, steady_mem (by decide +kernel) (by decide +kernel) (by decide +kernel), by decide +kernel, by decide +kernel,
    by decide +kernel, steady_pad (by decide +kernel), by decide +kernel⟩

theorem witness_AtomicsCombineOnce_packet : let s := base
    let d : AtomDone := { src := 7, seq := 1, old := 0, fl := 0, rel := none }
    let s' := { s with pkg := { s.pkg with atomSeen := [d] } }
    s'.pkg.atomSeen.find? (fun d => d.src == 7 && d.seq == 1) = some d ∧
    s.pkg.atomSeen.find? (fun d => d.src == 7 && d.seq == 1) = none ∧ MemCanonical s ∧ s.homedHere (0x10078 / 128) = true ∧
    s.mem.poisoned (0x10078 / 128) = false ∧ s.waits (.mem 0x10078) = false ∧ (codingOf (fun _ => 0) .i64).w / 8 = 8 ∧ 0x10078 % 8 = 0 ∧
    0x10078 % 128 + 8 ≤ 128 ∧ s.mem.line? 32 (0x10078 / 128) = none ∧
    OneOwner s.mem := by
  decide +kernel

theorem witness_AtomicsCombineOnce_value : let c := codingOf (fun _ => 0) .i8
    Ty.isI .i8 = true ∧ intOf .i8 127 = some 127 ∧ intOf .i8 129 = some (-127) ∧ 127 < 2 ^ c.w ∧ 129 < 2 ^ c.w ∧ Ty.isB .b32 = true := by
  decide +kernel

/-- b15 of a team of one group: BARRIVE and BSYNC complete its phase; BINIT takes the counts 0 to 31. -/
theorem witness_TeamBarriersCountPhases : let s := base
    let f := { baf 0 0 15 with cnt := 31 }
    let x := s.ct.bar f.bnum.toNat
    IssuesSplit s ∧ TeamHeld s ∧ Original s ∧ NotAhead s ∧ WholeGroup s ∧ s.cg.gidx < 32 ∧ (s.cg.cntVal f).toNat ≤ 31 ∧ s.cg.bankPending = false ∧
    s.ct.don = [] ∧ x.arrived s.cg.gidx = false ∧ s.cset.served = 0 ∧ popc x.memb + x.extra.toNat ≤ x.arrv + 1 ∧
    1 ≤ (x.ph + 1 - vecAt x.wph s.cg.gidx 0).toNat ∧ bit x.memb s.cg.gidx = true := by
  decide +kernel

theorem witness_TeamBarriersCountPhases_wait : let s := base.modTeam 0 fun u => { u with bars := vecPut u.bars 15 { Bar.fresh 1 with ph := 1 } }
    let x := s.ct.bar (baf 0 0 15).bnum.toNat
    IssuesSplit s ∧ TeamHeld s ∧ 1 ≤ (x.ph - vecAt x.wph s.cg.gidx 0).toNat := by
  decide +kernel

/-- The object at offset 0x78 of the scratchpad: SEQ 0 and 2 expected arrivals; CNT is 1. -/
def objState : State :=
  ((memState.setGroup 0 { memGroup with regs := { memGroup.regs with s := vecPut (vecPut memGroup.regs.s 2 0x78) 12 255 } }).padWrite 0 0x78 8
    (2 * 2 ^ 16))

theorem witness_BarrierObjectsAndPaddocksCountPhases : let s := objState
    let f := { baf 6 2 0 with cnt := 1, fn := 12 }
    let o := s.objAt 0 0x78
    let v := s.cg.cntVal f
    IssuesSplit s ∧ NotAhead s ∧ MemCanonical s ∧ 0 < s.teams.length ∧
    s.objPlace s.cg.team (objSpace f) (s.cg.sreg f.sa.toNat).toNat = some (0, 0x78) ∧ 1 ≤ v.toNat ∧ v.toNat ≤ 65535 ∧
    objArr o + v.toNat ≤ objExp o ∧ v ≠ 0x80000000#32 ∧ -(2 ^ 21) ≤ objOwed o + v.toInt ∧ objOwed o + v.toInt < 2 ^ 21 ∧
    (bit f.fn 3 = true → objArr o + 1 ≤ objExp o) ∧ 2 ≤ objExp o := by
  decide +kernel

/-- The token 255 has passed at SEQ 0, and 0 has not. -/
theorem witness_BarrierObjectsAndPaddocksCountPhases_tokens : let s := objState
    let o := s.objAt 0 0x78
    objPassed o ((s.cg.cntVal { baf 6 2 0 with ck := .reg, cnt := 12 }).setWidth 8) = true ∧
    objPassed o ((s.cg.cntVal (baf 6 2 0)).setWidth 8) = false := by
  decide +kernel

/-- A paddock of one team of one group. -/
def paddockState (b : PBar) : State :=
  let s := base.modTeam 0 fun u => { u with paddock := some 0 }
  { s with paddocks := [{ grid := 0, teams := [0], clus0 := 0, clus1 := none, bars := vecPut (Vector.replicate 4 {}) 3 b }] }

theorem witness_BarrierObjectsAndPaddocksCountPhases_paddock : let s := paddockState {}
    let b := (baf 0 0 3).bnum.toNat
    let x := s.pbar 0 b
    let s1 := s.modPBar 0 b fun y => { y with arrp := insertK y.arrp s.cur.g y.ph }
    IssuesSplit s ∧ Original s ∧ NotAhead s ∧ WholeGroup s ∧ s.ct.paddock = some 0 ∧ 0 < s.paddocks.length ∧ b < 4 ∧
    (∃ u ∈ (s.paddock 0).teams, (s.team u).st ≠ .ended) ∧ x.arrived s.cur.g = false ∧ s.cset.served = 0 ∧ (s.paddock 0).clus1 = none ∧
    s1.halfArrived 0 b false = true ∧ 1 ≤ (x.ph + 1 - lookupD x.wph s.cur.g 0).toNat := by
  decide +kernel

theorem witness_BarrierObjectsAndPaddocksCountPhases_wait : let s := paddockState { ph := 1 }
    let x := s.pbar 0 (baf 0 0 3).bnum.toNat
    IssuesSplit s ∧ s.ct.paddock = some 0 ∧ 1 ≤ (x.ph - lookupD x.wph s.cur.g 0).toNat := by
  decide +kernel

theorem witness_BarrierObjectsAndPaddocksCountPhases_cross : let s := paddockState { local0 := true, local1 := true }
    (s.pbar 0 3).local0 = true ∧ (s.pbar 0 3).local1 = true ∧ 0 < s.paddocks.length ∧ 3 < 4 := by
  decide +kernel

end Sys2Proof.Tests
end

