-- ==== Sys2Proof/Tests/WitnessTasks.lean ====
section
/-! SUPPORT. Concrete states and operands that meet the hypotheses of the statements: tasks, bins, the scheduler, saved teams. -/

set_option Elab.async false

namespace Sys2Proof.Tests
open Sys2Proof Sys2Proof.Machine Sys2Proof.Claims

/-- A state whose context 0 maps the first GiB to physical 0 (its tables lie at 0x1000, 0x2000, 0x3000), with a quadword at 0x80. -/
def mapped (s : State) (w : Nat) : State :=
  { s with
      mem := { s.mem with
        tlb := []
        cells := cellsWrite (cellsWrite (cellsWrite (cellsWrite [] 0x80 (leBytes 8 w)) 0x1000 (leBytes 8 0x4000000000002000)) 0x2000
          (leBytes 8 0x4000000000003000)) 0x3000 (leBytes 8 0x8E00000000000C00) }
      pkg := { s.pkg with ctxs := [(0, { Ctx.dead with cfg := 0xA000_0000_0001_0000#64, root := 0x1000 })], parts := Vector.replicate 16 (BitVec.allOnes 128) } }

/-- The lane 0 of m1 is active; p1 names one TCB at 0x80; v4 holds 0, or 1 past the end. -/
def launchState (sync idx : Nat) : State :=
  (mapped base sync).setGroup 0 { placeGroup with
    regs := { placeGroup.regs with
      p := vecPut placeGroup.regs.p 1 (ptrImg 0 2 4 0x80 8 .b128 true), m := vecPut placeGroup.regs.m 1 1
      v := vecPut placeGroup.regs.v 4 (Vector.replicate 32 (BitVec.ofNat 32 idx)) } }

def launchF : ENF := { enf 10 1 4 0 .f64 with msk := 1 }

def launchHyp (sync : Nat) : Prop :=
  let s := launchState sync 0
  let p := ptrRec .glb .syn .pod 0x80 8 .b128 true
  let l : Leaf := { base := 0, size := 2 ^ 30, leaf := 0x8E00000000000C00#64, ea := 0x3000 }
  MemCanonical s ∧ IssuesSplit s ∧ NotAhead s ∧ Original s ∧ 0 < 32 ∧ s.act launchF.msk = 1#32 <<< 0 ∧
  s.tcbPtr s.cur.g (s.cg.preg launchF.sa.toNat) = none ∧ ptrOf (s.cg.preg launchF.sa.toNat) = some p ∧
  s.tcbLane p 0 (n32 (BitVec.ofNat 32 (s.cg.vlane launchF.sb.toNat 1 0))) = .at 0x80 0x80 ∧ s.waits (.mem 0x80) = false ∧
  (s.lookup s.ct.core s.ct.ctx s.ct.user .store 0x80) = .ok l ∧ bit l.leaf 10 = true ∧ bit l.leaf 11 = true ∧
  ({ s with mem := s.mem.forHome (clusterOf s.ct.core) 1 } : State).syncAt 0x80 = BitVec.ofNat 64 sync

/-- IDLE with PRED 1. -/
theorem witness_LaunchAndDependWorkOnTheSyncWord_idle : launchHyp 1 ∧ tcbState 1 = 0 ∧ tcbPred 1 ≠ 0 := by
  unfold launchHyp; decide +kernel
/-- IDLE without predecessors, and with one. -/
theorem witness_LaunchAndDependWorkOnTheSyncWord_release : launchHyp 0 ∧ tcbState 0 = 0 ∧ tcbPred 0 = 0 ∧ tcbPred 1 = 1 ∧ tcbState 1 ≠ 1 := by
  unfold launchHyp; decide +kernel
/-- WAIT with PRED 1, submitted by a user task. -/
theorem witness_LaunchAndDependWorkOnTheSyncWord_last : launchHyp 0x2000000000000001 ∧ tcbState 0x2000000000000001#64 = 1 ∧
    tcbPred 0x2000000000000001#64 = 1 ∧
    (let s0 := launchState 0x2000000000000001 0
     let s := { s0 with grids := s0.grids ++ [{ Grid.dead with tcb := 0x80, ctx := 0, phase := .wait }] }
     IssuesSplit s ∧ Original s ∧ s.tcbPtr s.cur.g (s.cg.preg launchF.sa.toNat) = none ∧ (List.range s.grids.length).find? (fun k => (s.grid k).phase == .wait && (s.grid k).ctx == s.ct.ctx &&
       (s.grid k).tcb == BitVec.ofNat 64 0x80) = some 1 ∧ (s.grid 1).user = true) := by
  unfold launchHyp; decide +kernel
/-- Three lanes at one TCB, and none of them with a fault. -/
theorem witness_LaunchAndDependWorkOnTheSyncWord_lanes :
    let s0 := launchState 2 0
    let s := s0.setGroup 0 { s0.group 0 with regs := { (s0.group 0).regs with m := vecPut (s0.group 0).regs.m 1 7 } }
    let p := ptrRec .glb .syn .pod 0x80 8 .b128 true
    IssuesSplit s ∧ NotAhead s ∧ Original s ∧ s.tcbPtr s.cur.g (s.cg.preg launchF.sa.toNat) = none ∧ ptrOf (s.cg.preg launchF.sa.toNat) = some p ∧
    (∀ g ∈ s.grids, g.phase = .wait → g.user = true) ∧ lanesOf (s.act launchF.msk) = [0, 1, 2] ∧
    (∀ L ∈ [0, 1, 2], s.tcbLane p L (n32 (BitVec.ofNat 32 (s.cg.vlane launchF.sb.toNat 1 L))) = .at 0x80 0x80) ∧ s.waits (.mem 0x80) = false := by
  decide +kernel
/-- WAIT with PRED 2. -/
theorem witness_LaunchAndDependWorkOnTheSyncWord_wait : launchHyp 0x2000000000000002 ∧ tcbState 0x2000000000000002#64 ≠ 0 ∧
    2 ≤ tcbPred 0x2000000000000002#64 := by
  unfold launchHyp; decide +kernel
/-- RUN with PRED 0. -/
theorem witness_LaunchAndDependWorkOnTheSyncWord_zero : launchHyp 0x6000000000000000 ∧ tcbPred 0x6000000000000000#64 = 0 := by
  unfold launchHyp; decide +kernel
theorem witness_LaunchAndDependWorkOnTheSyncWord_out : let s := launchState 0 1
    let p := ptrRec .glb .syn .pod 0x80 8 .b128 true
    MemCanonical s ∧ IssuesSplit s ∧ s.act launchF.msk = 1#32 <<< 0 ∧ s.tcbPtr s.cur.g (s.cg.preg launchF.sa.toNat) = none ∧
    ptrOf (s.cg.preg launchF.sa.toNat) = some p ∧ s.tcbLane p 0 (n32 (BitVec.ofNat 32 (s.cg.vlane launchF.sb.toNat 1 0))) = .out := by
  decide +kernel

/-! ## Spawn bins -/

/-- The key is 0x100; lane 0 of m1 is active; the grid has two spawn records. -/
def spawnState (bins : List (Option Bin)) : State :=
  let s := mapped base 0
  { s.setGroup 0 { placeGroup with
      regs := { placeGroup.regs with s := vecPut placeGroup.regs.s 2 0x100, m := vecPut placeGroup.regs.m 1 1 } } with
      grids := s.grids.map fun g => { g with nspawn := 2 }, pkg := { s.pkg with bins } }

def spawnF : ENF := { enf 0 2 4 0 .f64 with msk := 1 }
def someBin (n : Nat) (launched : Bool) : Bin := { grid := 0, khdr := 0x100, threads := List.replicate n 0, opened := 0, launched, since := 0 }

def spawnLanes (s : State) : List Nat := lanesOf (s.act spawnF.msk &&& ~~~s.cset.served)
def spawnKey (s : State) : DWord := s.cg.spair spawnF.sa.toNat

theorem witness_SpawnBinsFillAndLaunch_open : let s := spawnState (List.replicate 63 none ++ [some (someBin 30 false)])
    IssuesSplit s ∧ NotAhead s ∧ Original s ∧ (s.grid s.ct.grid).nspawn ≠ 0 ∧ spawnLanes s = [0] ∧
    s.openBin s.ct.grid (spawnKey s) = some 63 ∧ s.bin 63 = some (someBin 30 false) ∧ (someBin 30 false).threads.length + 1 < 32 := by
  decide +kernel

theorem witness_SpawnBinsFillAndLaunch_new : let s := spawnState (some (someBin 1 true) :: List.replicate 63 none)
    IssuesSplit s ∧ (s.grid s.ct.grid).nspawn ≠ 0 ∧ spawnLanes s = [0] ∧
    s.openBin s.ct.grid (spawnKey s) = none ∧ (List.range 64).find? (fun b => (s.bin b).isNone) = some 1 ∧
    s.pkg.bins.length = 64 := by
  decide +kernel

theorem witness_SpawnBinsFillAndLaunch_full : let s := { spawnState (some (someBin 1 true) :: List.replicate 63 none) with
      grids := [{ Grid.dead with nspawn := 0 }] }
    0 < 64 ∧ s.bin 0 = some (someBin 1 true) ∧ (s.grid 0).held = false ∧ s.freeRecord 0 = none := by
  decide +kernel

/-- A kernel header at 0x100: the magic, ENTRY 0x10000, one group in one role. -/
def headerCells (c : List Host.Cell) : List Host.Cell :=
  cellsWrite (cellsWrite (cellsWrite c 0x100 (leBytes 16 (0x14B48 + 0x10000 * 2 ^ 64))) 0x128 (leBytes 8 (2 ^ 16 + 2 ^ 24))) 0x140
    (leBytes 8 (0x100 + 63 * 2 ^ 17 + 31 * 2 ^ 24))
def headerState : State :=
  let s := spawnState (List.replicate 63 none ++ [some (someBin 1 false)])
  { s with mem := { s.mem with cells := headerCells s.mem.cells } }

theorem witness_SpawnBinsFillAndLaunch_launch : let s := headerState
    63 < 64 ∧ s.bin 63 = some (someBin 1 false) ∧ (s.grid 0).held = false ∧ s.freeRecord 0 = some 0 ∧
    ∃ h, (s.readHeader (s.grid 0).ctx 0x100) = .ok (some h) ∧ h.groups = 1 ∧ h.matrix = false := by
  refine ⟨by decide +kernel, by decide +kernel, by decide +kernel, by decide +kernel,
    { va := 0x100, entry := 0x10000, traph := 0, matrix := false, mxentry := 0, sptab := 0, spcount := 0, groups := 1, scratch := 0, const := 0,
      roles := [{ first := 0, count := 1, consumer := false, vlim := 63, slim := 31, xauto := false }] }, by decide +kernel, rfl, rfl⟩

/-- Four lanes for a bin with room for two: no record is free; or one is, with a header; another bin takes the rest. -/
def fillState (spawned : Nat) : State :=
  let g := { (headerState.group 0) with regs := { (headerState.group 0).regs with m := vecPut (headerState.group 0).regs.m 1 15 } }
  let s := headerState.setGroup 0 g
  { s with
      teams := s.teams ++ (List.range spawned).map fun r => { placeTeam true false with st := .queued, tid := r + 1, spawnRec := some r }
      pkg := { s.pkg with bins := List.replicate 63 none ++ [some (someBin 30 false)] } }

theorem witness_SpawnBinsFillAndLaunch_fills : ∀ n ∈ [0, 2], let s := fillState n
    IssuesSplit s ∧ NotAhead s ∧ Original s ∧ (s.grid s.ct.grid).nspawn ≠ 0 ∧ spawnLanes s = [0, 1, 2, 3] ∧ spawnKey s = 0x100 ∧
    s.openBin s.ct.grid 0x100 = some 63 ∧ s.bin 63 = some (someBin 30 false) ∧ 32 ≤ (someBin 30 false).threads.length + 4 ∧ s.pkg.bins.length = 64 ∧
    (∀ c, c < 64 → c ≠ 63 → s.bin c = none) ∧ (s.grid s.ct.grid).held = false ∧ (List.range 64).find? (fun b => (s.bin b).isNone) = some 0 ∧
    s.freeRecord s.ct.grid = if n = 2 then none else some 0 := by
  decide +kernel

theorem witness_SpawnBinsFillAndLaunch_header : let s := fillState 0
    ∃ h, (s.readHeader (s.grid s.ct.grid).ctx 0x100) = .ok (some h) ∧ h.groups = 1 ∧ h.matrix = false := by
  refine ⟨
    { va := 0x100, entry := 0x10000, traph := 0, matrix := false, mxentry := 0, sptab := 0, spcount := 0, groups := 1, scratch := 0, const := 0,
      roles := [{ first := 0, count := 1, consumer := false, vlim := 63, slim := 31, xauto := false }] }, by decide +kernel, rfl, rfl⟩

/-- Every bin is in use for other kernels, and no record is free. -/
theorem witness_SpawnBinsFillAndLaunch_oldest : let b := { someBin 1 true with khdr := 0x200 }
    let s := { fillState 2 with pkg := { (fillState 2).pkg with bins := List.replicate 64 (some b) } }
    IssuesSplit s ∧ s.openBin s.ct.grid (spawnKey s) = none ∧ (List.range 64).find? (fun b => (s.bin b).isNone) = none ∧
    s.oldestBin = some 0 ∧ s.bin 0 = some b ∧ spawnLanes s ≠ [] ∧ s.freeRecord b.grid = none := by
  decide +kernel

/-! ## The scheduler -/

/-- One queued team, nothing resident. -/
def queuedState : State :=
  { mapped base 0 with groups := [], teams := [{ placeTeam true false with st := .queued }] }

theorem witness_SchedulerPlacesAndAsks_place : let s := queuedState
    let p : Placed := { team := 0, core := 0, slots := [(0, 0)] }
    s.byWait s.waitingUnits = 0 :: [] ∧ s.fitUnit s.loads 0 = some ([p], 0, none) ∧ p.team = 0 ∧ s.unitTeams 0 = [0] ∧
    (s.team 0).st = .queued ∧ (s.paramWords 0) = .ok [] ∧ 0 < s.teams.length := by
  decide +kernel

theorem witness_SchedulerPlacesAndAsks_quiet : let s1 := base.setTeam 0 { base.team 0 with qexp := true }
    0 < base.teams.length ∧ (base.team 0).timed = true ∧ base.unitTeams 0 = [0] ∧ s1.byWait s1.waitingUnits = [] ∧
    ((base.modTeam 0 fun u => { u with tstop := true }).team 0).timed = false := by
  decide +kernel

/-- Core 0 is the only one in the partition's reach, a matrix team holds its engine, and another matrix team waits. -/
def askState : State :=
  let s := mapped base 0
  let h : Header := { placeHdr true with roles := [{ first := 0, count := 4, consumer := true, vlim := 63, slim := 31, xauto := false }] }
  { s with
      groups := placeConsumers
      teams := [{ placeTeam true true with hdr := h }, { placeTeam true true with hdr := h, st := .queued, tid := 1 }]
      pkg := { s.pkg with retired := (List.range 7).map (· + 1), parts := Vector.replicate 16 1 } }

theorem witness_SchedulerPlacesAndAsks_ask : let s1 := askState.setTeam 0 { askState.team 0 with qexp := true }
    0 < askState.teams.length ∧ (askState.team 0).timed = true ∧ askState.unitTeams 0 = [0] ∧ s1.byWait s1.waitingUnits = 1 :: [] ∧ s1.fitUnit s1.loads 1 = none ∧
    s1.toRequest 1 = some [0] := by
  decide +kernel

/-! ## Saved teams and the end of a task -/

/-- The first GiB is mapped, and the context area of the task begins at 4 MiB. -/
def areaState (f : Team → Team) : State := ((mapped base 0).modGrid 0 fun g => { g with ctxa := 0x400000 }).modTeam 0 f

theorem witness_TeamsAreSavedAndTasksRetire_saved : let s := areaState fun u => { u with st := .saving }
    let img := teamImage (s.teamWords 0)
    0 < s.teams.length ∧ (s.team 0).held = false ∧ (s.team 0).tstop = false ∧ (s.team 0).st = .saving ∧
    (∀ g ∈ s.liveGroups 0, (s.group g).inRoutine = false) ∧ s.copying 0 = false ∧
    ∃ s1, s.writePages (s.team 0).ctx [(s.teamRecord 0, 4096, img % 2 ^ 32768), (s.teamRecord 0 + 4096, 4096, img / 2 ^ 32768)] = .ok s1 := by
  refine ⟨by decide +kernel, by decide +kernel, by decide +kernel, by decide +kernel, by decide +kernel, by decide +kernel, ok_of_isOk ?_⟩
  decide +kernel

/-- The team image that memory holds there has VERSION 0. -/
theorem witness_TeamsAreSavedAndTasksRetire_version : let s := areaState fun u => { u with st := .restoring }
    s.unitTeams 0 = [0] ∧ (s.team 0).held = false ∧ (s.team 0).st = .restoring ∧ (s.team 0).imaged = false ∧ (s.team 0).hdr.matrix = false ∧
    ∃ v q gs, (s.readImages 0) = .ok (v, q, gs) ∧ v % 2 ^ 32 ≠ 1 :=
  ⟨by decide +kernel, by decide +kernel, by decide +kernel, by decide +kernel, by decide +kernel, 0, 0, [(0, 0)], by decide +kernel, by decide⟩

/-- The group's first routine has returned; another follows. -/
def routineGroup (pc : DWord) : Group :=
  { placeGroup with inRoutine := true, routines := [0x20000], sets := vecPut placeGroup.sets 0 { lanes := ones32, st := .ready, pc } }
def routineState : State := (base.modTeam 0 fun u => { u with st := .saving }).setGroup 0 (routineGroup routineRet)

theorem routineGroup_sets (pc : DWord) : (routineGroup pc).laneSets = [{ lanes := ones32, st := .ready, pc }] := rfl

theorem witness_TeamsAreSavedAndTasksRetire_routine : let s := routineState
    (s.team 0).held = false ∧ (s.team 0).tstop = false ∧ (s.team 0).st = .saving ∧ s.liveGroups 0 = [0] ∧ (s.group 0).routineDone = true ∧
    (s.group 0).routines = 0x20000 :: [] := by
  refine ⟨by decide +kernel, by decide +kernel, by decide +kernel, by decide +kernel, ?_, by decide +kernel⟩
  have h : routineState.group 0 = routineGroup routineRet := rfl
  rw [h]
  unfold Group.routineDone
  rw [routineGroup_sets]
  simp [routineGroup, placeGroup, Group.dead]

theorem witness_TeamsAreSavedAndTasksRetire_restore :
    let s := (areaState fun u => { u with st := .restoring, imaged := true }).setGroup 0 { placeGroup with live := 0 }
    0 < s.teams.length ∧ s.unitTeams 0 = [0] ∧ (s.team 0).held = false ∧ (s.team 0).st = .restoring ∧ (s.team 0).imaged = true ∧ s.liveGroups 0 = [0] ∧
    (s.group 0).inRoutine = false ∧ (∃ v q img, (s.readImages 0) = .ok (v, q, [(0, img)]) ∧ (s.group 0).imageOk img = true) := by
  refine ⟨by decide +kernel, by decide +kernel, by decide +kernel, by decide +kernel, by decide +kernel, by decide +kernel, by decide +kernel, 0, 0, 0, ?_, ?_⟩
  · decide +kernel
  · decide +kernel

theorem witness_TeamsAreSavedAndTasksRetire_retire :
    let s := (mapped base 0x6000000000000000).modTeam 0 fun u => { u with st := .ended }
    let t := s.modGrid 0 fun g => { g with tcb := 0x80 }
    MemCanonical t ∧ 0 < t.grids.length ∧ t.mayRetire 0 = true ∧
    (∀ l ∈ t.mem.lines, (t.grid 0).clusters.contains l.clus = true → l.st ≠ .ud) ∧ (t.syncPa (t.grid 0).ctx (t.grid 0).tcb) = .ok 0x80 ∧
    ∀ ln ∈ linesOf 0x80 8, t.mem.ownedFar ln = false := by
  decide +kernel

theorem witness_TeamsAreSavedAndTasksRetire_end : let s := base.modGrid 0 fun g => { g with phase := .retiring }
    0 < s.grids.length ∧ (s.grid 0).phase = .retiring ∧ (s.grid 0).held = false ∧ (s.grid 0).succs = [] ∧ (s.grid 0).novf = 0 ∧
    (s.grid 0).ev = false ∧ s.isService 0 = false := by
  decide +kernel

theorem witness_TeamsAreSavedAndTasksRetire_successor :
    let s := (mapped base 2).modGrid 0 fun g => { g with phase := .retiring, succs := [0x80] }
    0 < s.grids.length ∧ (s.grid 0).phase = .retiring ∧ (s.grid 0).held = false ∧ (s.grid 0).succs = 0x80 :: [] ∧
    (s.syncPa (s.grid 0).ctx 0x80) = .ok 0x80 ∧ tcbPred ((s.touchS fedCore (s.grid 0).ctx .store 0x80 8).syncAt 0x80) ≠ 1 ∧
    ∀ ln ∈ linesOf 0x80 8, s.mem.ownedFar ln = false := by
  decide +kernel

end Sys2Proof.Tests
end

