-- ==== Sys2Proof/Tests/WitnessPackage.lean ====
section
/-! SUPPORT. Concrete states and operands that meet the hypotheses of the statements: the package's events, host commands, registers and bring-up. -/

set_option Elab.async false

namespace Sys2Proof.Tests
open Sys2Proof Sys2Proof.Machine Sys2Proof.Claims

/-- `base` with its package changed. -/
def withP (f : Pkg → Pkg) : State := { base with pkg := f base.pkg }

theorem answered {α β : Type} {x : Except α β} (h : (match x with | .ok _ => true | .error _ => false) = true) : ∃ y, x = .ok y := by
  cases x with
  | ok y => exact ⟨y, rfl⟩
  | error e => simp at h

/-! ## Events of the package -/

/-- A record of the team's one group. -/
def groupRec : FaultRec :=
  { code := 4, sub := 3, scope := .group, ctx := 0, team := 0, group := 0, gidx := 0, lanes := 0xFF, pc := 0x10000, va := 0, tcb := 0, info := 0,
    core := 0, flags := 0, extra := [], info32 := [], unit := 0 }

/-- Context 0 has a queue of 16 slots at 0x8000, which is mapped; a record is raised. -/
def raisedState : State :=
  let s := mapped base 0
  { s with faults := [groupRec], pkg := { s.pkg with ctxs := s.pkg.ctxs.map fun c => (c.1, { c.2 with fqbase := 0x8000, fqsize := 16 }) } }

theorem witness_PackageEventsTakeEffect_post : let s := raisedState
    let c := s.ctx 0
    (s.faults.find? fun r => !(s.ctx r.ctx).full) = some groupRec ∧ c.svctcb = 0 ∧
    (∃ s2, { s with faults := s.faults.erase groupRec }.writeS fedCore 0 (c.fqbase.toNat + 1024 * c.tail) 1024 (s.recImage groupRec) = .ok s2) ∧
    1 ≤ c.fqsize.toNat ∧ c.fqsize.toNat ≤ 4096 ∧ c.tail < c.fqsize.toNat ∧ c.head < c.fqsize.toNat ∧ base.faults = [] := by
  refine ⟨by decide +kernel, by decide +kernel, answered (by decide +kernel), by decide +kernel, by decide +kernel, by decide +kernel,
    by decide +kernel, rfl⟩

/-- The queue of context 0 has no slot; its service task stands at an FWAIT at 0x10000. -/
def haltState : State :=
  { baseS with
      faults := [groupRec], grids := baseS.grids.map fun g => { g with service := true }
      groups := [{ placeGroup with sets := vecPut placeGroup.sets 0 { lanes := ones32, st := .ready, pc := 0x10000, stalled := true } }]
      mem := { baseS.mem with cells := cellsWrite [] 0x10000 (leBytes 8 0x5000300) } }

theorem witness_PackageEventsTakeEffect_halt : let s := haltState
    (∀ x ∈ s.faults, (s.ctx x.ctx).full = true) ∧
    (s.faults.find? fun r => !bit (s.ctx r.ctx).cfg 62 && s.serviceWaits r.ctx) = some groupRec := by
  decide +kernel

/-- The quarter of core 0 and the L1 set of line 9 are to be tested, under the ids 5 and 6. -/
def someTests : List UnitTest := [{ id := 5, cls := 0, place := 0, line := none }, { id := 6, cls := 1, place := 9, line := some 9 }]

/-- Errors, self-tests, the recorder, heat: context 0 is enabled; the quarter's test waits for its team, the set's does not. -/
theorem witness_PackageEventsTakeEffect : let s := withP fun p => { p with tests := someTests }
    (∀ g ∈ s.groups, g.ra = none ∧ g.homes = []) ∧ 0 < s.teams.length ∧ (s.team 0).user = true ∧ (∀ r ∈ s.faults, r.scope ≠ .team) ∧
    (∀ c ∈ s.pkg.ctxs, c.2.opened = []) ∧ (∃ c, (0, c) ∈ s.pkg.ctxs ∧ bit c.cfg 63 = true) ∧ 
    (s.pkg.tests.find? fun x => x.id == 6).map s.testRuns = some true ∧ (s.pkg.tests.find? fun x => x.id == 5).map s.testRuns = some false ∧
    ({ s with teams := [] } : State).testRuns { id := 5, cls := 0, place := 0, line := none } = true ∧ s.pkg.recording = false ∧ 3 ≤ 5 ∧ 0x100 < 0x2A0 := by
  refine ⟨by decide +kernel, by decide +kernel, by decide +kernel, by decide +kernel, by decide +kernel, ⟨_, List.mem_cons_self, by decide +kernel⟩,
    by decide +kernel, by decide +kernel, by decide +kernel, rfl, by decide, by decide⟩

/-- The port of lane 3 runs at full width, and no test is under way. -/
theorem witness_PackageEventsTakeEffect_lane : 3 < 12 ∧ (base.port 3).width = 3 ∧ base.pkg.tests = [] ∧ base.pkg.reg eqBaseReg = 0 := by
  decide +kernel

theorem witness_PackageEventsTakeEffect_checkpoint : let s := withP fun p => { p with recording := true, regs := [(0x31018, 0x10000)] }
    s.pkg.recording = true ∧ ((s.pkg.recs.map fun r => recBytes r.2).foldl (· + ·) 0) + 1040 ≤ (s.pkg.reg 0x31018).toNat := by
  decide +kernel

/-- Inputs to inject: a line of DDR-5 and one of CXL memory at home here; no event 0x44 yet. -/
theorem witness_PackageEventsTakeEffect_inject : let s := base
    s.homedHere (0x10000000000 / 128) = true ∧ isDdr (0x10000000000 / 128 * 128) = true ∧ MemCanonical s ∧
    (List.replicate 128 (0 : Byte)).length = 128 ∧ s.pkg.events = [] ∧
    (let c := { base with mem := { base.mem with cells := [] }, pkg := { base.pkg with boot := .running } }
     c.homedHere (0x50000000000 / 128) = true → isCxl (0x50000000000 / 128 * 128) = true) := by
  decide +kernel

/-! ## Host commands -/

def someCmd (op : BitVec 8) (addr : DWord) (len : BitVec 32) (data : BitVec 384) : HostCmd := { op, flags := 0, tag := 7, len, addr, data }

/-- Nothing is answered before power good; a package that runs answers, and BADCMD where a reserved bit is set or the length is 0. -/
theorem witness_HostCommandsAreAnswered : let s := withP fun p => { p with boot := .running, lock := true }
    let c := someCmd 1 0x70000000000 16 0
    s.pkg.recording = false ∧ base.answers c = false ∧ s.answers c = true ∧ hostBad c = false ∧ hostBad { c with flags := 4 } = true ∧
    hostBad { c with len := 0 } = true ∧ s.hedge c.addr.toNat c.len.toNat = true ∧ s.hedge 0x1000 8 = false ∧ isIo c.addr.toNat = true ∧
    frozen (paOff c.addr.toNat - ioBase + 10) = true ∧ 10 < c.len.toNat ∧ (∀ k, k < 8 → frozen (0x31000 + k) = false) ∧ isIo 0x70000031000 = true := by
  decide +kernel

/-- A command while one with its TAG waits; a DONE with its TAG waits for the zeroing; every frozen byte is a register's. -/
theorem witness_HostCommandsAreAnswered_waits : let c := someCmd 1 0x70000031000 8 0
    let s := withP fun p => { p with boot := .running, lock := true, hostWait := [({ c with op := 2 }, false)] }
    let t := withP fun p => { p with boot := .zeroing, doneWait := some 7 }
    s.answers c = true ∧ s.hostBehind c = true ∧ t.answers c = true ∧ t.hostBehind c = false ∧ t.hostHeld c = true ∧ base.hostHeld c = false ∧
    s.pkg.replay = false ∧ (withP fun p => { p with replay := true }).pkg.replay = true ∧
    (let x := someCmd 0x10 0x80 1 0
     let e := withP fun p => { p with boot := .running, lock := true, hostWait := [(x, true)] }
     e.hostNext = some (x, true) ∧ hostBad x = false) ∧
    ∀ o ∈ 10 :: 11 :: (List.range 0x20).map (0x32000 + ·), frozen o = true ∧ (ioReg o).isSome = true := by
  decide +kernel

/-- A word of the queue registers takes a write; a context descriptor with a reserved bit refuses it. -/
theorem witness_HostCommandsAreAnswered_write : let s := withP fun p => { p with boot := .ready }
    s.pkg.lock = false ∧ s.answers (someCmd 2 0x70000031000 8 0) = true ∧ s.hedge 0x70000031000 8 = true ∧
    (∃ t, s.ioWrite .host 64 (paOff 0x70000031000 - ioBase) (leBytes 8 0) = .ok t) ∧
    s.ioWrite .host 64 (paOff 0x70000010080 - ioBase) (leBytes 8 0x10) = .error (0x17, 0x10) ∧
    s.hedge 0x2000 8 = true ∧ paOff 0x2000 + 8 ≤ ioBase ∧ s.installed 0x2000 = true ∧ s.installed 0x10000000000 = false ∧ MemCanonical s ∧
    (∀ l ∈ s.mem.lines, ∀ k, k < 8 → l.line ≠ (0x2000 + k) / 128) ∧ ∀ k, k < 8 → s.mem.ownedFar ((0x2000 + k) / 128) = false := by
  refine ⟨rfl, by decide +kernel, by decide +kernel, answered (by decide +kernel), by decide +kernel, by decide +kernel, by decide +kernel,
    by decide +kernel, by decide +kernel, by decide +kernel, by decide +kernel, by decide +kernel⟩

/-- A WR of 16 bytes whose last eight lie in I/O space. -/
theorem witness_HostCommandsAreAnswered_across : let s := withP fun p => { p with boot := .ready }
    let a := 0x6FFFFFFFFF8
    let m := ioBase - paOff a
    s.hedge a 16 = true ∧ isIo a = false ∧ ioBase < paOff a + 16 ∧ s.pkg.lock = false ∧
    ∀ b : Bool, ∃ t, (if b then s.hostPut a ((leBytes 16 0).take m) else s).ioWrite .host 64 0 ((leBytes 16 0).drop m) = .ok t := by
  refine ⟨by decide +kernel, by decide +kernel, by decide +kernel, rfl, fun b => answered ?_⟩
  cases b <;> decide +kernel

/-- A locked package whose context 0 maps the first GiB; the TCB lies at 0x80. -/
def hostState (sync : Nat) : State :=
  let s := mapped base sync
  { s with pkg := { s.pkg with boot := .running, lock := true } }

/-- SUBMIT: IDLE with a predecessor, IDLE without, not IDLE; a TCB that no page maps; a context that is not enabled. -/
theorem witness_HostCommandsAreAnswered_submit : ∀ v ∈ [1, 0, 0x2000000000000002], let s := hostState v
    let c := someCmd 0x10 0x80 1 0
    s.answers c = true ∧ hostBad c = false ∧ s.pkg.recording = false ∧ s.pkg.lock = true ∧ (bits c.data 0 8 : BitVec 8).toNat = 0 ∧
    bit (s.ctx 0).cfg 63 = true ∧ (match s.syncPa 0 c.addr with | .ok pa => pa == 0x80 | .error _ => false) = true ∧
    (∀ ln ∈ linesOf 0x80 8, s.mem.ownedFar ln = false) ∧
    (submitSync ((s.touchS fedCore 0 .store 0x80 8).syncAt 0x80)).map (·.2) = (if v = 1 then some false else if v = 0 then some true else none) ∧ MemCanonical s ∧
    bit (s.ctx 1).cfg 63 = false ∧ (match s.syncPa 0 0x4000000000 with | .ok _ => false | .error _ => true) = true := by
  decide +kernel

/-- CTXEND where the context's one task waits. -/
theorem witness_HostCommandsAreAnswered_ctxend : let t : State := hostState 0
    let s : State := { t with grids := t.grids.map fun g => { g with phase := .wait } }
    s.pkg.lock = true ∧ bit (s.ctx 0).cfg 63 = true ∧ s.mem.lines = [] ∧
    ∀ k, k < s.grids.length → (s.grid k).ctx = 0 → (s.grid k).phase = .wait ∨ (s.grid k).phase = .over := by
  decide +kernel

theorem image_bad {fused : BitVec 8} {fw : List Byte} (h : ¬ field (leNat fw) 4 4 ≤ 255) : imageOk fused fw = false := by
  simp [imageOk, h]

theorem image_good {fused : BitVec 8} {fw : List Byte} (l : fw.length = 0xD0 + field (leNat fw) 8 8) (m : field (leNat fw) 0 4 = 0x4E424657)
    (v : field (leNat fw) 4 4 ≤ 255) (o : fused.toNat ≤ field (leNat fw) 4 4) (d : Config.sha384 ((fw.drop 0x10).take 96) = Config.fusedKey)
    (c : Config.verify ((fw.drop 0x10).take 96) ((fw.drop 0x70).take 96) (Config.sha384 (fw.take 0x70 ++ fw.drop 0xD0)) = true) :
    imageOk fused fw = true := by
  have k : 208 ≤ fw.length := by omega
  simp [imageOk, l, m, v, o, c, d]

/-- An image without a body: its magic, an SVN, and the rest zero. -/
def image (svn : Nat) : List Byte := leBytes 4 0x4E424657 ++ leBytes 4 svn ++ List.replicate 0xC8 0

/-- All of it but its last 24 bytes stand in the staging buffer: it starts, if its key and its signature are good; one with a large SVN does not. -/
theorem witness_HostCommandsAreAnswered_firmware : let s := withP fun p => { p with boot := .rom, fused := 3, fw := (image 5).take 184 }
    let c := someCmd 0x21 1 24 0
    s.answers c = true ∧ hostBad c = false ∧ s.pkg.boot = .rom ∧ s.pkg.fw ++ leBytes c.len.toNat c.data.toNat = image 5 ∧
    imageOk s.pkg.fused (image 300) = false ∧ 
    (Config.sha384 (((image 5).drop 0x10).take 96) = Config.fusedKey →
      Config.verify (((image 5).drop 0x10).take 96) (((image 5).drop 0x70).take 96) (Config.sha384 ((image 5).take 0x70 ++ (image 5).drop 0xD0)) = true →
      imageOk s.pkg.fused (image 5) = true) :=
  ⟨by decide +kernel, by decide +kernel, rfl, by decide +kernel, image_bad (by decide +kernel),
    image_good (by decide +kernel) (by decide +kernel) (by decide +kernel) (by decide +kernel)⟩

/-- DONE: a second one, one after the zeroing and one before; STANDBY with an enabled context and with none. -/
theorem witness_HostCommandsAreAnswered_done : let s := withP fun p => { p with boot := .ready }
    let t := withP fun p => { p with boot := .trained }
    let r := hostState 0
    s.pkg.lock = false ∧ s.pkg.doneWait = none ∧ s.pkg.boot = .ready ∧ t.pkg.boot ≠ .ready ∧ t.pkg.lock = false ∧ t.pkg.doneWait = none ∧
    r.pkg.lock = true ∧ (∃ e ∈ r.pkg.ctxs, bit e.2.cfg 63 = true) ∧
    ∀ e ∈ (withP fun p => { p with boot := .running, lock := true, ctxs := [] }).pkg.ctxs, bit e.2.cfg 63 = false := by
  decide +kernel

/-! ## Registers and bring-up -/

/-- Before training no register takes a write.  Stores of the firmware: to I/O space here and of package 1, to its own memory, elsewhere. -/
theorem witness_RegistersAndBringUpFollowTheirSteps_firmware : let s := withP fun p => { p with boot := .running }
    base.ioReady = false ∧ s.ioReady = true ∧ isIo 0x70000031000 = true ∧ isIo (0x70000031000 + 7) = true ∧
    paPkg 0x70000031000 = s.pkg.num.toNat ∧ isIo (2 ^ 43 + 0x70000031000) = true ∧ isIo (2 ^ 43 + 0x70000031007) = true ∧
    paPkg (2 ^ 43 + 0x70000031000) = paPkg (2 ^ 43 + 0x70000031007) ∧ paPkg (2 ^ 43 + 0x70000031000) ≠ s.pkg.num.toNat ∧
    isFirmware 0x10000000000 = true ∧ isFirmware 0x10000000007 = true ∧ MemCanonical s ∧ s.mem.lines = [] ∧
    (∀ k, k < 8 → s.mem.ownedFar ((0x10000000000 + k) / 128) = false) ∧ isIo 0x1000 = false ∧ isFirmware 0x1000 = false := by
  decide +kernel

theorem witness_RegistersAndBringUpFollowTheirSteps_registers : let s := withP fun p => { p with boot := .running }
    ((withP fun p => { p with lock := true }).pkg.lock = true ∧ ∃ k, k < [(0 : Byte), 0].length ∧ frozen (9 + k) = true) ∧
    s.ioReady = true ∧ s.pkg.lock = false ∧ (3 : BitVec 9) ≠ s.pkg.num ∧ MemCanonical s ∧ bit (s.pkg.reg 0x1040) 0 = false ∧
    bit ((withP fun p => { p with regs := [(0x1040, 1)] }).pkg.reg 0x1040) 0 = true ∧ ioReg 0x2000 = none ∧
    s.pkg.wordOk 0x31020 0x8000 = true ∧ s.pkg.wordOk 0x31020 0x8008 = false ∧ s.pkg.wordOk 0x31000 1 = false ∧ s.pkg.wordOk 0x31000 0x8000 = true := by
  decide +kernel

/-- A descriptor of an enabled context with `n` record slots. -/
def descriptor (n : Nat) : BitVec 1024 := BitVec.ofNat 1024 (2 ^ 63 + 2 ^ 16 + 0x1000 * 2 ^ 64 + 0x8000 * 2 ^ 128 + n * 2 ^ 192)
def noContext : State := { base with pkg := { base.pkg with ctxs := [], boot := .running } }

/-- One that keeps every rule, with 16 record slots; one with a queue of 15; one with a reserved bit. -/
theorem witness_RegistersAndBringUpFollowTheirSteps_descriptor : 
    (bits (descriptor 16) 48 13 = (0 : BitVec 13) ∧ bits (descriptor 16) 4 12 = (0 : BitVec 12)) ∧ (descriptor 16).toNat / 2 ^ 384 = 0 ∧
    bit (descriptor 16) 63 = true ∧ noContext.ctxRules 2 ((noContext.ctx 2).ofImage (descriptor 16).toNat) = true ∧
    noContext.ctxRules 2 ((noContext.ctx 2).ofImage (descriptor 15).toNat) = false ∧ bit (noContext.ctx 2).cfg 63 = false ∧
    bits (descriptor 16 + 16#1024) 4 12 ≠ (0 : BitVec 12) :=
  ⟨by decide +kernel, by decide +kernel, by decide +kernel, by decide +kernel, by decide +kernel, by decide +kernel, by decide +kernel⟩

/-- Each step of bring-up. -/
theorem witness_RegistersAndBringUpFollowTheirSteps_bringUp : let s := withP fun p => { p with fused := 3 }
    s.pkg.boot = .off ∧ imageOk s.pkg.fused (image 2) = false ∧ noContext.ioReady = true ∧
    (withP fun p => { p with boot := .training }).pkg.boot = .training ∧
    (let z := withP fun p => { p with boot := .zeroing, doneWait := some 9 }
     z.pkg.boot = .zeroing ∧ z.pkg.doneWait = some 9 ∧ z.ownHbm 0x1000 = true ∧ z.ownDdr 0x10000000000 = true ∧ bit (z.pkg.reg 0x1040) 1 = false) ∧
    (withP fun p => { p with boot := .standby }).pkg.boot = .standby ∧ MemCanonical s ∧ s.ownDdr 0x1000 = false := by
  decide +kernel

end Sys2Proof.Tests
end

