-- ==== Sys2Proof/Tests/WitnessSystem.lean ====
section
/-! SUPPORT. Concrete states and operands that meet the hypotheses of the statements: traps, class 12, tasks and the scheduler. -/

set_option Elab.async false

namespace Sys2Proof.Tests
open Sys2Proof Sys2Proof.Machine Sys2Proof.Claims

/-! ## Traps and results on their way -/

/-- A trap of the split that waits for nothing. -/
def someTrap : TrapReq :=
  { entry := 0, cause := 1, sub := 5, word := 0xD050210384882080#64, lit := 0, pc := 0x10000, waits := [], info := none, seqTeam := none }

theorem witness_TrapsEnterAndResultsReturn_trap : let s := withG fun g => { g with trapReq := some someTrap }
    let x := s.group 0
    0 < s.groups.length ∧ x.trapReq = some someTrap ∧ x.ra = none ∧ (∀ n ∈ someTrap.waits, ∀ p ∈ x.out, p.n ≠ n) ∧ someTrap.entry < 4 ∧
    (x.set someTrap.entry).lanes ≠ 0 ∧ someTrap.info = none := by
  decide +kernel

/-- A result for v127, one for s63 and one for p15 are on their way. -/
def outV : Pend := { n := 3, t := false, ws := [.v 127 (Vector.replicate 32 5) 1 ones32], fls := [1] }
def outS : Pend := { n := 4, t := false, ws := [.s 63 5 ones32], fls := [] }
def outP : Pend := { n := 5, t := false, ws := [.p 15 5], fls := [] }
def outT : Pend := { n := 6, t := true, ws := [.s 63 5 ones32], fls := [] }

theorem witness_TrapsEnterAndResultsReturn_result : let s := withG fun g => { g with out := [outV, outS, outP, outT] }
    let x := s.group 0
    0 < s.groups.length ∧ x.ra = none ∧ ∀ p ∈ x.out, p.ready = true ∧ ∀ q ∈ x.out, q.n = p.n → q = p := by
  decide +kernel

/-- The whole group, or its first lane beside the rest, in a handler. -/
def handlerState (dst : Word) (lanes : Word) : State := withG fun g =>
  { g with handler := some { lanes, ret := 0x10008, interrupted := false, seqTeam := none }, trap := { g.trap with pc := 0x10000, dst } }

theorem witness_TrapReturnsLeaveTheHandler : let s := handlerState 0x17F ones32
    let f := spf 0 127 0 0
    let h : Handler := { lanes := ones32, ret := 0x10008, interrupted := false, seqTeam := none }
    let kind := (bits s.cg.trap.dst 8 4).toNat
    let o := retOpnd kind f.sa.toNat
    IssuesSplit s ∧ NotAhead s ∧ s.cg.handler = some h ∧ h.lanes &&& s.cset.lanes ≠ 0 ∧ (h.seqTeam = none ∨ h.lanes &&& ~~~s.cset.lanes ≠ 0) ∧
    NoJoinAt s.cg h.ret ∧ NoJoinAt s.cg s.cg.trap.pc ∧ h.interrupted = false ∧ o ≠ .none ∧ o.outOfRange = false ∧ o.misaligned = false ∧
    rangeBad s.cg o = false ∧ JoinsRest s.cg h.ret ∧ kind ≠ 10 := by
  decide +kernel

/-- TRAPDST of kind 10 names a loop counter. -/
theorem witness_TrapReturnsLeaveTheHandler_loop : let s := handlerState 0xA02 ones32
    let f := spf 0 2 0 0
    let kind := (bits s.cg.trap.dst 8 4).toNat
    let o := retOpnd kind f.sa.toNat
    IssuesSplit s ∧ NotAhead s ∧ o ≠ .none ∧ o.outOfRange = false ∧ o.misaligned = false ∧ rangeBad s.cg o = false ∧ kind = 10 := by
  decide +kernel

/-! ## Class 12 -/

theorem witness_SpecialRegistersReadAndWrite : IssuesSplit base ∧ NotAhead base ∧ base.cg.homes = [] ∧ base.cg.out = [] ∧
    (spf 63 0 0x1001 0).sel.toNat = 0x1001 ∧ (spf 63 0 0 0).sel.toNat = 0 ∧ (spf 63 0 1 0).sel.toNat = 1 ∧ (spf 127 0 2 0).sel.toNat = 2 ∧
    (spf 124 0 0x45 0).sel.toNat = 0x45 ∧ 0x20 ≤ (spf 0 1 0x27 0).sel.toNat ∧ (spf 0 1 0x27 0).sel.toNat < 0x28 := by
  decide +kernel

theorem witness_SpecialRegistersReadAndWrite_waits : let s := withG fun g => { g with out := [outV] }
    IssuesSplit s ∧ (spf 63 0 1 0).sel.toNat = 1 ∧ s.cg.out ≠ [] ∧ s.cset.fsnap = none := by
  decide +kernel

/-- What it waited for has come, and more is on its way by now. -/
theorem witness_SpecialRegistersReadAndWrite_waited : let s := withG fun g => { g.putSet 0 { g.set 0 with fsnap := some 3 } with out := [outS] }
    IssuesSplit s ∧ NotAhead s ∧ (spf 63 0 1 0).sel.toNat = 1 ∧ s.cset.fsnap = some 3 := by
  decide +kernel

/-- `base` with page tables at 0x1000, 0x2000 and 0x3000: the first GiB maps to physical 0. -/
def walkState : State :=
  { base with
      mem := { base.mem with
        tlb := []
        cells := cellsWrite (cellsWrite (cellsWrite [] 0x1000 (leBytes 8 0x4000000000002000)) 0x2000 (leBytes 8 0x4000000000003000)) 0x3000
          (leBytes 8 0x8E00000000000C00)
        dir := [{ line := 0, st := .shr }] }
      pkg := { base.pkg with ctxs := [(0, { Ctx.dead with cfg := 0xA000_0000_0001_0000#64, root := 0x1000 })], sensors := [(0, 7)] } }

theorem witness_ProbesAndMonitorsAnswer : let s := walkState
    let va := (s.cg.spair (spf 0 2 0 0).sa.toNat).toNat
    let l : Leaf := { base := 0, size := 2 ^ 30, leaf := 0x8E00000000000C00#64, ea := 0x3000 }
    IssuesSplit s ∧ NotAhead s ∧ (s.walk s.ct.ctx va).1 = .ok l ∧ (s.walk s.ct.ctx va).2 = (2, 0x8E00000000000C00#64) ∧
    s.leafCheck s.ct.ctx false .load va l = none ∧ s.mem.dir.find? (fun x => x.line == va / 128) = some { line := 0, st := .shr } ∧
    s.homedHere (va / 128) = true ∧ (s.cg.sreg 2).toNat < 0x260 ∧ s.pkg.sensors = [((s.cg.sreg 2).toNat, 7)] ∧ s.pkg.monReplay = [] ∧
    { s with pkg := { s.pkg with monReplay := [9] } }.pkg.monReplay = 9 :: [] ∧ ∀ x ∈ s.groups, x.homes = [] := by
  decide +kernel

/-- The base has no table: the walk of every address faults. -/
theorem witness_ProbesAndMonitorsAnswer_fault : IssuesSplit base ∧ NotAhead base ∧
    base.walk base.ct.ctx (base.cg.spair 2).toNat = (.error ⟨1, 1, 0⟩, 4, 0) := by
  decide +kernel

theorem witness_ProbesAndMonitorsAnswer_monrd : let s := withS [(1, 0x304), (2, 0x305)]
    IssuesSplit s ∧ NotAhead s ∧ 4 < 5 ∧ (s.cg.sreg 1).toNat = 0x300 + 4 ∧ 0x305 ≤ (s.cg.sreg 2).toNat := by
  decide +kernel

theorem witness_SystemCallsParkTheirLanes : IssuesSplit base ∧ NotAhead base ∧ Original base ∧ base.ct.user = true ∧
    base.act (spf 0 0 0x3FFF 0).msk ≠ 0 := by
  decide +kernel

/-- A record of lanes of another group of the team: claimed, open. -/
def laneRec : FaultRec :=
  { code := 4, sub := 3, scope := .lanes, ctx := 0, team := 0, group := 1, gidx := 1, lanes := 0xFF, pc := 0x10000, va := 0, tcb := 0, info := 0,
    core := 0, flags := 0, extra := [], info32 := [], unit := 0 }

/-- An S group of context 0 whose queue holds one record; group 1 has the FAULT set; its slot 0 is in a fold. -/
def recState (claimed : Bool) : State :=
  let c : Ctx := { Ctx.dead with cfg := 0xA000_0000_0001_0000#64, fqsize := 4, opened := [{ idx := 0, claimed, closed := false, fr := laneRec }] }
  let two := { placeGroup with
    gidx := 1, slot := 1, sets := vecPut placeGroup.sets 0 { lanes := 0xFF, st := .fault, pc := 0x10000 }
    folds := vecPut placeGroup.folds 0 { id := 0x80000001#32, rank := 0, size := 2, key := 1 } }
  { baseS with groups := [placeGroup, two], pkg := { baseS.pkg with ctxs := [(0, c)] } }

theorem witness_RecordFormsAct_wait : let s := recState false
    IssuesSplit s ∧ NotAhead s ∧ (s.ctx s.ct.ctx).opened.find? (fun r => !r.claimed && !r.closed) =
      some { idx := 0, claimed := false, closed := false, fr := laneRec } := by
  decide +kernel

theorem witness_RecordFormsAct_empty : let s := recState true
    IssuesSplit s ∧ NotAhead s ∧ (∀ r ∈ (s.ctx s.ct.ctx).opened, r.claimed = true ∨ r.closed = true) ∧ bit (spf 20 0 0 1).fn 0 = true ∧
    bit (spf 20 0 0 0).fn 0 = false := by
  decide +kernel

theorem witness_RecordFormsAct : let s := recState true
    let f := spf 0 20 0 0
    let o : OpenRec := { idx := 0, claimed := true, closed := false, fr := laneRec }
    let r := o.fr
    let x := s.group r.group
    IssuesSplit s ∧ NotAhead s ∧ s.claimed s.ct.ctx (s.cg.sreg f.sa.toNat) = some o ∧ r.scope ≠ .cmd ∧ r.scope ≠ .grid ∧ r.team < s.teams.length ∧
    r.scope = .lanes ∧ r.group ≠ s.cur.g ∧ (s.team (s.group r.group).team).st ≠ .saved ∧ r.group < s.groups.length ∧ x.homes = [] ∧
    (∃ l ∈ x.sets.toList ++ x.stack, l.st = .fault ∧ l.lanes &&& r.lanes ≠ 0 ∧ NoJoinAt x (l.pc + s.instSize r.group r.pc)) ∧
    (x.fold (bits f.sel 4 2).toNat).valid = true ∧ (x.fold (bits f.sel 4 2).toNat).pre = false ∧ (x.fold (bits f.sel 4 2).toNat).pend = false := by
  decide +kernel

theorem witness_TlbInvalidationCompletes : IssuesSplit baseS ∧ NotAhead baseS ∧ ∀ r ∈ baseS.cg.invs, r.pc ≠ baseS.cur.pc := by
  decide +kernel

/-- The split waits at its TLBINV. -/
def invState : State :=
  let r : InvReq := { entry := 0, pc := 0x10000, size := 8, y := false, kind := 0, scope := 4, base := 0x10000, bytes := 4096 }
  baseS.setGroup 0 { placeGroup with
    invs := [r], sets := vecPut placeGroup.sets 0 { lanes := ones32, st := .ready, pc := 0x10000, stalled := true, served := 1 } }

theorem witness_TlbInvalidationCompletes_complete : let s := invState
    let r : InvReq := { entry := 0, pc := 0x10000, size := 8, y := false, kind := 0, scope := 4, base := 0x10000, bytes := 4096 }
    let at_ : CbrAt := { entry := 0, pc := r.pc, size := r.size, target := 0, y := r.y }
    0 < s.groups.length ∧ 0 < 4 ∧ (s.group 0).invs.find? (fun r => r.entry == 0) = some r ∧ r.entry = 0 ∧ s.standsAt 0 at_ = true ∧
    ∀ y ∈ s.groups, y.held' = [] := by
  decide +kernel

/-- A split comes to a TLBINV at which another one waits. -/
theorem witness_TlbInvalidationCompletes_merged :
    let s := { invState with cur := { invState.cur with g := 0, e := 0, pc := 0x10000, size := 8 } }
    IssuesSplit s ∧ NotAhead s ∧ ∃ r ∈ s.cg.invs, r.pc = s.cur.pc := by
  decide +kernel

/-! ## Tasks and the scheduler -/

theorem witness_TeamsReadAndSetTheirPriority : IssuesSplit base ∧ Original base ∧ NotAhead base ∧ base.ct.prio < 16 ∧
    ∀ u ∈ base.teams, u.waitsPlace = true → u.waitPrio < base.ct.prio := by
  decide +kernel

/-- A team of the same priority waits to be placed. -/
def waitingState : State := { base with teams := base.teams ++ [{ placeTeam true false with st := .queued, tid := 1 }] }

theorem witness_TeamsReadAndSetTheirPriority_waits : let s := waitingState
    IssuesSplit s ∧ Original s ∧ NotAhead s ∧ ∃ u ∈ s.teams, u.waitsPlace = true ∧ s.ct.prio ≤ u.waitPrio := by
  decide +kernel

end Sys2Proof.Tests
end

