-- ==== Sys2Proof/Tests/WitnessUnits.lean ====
section
/-! SUPPORT. Concrete states and operands that meet the hypotheses of the statements: ports, the matrix stream, lines, regions and granules. -/

set_option Elab.async false

namespace Sys2Proof.Tests
open Sys2Proof Sys2Proof.Machine Sys2Proof.Claims

/-! ## Ports -/

/-- A DATA flit with its CRC. -/
def someFlit (seq : BitVec 12) : Flit :=
  flitSealed { seq, ackseq := 0, av := false, nak := false, kind := 1, cred := 0, cvc := 0, vc := 1, dpkg := 1, spkg := 2, plen := 8, frag := 0, rsv := 0,
               payload := 5, crc := 0, hits := [] }
def portState (p : Port) : State := { base with pkg := { base.pkg with ports := vecPut base.pkg.ports 11 p } }

theorem rsDecodes_nil : rsDecodes [] = true := by decide

/-- The CRC of a sealed flit is right, whatever it is. -/
theorem someFlit_good (n : BitVec 12) : flitGood (someFlit n) = true := by
  simp [someFlit, flitSealed, flitGood, flitBytes, flitHeader, rsDecodes_nil]

/-- Three errors in each codeword. -/
theorem witness_PortsDeliverInOrder_errors : ∀ r, r < 2 →
    (([0, 2, 4, 1, 3, 255] : List Nat).dedup.filter fun j => j < 256 && j % 2 == r).length ≤ 3 := by
  decide +kernel

/-- A bad flit, and a good one in sequence with fewer than 64 to acknowledge. -/
theorem witness_PortsDeliverInOrder_receive : let s := portState { Port.zero with expected := 5, acked := 5 }
    let p := s.port 11
    let f := someFlit 5
    11 < 12 ∧ p.width ≠ 0 ∧ s.pkg.replay = false ∧ flitGood { f with kind := 3 } = false ∧ p.gap = false ∧ p.train = false ∧ flitGood f = true ∧ f.kind = 1 ∧
    f.av = false ∧ f.nak = false ∧ f.cred = 0 ∧ p.tries < 8 ∧ p.queue = [] ∧ s.pkg.recording = false ∧ f.seq = p.expected ∧
    (p.expected - p.acked).toNat < 64 ∧ flitGood (someFlit 6) = true ∧ (someFlit 6).seq ≠ p.expected := by
  refine ⟨by decide, by decide +kernel, rfl, by simp [flitGood], by decide +kernel, by decide +kernel, someFlit_good 5, rfl, rfl, rfl, rfl, by decide +kernel,
    rfl, rfl, rfl, by decide +kernel, someFlit_good 6, by decide +kernel⟩

/-- The 64th to acknowledge; and a flit out of sequence while the gap is open. -/
theorem witness_PortsDeliverInOrder_sixtyfour : let p : Port := { Port.zero with expected := 5, acked := 4037 }
    p.width ≠ 0 ∧ p.train = false ∧ (someFlit 5).seq = p.expected ∧ 64 ≤ (p.expected - p.acked).toNat ∧
    (let g : Port := { Port.zero with expected := 5, gap := true }
     g.gap = true ∧ g.width ≠ 0 ∧ g.train = false ∧ (someFlit 6).seq ≠ g.expected) := by
  decide +kernel

/-- A flit of channel 1 waits for a credit, which a control flit gives. -/
theorem witness_PortsDeliverInOrder_credit : let s := portState { Port.zero with queue := [someFlit 0] }
    let p := s.port 11
    let f := flitSealed { someFlit 0 with kind := 0, cred := 2, cvc := 1 }
    p.width ≠ 0 ∧ flitGood f = true ∧ f.kind = 0 ∧ f.av = false ∧ f.nak = false ∧ f.cred ≠ 0 ∧ p.queue = [someFlit 0] ∧ (someFlit 0).vc = f.cvc ∧
    p.train = false ∧ p.tries < 8 ∧ p.unacked < 2048 :=
  ⟨by decide +kernel, by simp [someFlit, flitSealed, flitGood, flitBytes, flitHeader, rsDecodes_nil], rfl, rfl, rfl, by decide, rfl, rfl, rfl, by decide +kernel,
    by decide +kernel⟩

/-- Three flits are not acknowledged. -/
def replayPort (tries : Nat) : Port := { Port.zero with replay := [someFlit 1, someFlit 2, someFlit 3], sendSeq := 4, tries, due := true, gap := true }

theorem witness_PortsDeliverInOrder_replay : let s := portState (replayPort 6)
    let p := s.port 11
    let first := someFlit 1
    let d := (1 + 1 - first.seq).toNat
    p.width ≠ 0 ∧ p.train = false ∧ p.tries < 7 ∧ p.unacked ≠ 0 ∧ p.replay.length = p.unacked ∧ p.unacked ≤ 2048 ∧ p.replay.head? = some first ∧
    1 ≤ d ∧ d < p.unacked ∧ (p.replay.drop d).head?.map (·.seq) = some (1 + 1) ∧ p.due = true ∧ p.gap = true ∧
    ((portState (replayPort 7)).port 11).tries = 7 ∧ ((portState (replayPort 7)).port 11).unacked ≠ 0 := by
  refine ⟨by decide +kernel, rfl, by decide +kernel, by decide +kernel, by decide +kernel, by decide +kernel, rfl, by decide +kernel, by decide +kernel,
    by decide +kernel, rfl, rfl, rfl, by decide +kernel⟩

/-- A requested retrain with one failed lane, and an automatic one at half width. -/
def trainPort (width : BitVec 2) (requested : Bool) (step : Nat) : Port := { Port.zero with width, requested, train := true, step, mask := 1 }

theorem witness_PortsDeliverInOrder_retrain : let s := portState (trainPort 3 true 2)
    let p := s.port 11
    let h := (portState (trainPort 2 false 5)).port 11
    let r := portState (trainPort 3 true 6)
    let failed := p.mask ||| 0
    p.unacked = 0 ∧ p.train = true ∧ p.step = 2 ∧ p.step ≤ 5 ∧
    ¬ ((bits failed 0 8 : BitVec 8) ≠ 0 ∧ (bits failed 8 8 : BitVec 8) ≠ 0 ∨ p.requested = false ∧ p.width ≠ 3) ∧
    (∀ x ∈ s.pkg.tests, x.cls ≠ 4) ∧ p.peerReady = false ∧ ({ p with peerReady := true }.peerReady = true ∧ p.queue = []) ∧
    h.train = true ∧ h.step ≤ 5 ∧ h.step ≠ 6 ∧ h.requested = false ∧ h.width ≠ 3 ∧ (r.port 11).train = true ∧ (r.port 11).step = 6 ∧ (r.port 11).unacked = 0 ∧ (r.port 11).replay = [] ∧
    r.pkg.reg eqBaseReg = 0 ∧ ¬ ((bits (r.port 11).mask 0 8 : BitVec 8) ≠ 0 ∧ (bits (r.port 11).mask 8 8 : BitVec 8) ≠ 0) ∧
    (r.port 11).requested = true := by
  decide +kernel

/-- Port 11 goes DOWN with one flit; port 3 is the only other one that is up. -/
def downState : State :=
  let zero := { Port.zero with width := 0 }
  { base with pkg := { base.pkg with
      ports := vecPut (vecPut (Vector.replicate 12 zero) 11 { Port.zero with replay := [someFlit 0] }) 3 { Port.zero with credits := Vector.replicate 8 1 } } }

theorem witness_PortsDeliverInOrder_down : let s := downState
    (s.port 11).replay = [someFlit 0] ∧ (s.port 11).queue = [] ∧ s.nextPort 11 (someFlit 0).dpkg = some 3 ∧ (s.port 3).train = false ∧ (s.port 3).queue = [] ∧
    3 ≠ 11 ∧ 3 < 12 ∧ (s.port 3).width ≠ 0 ∧ (s.port 3).unacked < 2048 ∧ vecAt (s.port 3).credits (someFlit 0).vc.toNat 0 ≠ 0 ∧
    { s.port 3 with train := true }.train = true := by
  refine ⟨rfl, rfl, ?_, rfl, rfl, by decide, by decide, by decide +kernel, by decide +kernel, by decide +kernel, rfl⟩
  have h : ∀ r, r < 12 → ((List.range 12).map fun i => (r + i) % 12).find? (fun i => i != 11 && (downState.port i).up) = some 3 := by decide +kernel
  have k : ∀ n, ((List.range 12).map fun i => (n + i) % 12).find? (fun i => i != 11 && (downState.port i).up) = some 3 := by
    intro n
    rw [← h (n % 12) (Nat.mod_lt _ (by decide))]
    congr 1
    apply List.map_congr_left
    intro i _
    omega
  exact k _

/-! ## The matrix stream -/

/-- Team 0 holds the engine with four consumer groups; q0 is 0x1000, q1 is 1, q2 is 2; f1 is the format of the manual's example. -/
def mxSeq (wdone : Bool) : Seq :=
  { pc := 0x10000, st := .run, wdone, waitOn := 0, cause := 0, q := vecPut (vecPut (vecPut (Vector.replicate 16 0) 0 0x1000) 1 1) 2 2, acc := [(5, 7)] }
def mxState (wdone : Bool) : State :=
  { base with
      groups := placeConsumers.map fun g => { g with regs := { g.regs with f := vecPut g.regs.f 1 0x78341 } }
      teams := [{ placeTeam true true with seq := some (mxSeq wdone) }] }

def mx16 : MXF :=
  { w := noWait, xv := false, xsel := 0, sv := false, sbsel := 0, sbreg := 0, sasel := 0, sareg := 0, bty := .bf16, aty := .bf16, breg := 8,
    aoff := 0, qa := 0, z := true, tcol := 3, trow := 30 }
def md32 : MDF :=
  { w := noWait, fill := 0, rnd := .rne, dty := .f32, fv := false, dmode := 0, doff := 0, qd := 0, tcol := 3, trow := 30 }

/-- The premises on the sequencer; MQLD of a word, and of a misaligned one; a word that arrives on b15, one that waits on b1. -/
theorem witness_MatrixStreamCompletes : let s := mxState false
    let u := s.cur.t
    let x := s.team u
    ∃ q, u < s.teams.length ∧ s.seqOf u = some q ∧ MemCanonical s ∧ (q.acc.map (·.1)).Pairwise (· < ·) ∧
    ((vecAt q.q 0 0) + 0x1000#32).toNat % 4 = 0 ∧ ((vecAt q.q 0 0) + 0x1000#32).toNat + 4 ≤ x.padSize ∧
    ((vecAt q.q 1 0) + 0x1000#32).toNat % 4 ≠ 0 ∧ (x.bar 15).arrv + 1 < popc (x.bar 15).memb + (x.bar 15).extra.toNat ∧
    (x.bar 1).passable 32 = false ∧ q.wdone = false := by
  refine ⟨_, by decide +kernel, rfl, by decide +kernel, by decide +kernel, by decide +kernel, by decide +kernel, by decide +kernel, by decide +kernel,
    by decide +kernel, rfl⟩

def passing (u : Team) : Team := { u with bars := vecPut u.bars 1 { Bar.fresh 15 with ph := 1 } }

theorem witness_MatrixStreamCompletes_pass : let s := { mxState false with teams := (mxState false).teams.map passing }
    ((s.team 0).bar 1).passable 32 = true := by
  decide +kernel

theorem witness_MatrixStreamCompletes_drain : let s := mxState false
    let x := s.team 0
    let f := md32
    ∃ q, s.seqOf 0 = some q ∧ x.mxInside ((vecAt q.q f.qd.toNat 0) + BitVec.ofNat 32 f.doff.toNat).toNat 64 (imgSize (fun _ => 0) f.dty) = true ∧
    f.dty ∈ [Ty.f32, .f16, .bf16, .b64] ∧ s.mxFormats 0 (tyNf f.dty) = .ok (s.group 0).nf ∧ mxDrainOk f (s.group 0).nf = true ∧
    mxImgAddr f x q = true ∧
    ∀ r c, r < 32 → c < 16 →
      (drainElem f (s.group 0).nf (q.entry (16 * f.trow.toNat + r) (16 * f.tcol.toNat + c))).1 < 2 ^ contW (s.group 0).nf f.dty := by
  refine ⟨_, rfl, by decide +kernel, by decide +kernel, ?_, by decide +kernel, by decide +kernel, ?_⟩
  · rfl
  · have h : ∀ r, r < 32 → ∀ c, c < 16 → (drainElem md32 ((mxState false).group 0).nf ((mxSeq false).entry (16 * md32.trow.toNat + r) (16 * md32.tcol.toNat + c))).1 < 2 ^ contW ((mxState false).group 0).nf md32.dty := by decide +kernel
    exact fun r c hr hc => h r hr c hc

/-- The operand is settled: nothing has written its registers. -/
theorem witness_MatrixStreamCompletes_multiply : let s := mxState false
    (∀ r, r < 4 → ∃ c, (s.consumers 0)[r]? = some c ∧ ∀ z ∈ mxReads mx16 r, (s.group c).mxReadable z.1 z.2 = true) ∧
    (∀ r, r < 4 → ∃ c, (s.consumers 0)[r]? = some c ∧ ∀ z ∈ mxReads mx16 r, s.settledRegs c z.1 z.2 = true) ∧
    s.mxFormats 0 [] = .ok (s.group 0).nf ∧ mxTypesOk (s.team 0) mx16 (s.group 0).nf = true ∧
    (s.team 0).mxInside 0x1000 64 (mxASize mx16.aty) = true ∧ (∀ r c, (s.team 0).order.wordClash r c = false) := by
  refine ⟨?_, ?_, rfl, by decide +kernel, by decide +kernel, fun _ _ => rfl⟩ <;>
  · intro r hr
    have h : r = 0 ∨ r = 1 ∨ r = 2 ∨ r = 3 := by omega
    rcases h with rfl | rfl | rfl | rfl <;> exact ⟨_, rfl, by decide +kernel⟩

/-- Not settled: no arrival since a write of v8 happens before the word. -/
theorem witness_MatrixStreamCompletes_unsettled : let r := { (mxState false).cg.regs with vNo := Vector.replicate 128 3 }
    let s := (mxState false).setGroup 0 { (mxState false).cg with regs := r }
    ∃ c, (s.consumers 0)[0]? = some c ∧ ∃ z ∈ mxReads mx16 0, s.settledRegs c z.1 z.2 = false := by
  exact ⟨_, rfl, by decide +kernel⟩

/-! ## Lines -/

/-- `base` with lines and directory entries; line 0x400 lies in the package's HBM4. -/
def lined (lines : List Line) (dir : List Dir) : State := { base with mem := { base.mem with lines, dir } }
def someLine (clus : Nat) (st : LineSt) : Line := { clus, line := 0x400, st, data := 5, dirty := 1, rel := none }

/-- A request that is served, with an untracked dirty copy in another cluster. -/
theorem witness_LinesMoveBetweenHomeAndSlices_serve : let s := lined [someLine 3 .ud] []
    MemCanonical s ∧ s.homedHere 0x400 = true ∧ s.mem.poisoned 0x400 = false ∧ 1 < 32 ∧ 5 < 512 ∧
    OneOwner s.mem ∧ s.waits (.mem (0x400 * 128)) = false ∧ s.requestWaits 0x400 = false ∧ 5 ≠ s.pkg.num.toNat ∧
    0 = s.pkg.num.toNat ∧ s.mem.line? 1 0x400 = none ∧ isIo (0x400 * 128) = false ∧ s.mem.waiting = [] := by
  decide +kernel

/-- A cluster of package 2 owns the line. -/
theorem witness_LinesMoveBetweenHomeAndSlices_wait : let s := lined [] [{ line := 0x400, st := .own, mode := 1, sharers := 64 }]
    MemCanonical s ∧ OneOwner s.mem ∧ s.homedHere 0x400 = true ∧ s.mem.poisoned 0x400 = false ∧ s.requestWaits 0x400 = true := by
  decide +kernel

/-- A request, and a fill, that have come before; the answer of the request leaves again. -/
theorem witness_LinesMoveBetweenHomeAndSlices_again : let x := Msg.fill 5 1 0x400 9 .shared 0 none
    let s0 := lined [] []
    let s := { s0 with out := [x], pkg := { s0.pkg with
      cohSeen := [{ pkg := 5, clus := 1, seq := 9, sort := .request, answer := some x }, { pkg := 0, clus := 1, seq := 9, sort := .fill, answer := none },
        { pkg := 0, clus := 3, seq := 9, sort := .probe, answer := some (.probeAck 3 0x400 9) }] } }
    (s.seen 5 1 9 .request).isSome = true ∧ (s.seen (paPkg (0x400 * 128)) 1 9 .fill).isSome = true ∧ s.seen 5 1 8 .request = none ∧
    (s.seen (paPkg (0x400 * 128)) 3 9 .probe).isSome = true ∧ s.seen (paPkg (0x400 * 128)) 3 8 .probe = none ∧
    s.out[0]? = some x ∧ x.coherence = true ∧ Msg.coherence (.leave 1 0) = false ∧ s.homedHere 0x400 = true := by
  decide +kernel

/-- A copy in each state. -/
theorem witness_LinesMoveBetweenHomeAndSlices_copy : ∀ st ∈ [LineSt.uc, .ud, .ts, .tm], let s := lined [someLine 3 st] []
    MemCanonical s ∧ s.mem.line? 3 0x400 = some (someLine 3 st) ∧ (someLine 3 st).st = st ∧
    OneOwner s.mem := by
  decide +kernel

/-- A cluster of package 2 owns the line: a dirty copy in cluster 3 leaves; its write-back comes, alone and before other bytes. -/
theorem witness_LinesMoveBetweenHomeAndSlices_far :
    let d : Dir := { line := 0x400, st := .own, mode := 1, sharers := BitVec.ofNat 96 (sharerPtr 2 0) }
    let s := lined [someLine 3 .ud] [d]
    let w : DirtyBytes := { line := 0x400, data := 5, mask := 1, rel := none }
    let t := { s with mem := { s.mem with deferred := [w] } }
    MemCanonical s ∧ OneOwner s.mem ∧ s.mem.line? 3 0x400 = some (someLine 3 .ud) ∧ s.homedHere 0x400 = true ∧ s.mem.poisoned 0x400 = false ∧
    s.mem.ownedFar 0x400 = true ∧ s.mem.owner 0x400 = sharerPtr 2 0 ∧ s.mem.owner 0x400 ≠ sharerPtr 2 1 ∧ s.mem.waiting = [] ∧
    (s.mem.deferred.filter fun d => d.line == 0x400) = [] ∧ (t.mem.deferred.filter fun d => d.line == 0x400) = [w] ∧
    (lined [someLine 3 .ud] []).mem.ownedFar 0x400 = false := by
  decide +kernel

/-- A line of the CXL pool. -/
theorem witness_LinesMoveBetweenHomeAndSlices_snoop : let s := lined [] []
    isCxl (0xA00000000 * 128) = true ∧ 1 < 2 ∧ s.homedHere 0xA00000000 = true ∧
    OneOwner s.mem ∧ s.mem.ownedAway s.pkg.num.toNat 0xA00000000 = false ∧
    (lined [] [{ line := 0xA00000000, st := .own, mode := 1, sharers := 64 }]).mem.ownedAway s.pkg.num.toNat 0xA00000000 = true ∧
    OneOwner (lined [] [{ line := 0xA00000000, st := .own, mode := 1, sharers := 64 }]).mem := by
  decide +kernel

/-! ## Regions and granules -/

/-- One unit of 2 MiB from 0 on, and a reserved bit. -/
theorem witness_RegionsAndGranulesChange_entry : let v := 0x8000000000400000#64
    MemCanonical base ∧ 3 < 16 ∧ bits v 44 12 = (0 : BitVec 12) ∧ regEn v = true ∧ regMode v < 4 ∧ regMode v ≠ 2 ∧ regMode v ≠ 3 ∧ regSize v ≠ 0 ∧
    (∀ j, j < 16 → j ≠ 3 → regOverlap v (vecAt base.mem.regions j 0) = false) ∧ bits (v + 0x100000000000#64) 44 12 ≠ (0 : BitVec 12) ∧
    vecAt base.mem.regions 3 0 = 0 ∧ base.regionNow 3 = 0 ∧ (∀ j, j < 16 → j ≠ 3 → regOverlap v (base.regionNow j) = false) := by
  decide +kernel

/-- A rewrite in progress. -/
theorem witness_RegionsAndGranulesChange_switch : let v := 0x8000000000400000#64
    let s := { base with mem := { base.mem with rewriting := true, pendingRegions := [(3, v)], lines := [someLine 1 .ts] } }
    MemCanonical s ∧ s.mem.rewriting = true ∧ s.mem.pendingRegions = [(3, v)] ∧ 3 < 16 ∧ s.mem.waiting = [] ∧ (∀ l ∈ s.mem.lines, l.st ≠ .tm) ∧ s.rewriteAway = [] ∧
    { s with mem := { s.mem with dir := [{ line := 0x400, st := .own, mode := 1, sharers := 64 }] } }.rewriteAway ≠ [] ∧
    base.mem.rewriting = false := by
  decide +kernel

/-- Core 0 holds ten granules, four of them used; core 1 holds twenty. -/
theorem witness_RegionsAndGranulesChange_granules : let s := { base with mem := { base.mem with gran := [(0, 10, 0), (1, 20, 0)] } }
    MemCanonical s ∧ s.granUsed 0 + 6 ≤ s.mem.held 0 ∧ s.mem.held 0 + s.mem.reclaiming 0 + 10 ≤ 20 ∧ s.mem.held 0 < s.granUsed 0 + 7 ∧
    20 < s.mem.held 1 + s.mem.reclaiming 1 + 1 ∧
    (s.mem.lines.filter fun l => l.clus = 0 / 8 ∧ sliceCore l.line = 0 % 8).length ≤ (24 - s.mem.held 0 - s.mem.reclaiming 0 - 10) * 256 := by
  decide +kernel

end Sys2Proof.Tests
end

section
/-! Proofs about the encoding (02_encoding.md): words that no environment decodes, and what a split does that issues one. -/

namespace Sys2Proof
open Sys2Proof.Machine

/-! ## Checks that read nothing of the issuing group -/

/-- R56 step 1: classes 13 to 15 name nothing (R52). -/
theorem decodeCode_of_class_unassigned {w : DWord} (h : 13 ≤ (wClass w).toNat) (e : DecEnv) (lit : DWord) :
    decodeCode e w lit = .error (.ill 0x01) := by
  simp only [decodeCode, if_pos h]

/-- R56 step 3 in the formats VR and UR: a class that accepts the format, and a minor opcode with no row (R53). -/
theorem decodeCode_of_vRow_none {w : DWord} (hcls : (wClass w).toNat < 13) (hfmt : (wFmt w).toNat ≤ 1)
    (hacc : (classFmts (wClass w)).contains (wFmt w).toNat = true)
    (hrow : vRow (wClass w) ((wFmt w).toNat == 1) (wMinor w) = none) (e : DecEnv) (lit : DWord) :
    decodeCode e w lit = .error (.ill 0x03) := by
  simp only [decodeCode, if_neg (Nat.not_le.mpr hcls), hacc, if_pos hfmt, hrow, Bool.not_true, Bool.false_eq_true, if_false]

/-- R53: the minor opcode 0x00 is unassigned in every class of the formats VR and UR. -/
theorem vRow_minor_zero (cls : BitVec 4) (ur : Bool) : vRow cls ur 0 = none := by
  revert cls ur
  decide

/-! ## The two patterns of empty memory (R54) -/

theorem decodeCode_zero (e : DecEnv) (lit : DWord) : decodeCode e 0#64 lit = .error (.ill 0x03) :=
  decodeCode_of_vRow_none (by decide) (by decide) (by decide) (vRow_minor_zero _ _) e lit

theorem decodeCode_allOnes (e : DecEnv) (lit : DWord) : decodeCode e (BitVec.allOnes 64) lit = .error (.ill 0x01) :=
  decodeCode_of_class_unassigned (by decide) e lit

/-! ## The issue of a word that is ILLENC -/

@[simp] theorem runFate_ill (s : State) (sub : Nat) : s.runFate (.ill sub) = s.userTrap 0x01 sub := rfl

/-- R72: a split that issues a word which is ILLENC in every environment takes the user trap with the subcode, at its own PC. -/
theorem issueWord_of_illenc {w lit : DWord} {sub : Nat} (h : ∀ env, decodeCode env w lit = .error (.ill sub)) (s : State) (g e : Nat) :
    s.issueWord g e w lit = .next (State.userTrap
      { s with cur := { s.cur with g, e, pc := ((s.group g).set e).pc, size := if wL w then 16 else 8, word := w, lit } } 0x01 sub) := by
  simp only [State.issueWord, h, runFate_ill, ok]

/-- Settles O3: neither word's check reads the environment, so the decoder refuses it in every one, and the issue traps with its
subcode; the all-ones word has L = 1, so its size is that of a word with a literal. -/
theorem emptyPatternsTrap : Obligations.EmptyPatternsTrap := by
  unfold Obligations.EmptyPatternsTrap
  refine ⟨decodeCode_zero, decodeCode_allOnes, by decide, fun s g e lit => ⟨?_, ?_⟩⟩
  · exact issueWord_of_illenc (fun env => decodeCode_zero env lit) s g e
  · exact issueWord_of_illenc (fun env => decodeCode_allOnes env lit) s g e

end Sys2Proof
end

section
/-! Proofs about integer division (04_registers_integer.md, R128): the code of a present integer reads back, quotient and remainder of
present operands are present, and DIV and REM change no flag and ask for no trap. -/

namespace Sys2Proof.Machine
open Sys2Proof Sys2Proof.Claims

/-! ## The integer types -/

/-- R79: an I type reads two's complement codes of some width, an N type natural ones, whatever the format registers hold. -/
theorem codingOf_integer {t : Ty} (ht : t.isI ∨ t.isN) :
    (t.isI = true ∧ ∃ n, ∀ nf, codingOf nf t = .int (n + 1)) ∨ (t.isI = false ∧ ∃ n, ∀ nf, codingOf nf t = .nat n) := by
  cases t with
  | i8 => exact .inl ⟨rfl, 7, fun _ => rfl⟩
  | i16 => exact .inl ⟨rfl, 15, fun _ => rfl⟩
  | i32 => exact .inl ⟨rfl, 31, fun _ => rfl⟩
  | i64 => exact .inl ⟨rfl, 63, fun _ => rfl⟩
  | n8 => exact .inr ⟨rfl, 8, fun _ => rfl⟩
  | n16 => exact .inr ⟨rfl, 16, fun _ => rfl⟩
  | n32 => exact .inr ⟨rfl, 32, fun _ => rfl⟩
  | n64 => exact .inr ⟨rfl, 64, fun _ => rfl⟩
  | _ => simp [Ty.isI, Ty.isN] at ht

theorem codingOf_integer_eq {t : Ty} (ht : t.isI ∨ t.isN) (nf : BitVec 3 → Word) : codingOf nf t = codingOf (fun _ => 0) t := by
  obtain ⟨-, n, hc⟩ | ⟨-, n, hc⟩ := codingOf_integer ht <;> rw [hc, hc]

theorem isB_of_integer {t : Ty} (ht : t.isI ∨ t.isN) : t.isB = false := by
  cases t <;> simp_all [Ty.isI, Ty.isN, Ty.isB]

theorem fitsPlace_of_integer {t : Ty} (ht : t.isI ∨ t.isN) (g : Group) : FitsPlace g t := by
  cases t <;> simp_all [Ty.isI, Ty.isN, contW]

theorem elOf_lt (g : Group) (t : Ty) (v j : Nat) : elOf g t v j < 2 ^ (codingOf g.nf t).w := Nat.mod_lt _ (by positivity)

/-! ## The present range -/

/-- R79, R127: an integer that a type has a present code for. -/
def Presents (t : Ty) (x : Int) : Prop := (codingOf (fun _ => 0) t).minInt ≤ x ∧ x ≤ (codingOf (fun _ => 0) t).maxInt

/-- R79: the present range starts at 0, or is symmetric about it. -/
theorem minInt_integer {t : Ty} (ht : t.isI ∨ t.isN) :
    (codingOf (fun _ => 0) t).minInt = 0 ∨ (codingOf (fun _ => 0) t).minInt = -(codingOf (fun _ => 0) t).maxInt := by
  obtain ⟨-, n, hc⟩ | ⟨-, n, hc⟩ := codingOf_integer ht
  · exact .inr (by rw [hc]; rfl)
  · exact .inl (by rw [hc]; rfl)

/-! Both kinds with their width `n`, an I type's sign bit apart; the bounds stand as casts of natural powers. -/

theorem intOf_int {t : Ty} {n : Nat} (hi : t.isI = true) (hc : ∀ nf, codingOf nf t = .int (n + 1)) (code : Nat) :
    intOf t code =
      if code = 2 ^ n then none else if 2 ^ n ≤ code then some ((code : Int) - (2 ^ (n + 1) : Nat)) else some (code : Int) := by
  simp [intOf, hc, hi, Coding.absent, Coding.w, eq_comm (a := code)]

theorem intOf_nat {t : Ty} {n : Nat} (hi : t.isI = false) (hc : ∀ nf, codingOf nf t = .nat n) (code : Nat) :
    intOf t code = if code = 2 ^ n - 1 then none else some (code : Int) := by
  simp [intOf, hc, hi, Coding.absent, Coding.w, eq_comm (a := code)]

theorem presents_int {t : Ty} {n : Nat} (hc : ∀ nf, codingOf nf t = .int (n + 1)) (x : Int) :
    Presents t x ↔ -((2 ^ n : Nat) : Int) < x ∧ x < (2 ^ n : Nat) := by
  simp only [Presents, hc, Coding.minInt, Coding.maxInt, Nat.add_sub_cancel, Nat.cast_pow, Nat.cast_ofNat]
  omega

theorem presents_nat {t : Ty} {n : Nat} (hc : ∀ nf, codingOf nf t = .nat n) (x : Int) :
    Presents t x ↔ 0 ≤ x ∧ x + 1 < (2 ^ n : Nat) := by
  simp only [Presents, hc, Coding.minInt, Coding.maxInt, Nat.cast_pow, Nat.cast_ofNat]
  omega

/-- A code that is not the absent one reads as an integer of the present range. -/
theorem presents_of_intOf {t : Ty} (ht : t.isI ∨ t.isN) {code : Nat} {x : Int} (hlt : code < 2 ^ (codingOf (fun _ => 0) t).w)
    (h : intOf t code = some x) : Presents t x := by
  obtain ⟨hi, n, hc⟩ | ⟨hi, n, hc⟩ := codingOf_integer ht
  · rw [hc, Coding.w, Nat.pow_succ] at hlt
    rw [intOf_int hi hc, Nat.pow_succ] at h
    rw [presents_int hc]
    generalize 2 ^ n = p at *
    split_ifs at h with habs hneg <;> obtain rfl := Option.some.inj h <;> omega
  · rw [hc, Coding.w] at hlt
    rw [intOf_nat hi hc] at h
    rw [presents_nat hc]
    split_ifs at h with habs
    obtain rfl := Option.some.inj h
    omega

theorem intCode_of_nonneg {n : Nat} {x : Int} (h0 : 0 ≤ x) (hx : x < (2 ^ n : Nat)) : intCode n x = x.toNat := by
  rw [intCode, Int.emod_eq_of_lt h0 (by simpa using hx)]

theorem intCode_of_neg {n : Nat} {x : Int} (h0 : x < 0) (hx : -((2 ^ n : Nat) : Int) ≤ x) :
    intCode n x = (x + (2 ^ n : Nat)).toNat := by
  rw [intCode, ← Int.add_emod_right, ← Nat.cast_ofNat, ← Nat.cast_pow, Int.emod_eq_of_lt (by omega) (by omega)]

/-- Fit leaves an integer of the present range as it is (R127). -/
theorem fitInt_of_presents {t : Ty} (ht : t.isI ∨ t.isN) {x : Int} (hx : Presents t x) :
    fitInt t x = intCode (codingOf (fun _ => 0) t).w x := by
  obtain ⟨hlo, hhi⟩ := hx
  rw [fitInt]
  simp only [isB_of_integer ht, Bool.false_eq_true, if_false, if_neg (not_lt.mpr hlo), if_neg (not_lt.mpr hhi)]

/-- An integer of the present range reads back from its code. -/
theorem intOf_fitInt {t : Ty} (ht : t.isI ∨ t.isN) {x : Int} (hx : Presents t x) :
    intOf t (fitInt t x % 2 ^ (codingOf (fun _ => 0) t).w) = some x := by
  rw [fitInt_of_presents ht hx]
  obtain ⟨hi, n, hc⟩ | ⟨hi, n, hc⟩ := codingOf_integer ht
  · obtain ⟨hlo, hhi⟩ := (presents_int hc x).1 hx
    have hp : 2 ^ (n + 1) = 2 ^ n * 2 := Nat.pow_succ ..
    rw [hc, Coding.w, intOf_int hi hc]
    rcases lt_or_ge x 0 with hneg | hpos
    · rw [intCode_of_neg hneg (by omega), Nat.mod_eq_of_lt (by omega), if_neg (by omega), if_pos (by omega)]
      congr 1
      omega
    · rw [intCode_of_nonneg hpos (by omega), Nat.mod_eq_of_lt (by omega), if_neg (by omega), if_neg (by omega)]
      congr 1
      omega
  · obtain ⟨hlo, hhi⟩ := (presents_nat hc x).1 hx
    rw [hc, Coding.w, intOf_nat hi hc, intCode_of_nonneg hlo (by omega), Nat.mod_eq_of_lt (by omega), if_neg (by omega)]
    congr 1
    omega

/-- The absent code reads as absent. -/
theorem intOf_absentCode {t : Ty} (ht : t.isI ∨ t.isN) : intOf t (absentCode t % 2 ^ (codingOf (fun _ => 0) t).w) = none := by
  obtain ⟨-, n, hc⟩ | ⟨-, n, hc⟩ := codingOf_integer ht
  · have hlt : 2 ^ n < 2 ^ (n + 1) := Nat.pow_lt_pow_right (by decide) n.lt_succ_self
    simp [intOf, absentCode, hc, Coding.absent, Coding.w, Nat.mod_eq_of_lt hlt]
  · have hlt : 2 ^ n - 1 < 2 ^ n := Nat.sub_lt (by positivity) (by decide)
    simp [intOf, absentCode, hc, Coding.absent, Coding.w, Nat.mod_eq_of_lt hlt]

/-! ## Quotient and remainder -/

theorem opDiv_some (t : Ty) (x y : Int) : opDiv t [some x, some y] =
    if y = 0 then (if x > 0 then (codingOf (fun _ => 0) t).maxInt else if x < 0 then (codingOf (fun _ => 0) t).minInt else 0)
    else x.tdiv y := by
  simp [opDiv]

/-- R128: the remainder is a − b · (a DIV b), and a itself where b = 0. -/
theorem opRem_some (x y : Int) : opRem [some x, some y] = if y = 0 then x else x - y * x.tdiv y := by
  simp [opRem, Int.tmod_def]

theorem presents_opDiv {t : Ty} (ht : t.isI ∨ t.isN) {x y : Int} (hx : Presents t x) (hy : Presents t y) :
    Presents t (opDiv t [some x, some y]) := by
  rw [opDiv_some]
  have hmin := minInt_integer ht
  simp only [Presents] at *
  split
  · split
    · omega
    · split <;> omega
  · have habs : (x.tdiv y).natAbs ≤ x.natAbs := by rw [Int.natAbs_tdiv]; exact Nat.div_le_self ..
    rcases hmin with h0 | hsym
    · have hq : 0 ≤ x.tdiv y := Int.tdiv_nonneg (by omega) (by omega)
      omega
    · omega

theorem presents_opRem {t : Ty} (ht : t.isI ∨ t.isN) {x y : Int} (hx : Presents t x) :
    Presents t (opRem [some x, some y]) := by
  rw [opRem_some]
  have hmin := minInt_integer ht
  simp only [Presents] at *
  split
  · exact hx
  · rw [← Int.tmod_def]
    have habs : (x.tmod y).natAbs ≤ x.natAbs := by rw [Int.natAbs_tmod]; exact Nat.mod_le ..
    rcases hmin with h0 | hsym
    · have hq : 0 ≤ x.tmod y := Int.tmod_nonneg y (by omega)
      omega
    · omega

/-! ## One element -/

/-- Of present operands, a result in the present range reads back (R127). -/
theorem intOf_intElem_present {t : Ty} (ht : t.isI ∨ t.isN) {op : List (Option Int) → Int} {a b : Nat} {x y : Int}
    (ha : intOf t a = some x) (hb : intOf t b = some y) (hop : Presents t (op [some x, some y])) :
    intOf t (intElem t false op [a, b] % 2 ^ (codingOf (fun _ => 0) t).w) = some (op [some x, some y]) := by
  have he : intElem t false op [a, b] = fitInt t (op [some x, some y]) := by simp [intElem, ha, hb]
  rw [he, intOf_fitInt ht hop]

/-- Without K an absent operand propagates (R94). -/
theorem intOf_intElem_absent {t : Ty} (ht : t.isI ∨ t.isN) (op : List (Option Int) → Int) {a b : Nat}
    (h : intOf t a = none ∨ intOf t b = none) :
    intOf t (intElem t false op [a, b] % 2 ^ (codingOf (fun _ => 0) t).w) = none := by
  have he : intElem t false op [a, b] = absentCode t := by rcases h with h | h <;> simp [intElem, h]
  rw [he, intOf_absentCode ht]

/-! ## A form d ← a b that sets no flag -/

/-- The elements of a VR form of two sources, in the active lanes; the flags and the pending trap are as before. `elemResult_vr` holds
for whatever instruction runs `intBin false f h`, so that it is cited at DIV for every `h`. -/
theorem intBin_vr {s : State} {f : VF} (hs : IssuesSplit s) (ht : f.ty.isI ∨ f.ty.isN) (hd : f.dst.toNat + f.ty.regs ≤ 128)
    (h : List Nat → Nat) :
    let t := intBin false f h s
    (∀ L j, L < 32 → j < elemsOf s.cg.nf f.ty → bit (s.act f.msk) L = true →
      elOf s.cg f.ty (t.cg.vlane f.dst.toNat f.ty.regs L) j =
        h [elOf s.cg f.ty (s.cg.srcA false f f.ty L) j, elOf s.cg f.ty (s.cg.srcC false f f.ty L) j] %
          2 ^ (codingOf (fun _ => 0) f.ty).w) ∧
    t.cg.regs.fpflags = s.cg.regs.fpflags ∧ t.cg.trapReq = s.cg.trapReq := by
  obtain ⟨hval, -, -, -, ⟨-, -, hflags, -⟩, hgroup⟩ :=
    elemResult_vr (h := h) (src := srcAC false f) hs (fitsPlace_of_integer ht _) hd (.divIntVr f)
  rw [codingOf_integer_eq ht] at hval
  exact ⟨hval, hflags, (congrArg Group.trapReq hgroup :)⟩

end Sys2Proof.Machine

namespace Sys2Proof
open Sys2Proof.Machine Sys2Proof.Claims

/-- Settles O11: quotient and remainder of present operands lie in the present range, so Fit keeps them and their codes read back; an
absent operand gives the absent code. -/
theorem divisionNeverTraps : Obligations.DivisionNeverTraps := by
  unfold Obligations.DivisionNeverTraps
  intro s f hs ht hd c a b
  obtain ⟨hdiv, hdivFlags, hdivTrap⟩ := intBin_vr hs ht hd (intElem f.ty false (opDiv f.ty))
  obtain ⟨hrem, hremFlags, hremTrap⟩ := intBin_vr hs ht hd (intElem f.ty false opRem)
  refine ⟨_, _, rfl, rfl, fun L j hL hj hact => ?_, hdivFlags, hremFlags, hdivTrap, hremTrap⟩
  have hpres (v : Nat) {x : Int} (h : intOf f.ty (elOf s.cg f.ty v j) = some x) : Presents f.ty x :=
    presents_of_intOf ht (codingOf_integer_eq ht s.cg.nf ▸ elOf_lt ..) h
  dsimp only
  rw [hdiv L j hL hj hact, hrem L j hL hj hact]
  cases hx : intOf f.ty (a L j) with
  | none => exact ⟨intOf_intElem_absent ht _ (.inl hx), intOf_intElem_absent ht _ (.inl hx)⟩
  | some x =>
    cases hy : intOf f.ty (b L j) with
    | none => exact ⟨intOf_intElem_absent ht _ (.inr hy), intOf_intElem_absent ht _ (.inr hy)⟩
    | some y =>
      rw [intOf_intElem_present ht hx hy (presents_opDiv ht (hpres _ hx) (hpres _ hy)),
        intOf_intElem_present ht hx hy (presents_opRem ht (hpres _ hx)), opDiv_some, opRem_some]
      by_cases h0 : y = 0
      · simp only [if_pos h0, c, and_self]
      · simp only [if_neg h0, and_self]

end Sys2Proof
end

section
/-! Proofs about the tile registers (16_collectives_fabric.md, R359, R360): the fields of the image that TSET writes, what its write
leaves alone in the issuing group, and the word that TGET sends. -/

namespace Sys2Proof.Machine
open Sys2Proof Sys2Proof.Claims

/-! ## A tile's image (R359) -/

/-- The image of a tile: STRIDE, COLS, ROWS, V, and PIDX in the low four bits. -/
def tileImage (r c st : Word) (v : Bool) (p : BitVec 4) : QWord := st ++ c ++ r ++ BitVec.ofBool v ++ 0#27 ++ p

/-- Above V stand the three values. -/
theorem bits_tileImage (r c st : Word) (v : Bool) (p : BitVec 4) (lo n : Nat) :
    bits (tileImage r c st v p) (32 + lo) n = BitVec.extractLsb' lo n (st ++ c ++ r) := by
  change BitVec.extractLsb' (32 + lo) n (st ++ c ++ r ++ BitVec.ofBool v ++ 0#27 ++ p) = _
  rw [BitVec.extractLsb'_append_eq_of_le (by omega), BitVec.extractLsb'_append_eq_of_le (by omega),
    BitVec.extractLsb'_append_eq_of_le (by omega), show 32 + lo - 4 - 27 - 1 = lo by omega]

@[simp] theorem tileStride_tileImage (r c st : Word) (v : Bool) (p : BitVec 4) : tileStride (tileImage r c st v p) = st.toNat := by
  rw [tileStride, bits_tileImage r c st v p 64, BitVec.extractLsb'_append_eq_of_le (by decide)]
  exact congrArg BitVec.toNat BitVec.extractLsb'_append_eq_left

@[simp] theorem tileCols_tileImage (r c st : Word) (v : Bool) (p : BitVec 4) : tileCols (tileImage r c st v p) = c.toNat := by
  rw [tileCols, bits_tileImage r c st v p 32, BitVec.extractLsb'_append_eq_of_le (by decide)]
  exact congrArg BitVec.toNat BitVec.extractLsb'_append_eq_right

@[simp] theorem tileRows_tileImage (r c st : Word) (v : Bool) (p : BitVec 4) : tileRows (tileImage r c st v p) = r.toNat := by
  rw [tileRows, bits_tileImage r c st v p 0, BitVec.extractLsb'_append_eq_right]

@[simp] theorem tilePidx_tileImage (r c st : Word) (v : Bool) (p : BitVec 4) : tilePidx (tileImage r c st v p) = p.toNat :=
  congrArg BitVec.toNat BitVec.extractLsb'_append_eq_right

@[simp] theorem tileV_tileImage (r c st : Word) (v : Bool) (p : BitVec 4) : tileV (tileImage r c st v p) = v := by
  change (st ++ c ++ r ++ BitVec.ofBool v ++ 0#27 ++ p).getLsbD 31 = v
  rw [BitVec.getLsbD_append, if_neg (by decide), BitVec.getLsbD_append, if_neg (by decide), BitVec.getLsbD_append, if_pos (by decide),
    BitVec.getLsbD_ofBool]
  rfl

/-- R360: no value absent, a row, columns within the stride, and a count of elements in range. -/
def tileValid (r c st : Word) : Bool :=
  r != ones32 && c != ones32 && st != ones32 && 1 ≤ r.toNat && 1 ≤ c.toNat && c.toNat ≤ st.toNat && r.toNat * c.toNat ≤ 2 ^ 32 - 2

theorem tileValid_iff (r c st : Word) :
    tileValid r c st = true ↔ r ≠ ones32 ∧ c ≠ ones32 ∧ st ≠ ones32 ∧ 1 ≤ r.toNat ∧ 1 ≤ c.toNat ∧ c.toNat ≤ st.toNat ∧
      r.toNat * c.toNat ≤ 2 ^ 32 - 2 := by
  simp only [tileValid, Bool.and_eq_true, bne_iff_ne, decide_eq_true_eq, and_assoc]

/-! ## A tile written (R360) -/

/-- Tile `n` of a group replaced. -/
def Group.setTile (g : Group) (n : Nat) (w : QWord) : Group := { g with regs := { g.regs with t := vecPut g.regs.t n w } }

/-- After the advance, tile `n` holds what the issuing instruction wrote. -/
theorem Group.Advanced.tile_setTile_same {g x : Group} {n : Nat} {w : QWord} (hx : (g.setTile n w).Advanced x) (hn : n < 8) :
    x.tile n = w := by
  rw [Group.tile, hx.eq]
  exact vecAt_put_same _ _ _ hn

theorem Group.Advanced.tile_setTile_ne {g x : Group} {n m : Nat} {w : QWord} (hx : (g.setTile n w).Advanced x) (hm : m ≠ n) :
    x.tile m = g.tile m := by
  rw [Group.tile, hx.eq]
  exact vecAt_put_ne _ _ _ hm.symm

/-- A tile is none of the V, S, P and M registers. -/
theorem Group.Advanced.keepsRegs_setTile {g x : Group} {n : Nat} {w : QWord} (hx : (g.setTile n w).Advanced x) :
    KeepsRegs g x {} :=
  hx.keepsRegs (t := false) (ws := []) (List.forall_mem_nil _)

theorem Group.Advanced.keepsGroup_setTile {g x : Group} {n : Nat} {w : QWord} (hx : (g.setTile n w).Advanced x) :
    KeepsGroup g x := by
  rw [KeepsGroup, hx.eq]
  rfl

/-- The other special registers are as before. -/
theorem Group.Advanced.special_setTile {g x : Group} {n : Nat} {w : QWord} (hx : (g.setTile n w).Advanced x) :
    x.regs.f = g.regs.f ∧ x.regs.fpflags = g.regs.fpflags ∧ x.regs.status = g.regs.status := by
  rw [hx.eq]
  exact ⟨rfl, rfl, rfl⟩

/-! ## An unchecked result sent (R161) -/

theorem Group.Advanced.sent {g x : Group} {t : Bool} {ws : List RegW} {fls : List Fl} (hx : (g.send t ws fls).Advanced x) :
    Sent g x t ws fls := by
  rw [Sent, hx.eq]
  rfl

theorem Group.Advanced.keepsGroup_send {g x : Group} {t : Bool} {ws : List RegW} {fls : List Fl} (hx : (g.send t ws fls).Advanced x) :
    KeepsGroup g x := by
  rw [KeepsGroup, hx.eq]
  rfl

/-! ## The issue of a form that goes on outside run-ahead (R347) -/

theorem State.unlessAhead_of_notAhead {s : State} (h : NotAhead s) (k : State → State) : s.unlessAhead k = k s := by
  rw [State.unlessAhead, h]
  rfl

/-- An effect on the issuing group, then the advance: the group has advanced, and nothing else differs. -/
theorem State.issue_advanced {s : State} (h : Issues s) (y : Bool) (f : Group → Group) :
    (f s.cg).Advanced (s.issue y f).cg ∧ OnlyGroup s (s.issue y f) := by
  obtain ⟨x, lb, hx, e⟩ := State.issue_eq h y f
  rw [e, State.cg_of_eq h]
  exact ⟨hx, State.onlyGroup_of_eq⟩

/-- A form that only sends an unchecked result writes no register yet. -/
theorem State.issue_send {s : State} (h : Issues s) (y t : Bool) (ws : List RegW) (fls : List Fl) :
    RegFrame s (s.issue y fun g => g.send t ws fls) {} ∧ Sent s.cg (s.issue y fun g => g.send t ws fls).cg t ws fls := by
  obtain ⟨hx, honly⟩ := State.issue_advanced h y fun g => g.send t ws fls
  have hput : ((s.cg.send t ws fls).put false []).Advanced (s.issue y fun g => g.send t ws fls).cg := hx
  exact ⟨⟨honly, hput.keepsRegs (List.forall_mem_nil _), hput.keepsSpecial, hx.keepsGroup_send⟩, hx.sent⟩

/-! ## TSET and TGET -/

/-- The image that TSET makes of the registers its word names. -/
def tsetImage (f : ENF) (g : Group) : QWord :=
  let r := g.sreg f.sa.toNat
  let c := g.sreg f.sb.toNat
  let st := g.sreg f.sc.toNat
  tileImage r c st (tileValid r c st) (bits f.dst 0 4)

theorem exec_tset {s : State} (h : NotAhead s) (f : ENF) :
    exec (.tset f) s = .next (s.issue f.y fun g => g.setTile f.tsel.toNat (tsetImage f g)) :=
  congrArg Host.Outcome.next (State.unlessAhead_of_notAhead h _)

theorem exec_tget {s : State} (h : NotAhead s) (f : ENF) :
    exec (.tget f) s = .next (s.issue f.y fun g =>
      g.send false [.s f.dst.toNat (bits (g.tile f.tsel.toNat) (32 * (f.sc.toNat % 4)) 32) ones32] []) :=
  congrArg Host.Outcome.next (State.unlessAhead_of_notAhead h _)

end Sys2Proof.Machine

namespace Sys2Proof
open Sys2Proof.Machine Sys2Proof.Claims

/-- Settles O45: outside run-ahead both forms issue, TSET with the image of its values and their validity in its tile, TGET with the
tile's word on its way. -/
theorem tilesAreSetAndRead : Obligations.TilesAreSetAndRead := by
  unfold Obligations.TilesAreSetAndRead
  intro s f ⟨hissues, _⟩ hahead g r c st n
  refine ⟨⟨_, exec_tset hahead f, ?_⟩, ⟨_, exec_tget hahead f, ?_⟩⟩
  · obtain ⟨hx, honly⟩ := State.issue_advanced hissues f.y fun g => g.setTile n (tsetImage f g)
    obtain ⟨hf, hfp, hst⟩ := hx.special_setTile
    refine ⟨honly, hx.keepsRegs_setTile, hx.keepsGroup_setTile, hf, hfp, hst, fun m hm => hx.tile_setTile_ne hm, ?_⟩
    rw [hx.tile_setTile_same f.tsel.isLt]
    simp only [tsetImage, tileRows_tileImage, tileCols_tileImage, tileStride_tileImage, tilePidx_tileImage, tileV_tileImage]
    exact ⟨rfl, rfl, rfl, BitVec.extractLsb'_toNat 0 4 f.dst, tileValid_iff r c st⟩
  · exact State.issue_send hissues f.y false _ []

end Sys2Proof
end
